-- ==== Sys2Proof/Word.lean ====
section
/-! DEFINITION. Words, bytes and their plainest arithmetic (R4, R9, R64). -/
namespace Sys2Proof

/-- A 64-bit register value (R58). -/
abbrev Word := BitVec 64
/-- A byte of memory. -/
abbrev Byte := BitVec 8
/-- The number of a general register g0 to g15. -/
abbrev Reg := Fin 16
/-- The number of a vector register v0 to v7. -/
abbrev VReg := Fin 8
/-- The number of a mask register k0 to k3. -/
abbrev KReg := Fin 4
/-- The number of a ring handle q0 to q7. -/
abbrev QReg := Fin 8
/-- A plot core number (R15). -/
abbrev CoreId := BitVec 14
/-- A launch identifier (R39). -/
abbrev Lid := BitVec 16

/-- The word of a truth value. -/
def boolWord (b : Bool) : Word := if b then 1 else 0

/-- The natural number of a truth value. -/
def boolNat (b : Bool) : Nat := if b then 1 else 0

end Sys2Proof
end

