-- ==== Sys2Proof/Fields.lean ====
section
/-! DEFINITION. The field types that instructions and events name: lane types and formats (R74, R79), conditions (R77),
scopes (R170), the modifier word (R70), ring operands (R76), cause codes (R368). -/
namespace Sys2Proof

/-- Every number format of R74 and R79. -/
inductive Ty where
  | f64 | f32 | f16 | bf16 | e4m3 | e5m2 | e3m2 | e2m3 | blk4 | i4
  | i8 | i16 | i32 | i64 | n8 | n16 | n32 | n64
  deriving DecidableEq, Repr

/-- The lane-type code of R74, or 16 for a format that is no lane type. -/
def Ty.laneCode : Ty → Nat
  | .f64 => 0 | .f32 => 1 | .f16 => 2 | .bf16 => 3 | .i8 => 4 | .i16 => 5 | .i32 => 6 | .i64 => 7
  | .n8 => 8 | .n16 => 9 | .n32 => 10 | .n64 => 11
  | .e4m3 => 16 | .e5m2 => 16 | .e3m2 => 16 | .e2m3 => 16 | .blk4 => 16 | .i4 => 16

/-- The lane type of a code (R74); codes 12 to 15 are reserved. -/
def Ty.ofLane : Nat → Option Ty
  | 0 => some .f64 | 1 => some .f32 | 2 => some .f16 | 3 => some .bf16 | 4 => some .i8 | 5 => some .i16
  | 6 => some .i32 | 7 => some .i64 | 8 => some .n8 | 9 => some .n16 | 10 => some .n32 | 11 => some .n64
  | _ => none

/-- The format of a code of R79; code 15 is reserved. -/
def Ty.ofFmt : Nat → Option Ty
  | 0 => some .f64 | 1 => some .f32 | 2 => some .f16 | 3 => some .bf16 | 4 => some .e4m3 | 5 => some .e5m2
  | 6 => some .e3m2 | 7 => some .e2m3 | 8 => some .blk4 | 9 => some .i8 | 10 => some .i16 | 11 => some .i32
  | 12 => some .n8 | 13 => some .n16 | 14 => some .i4 | _ => none

/-- The format code of R79, or 16 for a type that has none. -/
def Ty.fmtCode : Ty → Nat
  | .f64 => 0 | .f32 => 1 | .f16 => 2 | .bf16 => 3 | .e4m3 => 4 | .e5m2 => 5 | .e3m2 => 6 | .e2m3 => 7
  | .blk4 => 8 | .i8 => 9 | .i16 => 10 | .i32 => 11 | .n8 => 12 | .n16 => 13 | .i4 => 14
  | .i64 => 16 | .n32 => 16 | .n64 => 16

/-- The width in bits of one element (R91, R93, R95, R96). -/
def Ty.width : Ty → Nat
  | .f64 => 64 | .f32 => 32 | .f16 => 16 | .bf16 => 16 | .e4m3 => 8 | .e5m2 => 8 | .e3m2 => 6 | .e2m3 => 6
  | .blk4 => 4 | .i4 => 4 | .i8 => 8 | .i16 => 16 | .i32 => 32 | .i64 => 64
  | .n8 => 8 | .n16 => 16 | .n32 => 32 | .n64 => 64

/-- The lane count of a 512-bit register (R74). -/
def Ty.lanes (t : Ty) : Nat := 512 / t.width

/-- The float lane types (R151). -/
def Ty.isFloat : Ty → Bool
  | .f64 => true | .f32 => true | .f16 => true | .bf16 => true
  | _ => false

/-- The integer types, raw i4 included (R95). -/
def Ty.isInt : Ty → Bool
  | .i4 => true | .i8 => true | .i16 => true | .i32 => true | .i64 => true
  | .n8 => true | .n16 => true | .n32 => true | .n64 => true
  | _ => false

/-- The signed integer types (R95). -/
def Ty.isSigned : Ty → Bool
  | .i4 => true | .i8 => true | .i16 => true | .i32 => true | .i64 => true
  | _ => false

/-- The destinations for which stochastic rounding is legal (R72). -/
def Ty.srLegal : Ty → Bool
  | .e4m3 => true | .e5m2 => true | .e3m2 => true | .e2m3 => true | .blk4 => true
  | .i8 => true | .n8 => true | .i4 => true
  | _ => false

/-- The conditions of R77. -/
inductive Cond where
  | eq | ne | hs | lo | mi | pl | vs | vc | hi | ls | ge | lt | gt | le | al
  deriving DecidableEq, Repr

/-- The code of a condition (R77). -/
def Cond.code : Cond → Nat
  | .eq => 0 | .ne => 1 | .hs => 2 | .lo => 3 | .mi => 4 | .pl => 5 | .vs => 6 | .vc => 7
  | .hi => 8 | .ls => 9 | .ge => 10 | .lt => 11 | .gt => 12 | .le => 13 | .al => 14

/-- The condition of a code; 15 is reserved (R77). -/
def Cond.of : Nat → Option Cond
  | 0 => some .eq | 1 => some .ne | 2 => some .hs | 3 => some .lo | 4 => some .mi | 5 => some .pl
  | 6 => some .vs | 7 => some .vc | 8 => some .hi | 9 => some .ls | 10 => some .ge | 11 => some .lt
  | 12 => some .gt | 13 => some .le | 14 => some .al | _ => none

/-- The scopes of R170. -/
inductive Scope where
  | core | cluster | tile | die | package | system
  deriving DecidableEq, Repr

/-- The code of a scope (R170). -/
def Scope.code : Scope → Nat
  | .core => 0 | .cluster => 1 | .tile => 2 | .die => 3 | .package => 4 | .system => 5

/-- The scope of a code; 6 and 7 are reserved (R170). -/
def Scope.of : Nat → Option Scope
  | 0 => some .core | 1 => some .cluster | 2 => some .tile | 3 => some .die | 4 => some .package
  | 5 => some .system | _ => none

/-- The three kinds of fence (R206). -/
inductive FenceKind where
  | rel | acq | full
  deriving DecidableEq, Repr

/-- The code of a fence kind (R206). -/
def FenceKind.code : FenceKind → Nat
  | .rel => 0 | .acq => 1 | .full => 2

/-- The fence kind of a code; 3 is reserved (R206). -/
def FenceKind.of : Nat → Option FenceKind
  | 0 => some .rel | 1 => some .acq | 2 => some .full | _ => none

/-- The predicates of `vcmp` (R153). -/
inductive CmpPred where
  | eq | ne | lt | le | gt | ge | un
  deriving DecidableEq, Repr

/-- The function number of a predicate (R153). -/
def CmpPred.code : CmpPred → Nat
  | .eq => 0 | .ne => 1 | .lt => 2 | .le => 3 | .gt => 4 | .ge => 5 | .un => 6

/-- The predicate of a function number (R153). -/
def CmpPred.of : Nat → Option CmpPred
  | 0 => some .eq | 1 => some .ne | 2 => some .lt | 3 => some .le | 4 => some .gt | 5 => some .ge
  | 6 => some .un | _ => none

/-- The operations of `vred` (R155). -/
inductive RedOp where
  | sum | prod | min | max
  deriving DecidableEq, Repr

/-- The function number of a reduction (R155). -/
def RedOp.code : RedOp → Nat
  | .sum => 0 | .prod => 1 | .min => 2 | .max => 3

/-- The reduction of a function number (R155). -/
def RedOp.of : Nat → Option RedOp
  | 0 => some .sum | 1 => some .prod | 2 => some .min | 3 => some .max | _ => none

/-- The operations on a memory word of major 0x1A (R202); `cas` is compare-and-swap. -/
inductive AOp where
  | add | and | or | xor | min | max | swap | fadd | cas
  deriving DecidableEq, Repr

/-- The op code of R202. -/
def AOp.code : AOp → Nat
  | .add => 0 | .and => 1 | .or => 2 | .xor => 3 | .min => 4 | .max => 5 | .swap => 6 | .fadd => 7 | .cas => 0

/-- The op of `atom` (R202). -/
def AOp.ofAtom : Nat → Option AOp
  | 0 => some .add | 1 => some .and | 2 => some .or | 3 => some .xor | 4 => some .min | 5 => some .max
  | 6 => some .swap | _ => none

/-- The op of `red` (R202). -/
def AOp.ofRed : Nat → Option AOp
  | 0 => some .add | 1 => some .and | 2 => some .or | 3 => some .xor | 4 => some .min | 5 => some .max
  | 7 => some .fadd | _ => none

/-- The kinds of a scalar load (R141); stores use the first four. -/
inductive LdKind where
  | n8 | n16 | n32 | n64 | i8 | i16 | i32
  deriving DecidableEq, Repr

/-- The kind code of R141. -/
def LdKind.code : LdKind → Nat
  | .n8 => 0 | .n16 => 1 | .n32 => 2 | .n64 => 3 | .i8 => 4 | .i16 => 5 | .i32 => 6

/-- The kind of a code; 7 is no kind (R141). -/
def LdKind.of : Nat → Option LdKind
  | 0 => some .n8 | 1 => some .n16 | 2 => some .n32 | 3 => some .n64 | 4 => some .i8 | 5 => some .i16
  | 6 => some .i32 | _ => none

/-- The size in bytes of a kind (R141). -/
def LdKind.size : LdKind → Nat
  | .n8 => 1 | .n16 => 2 | .n32 => 4 | .n64 => 8 | .i8 => 1 | .i16 => 2 | .i32 => 4

/-- Whether the value is sign-extended (R141). -/
def LdKind.signed : LdKind → Bool
  | .i8 => true | .i16 => true | .i32 => true
  | _ => false

/-- The modifier word (R70). -/
structure Modifier where
  sat : Bool
  clamp : Fin 3
  nega : Bool
  negb : Bool
  absa : Bool
  absb : Bool
  negr : Bool
  scale : BitVec 6
  rmo : Fin 6
  deriving DecidableEq, Repr

/-- The modifier that changes nothing. -/
def Modifier.none : Modifier := ⟨false, 0, false, false, false, false, false, 0, 0⟩

/-- The vb operand of a vector instruction: a register, or a ring with its wait count minus one (R76). -/
inductive VSrc where
  | reg (b : VReg)
  | ring (q : QReg) (wc : Fin 4)
  deriving DecidableEq, Repr

/-- The rounding modes (R60, R101, R102). -/
inductive RMode where
  | rne | rtz | rup | rdn | sr
  deriving DecidableEq, Repr

/-- The mode of a code of ST.RM or RMO; the codes that name no mode read as RNE (R61). -/
def RMode.of : Nat → RMode
  | 2 => .rtz | 3 => .rup | 4 => .rdn | 5 => .sr | _ => .rne

/-- A cause code 0x00 to 0xBF (R344, R368). -/
abbrev Cause := BitVec 8

/-- The delivery classes of R344; E falls back on A. -/
inductive Class where
  | e | s | a | m
  deriving DecidableEq, Repr

/-- The delivery class of each code of R368; codes that are not raised are given A. -/
def Cause.cls (c : Cause) : Class :=
  if c ∈ [0x10, 0x12, 0x13, 0x14, 0x17, 0x56, 0x61, 0x73, 0x74, 0x77, 0x78, 0x79, 0x80, 0x86] then .e
  else if c ∈ [0x0B, 0x0C, 0x30, 0x31] then .s
  else if c ∈ [0x03, 0x0D, 0x25, 0x34, 0xA0, 0xA1, 0xA2, 0xA5, 0xA6, 0xB0, 0xB3, 0xB4, 0xB5] then .m
  else .a

/-- A scale source of the `fmt` form (R78, R79). -/
inductive ScaleSrc where
  | none | inline | split
  deriving DecidableEq, Repr

/-- The code of a scale source (R78). -/
def ScaleSrc.code : ScaleSrc → Nat
  | .none => 0 | .inline => 1 | .split => 2

/-- The scale source of a code; 3 is reserved (R78). -/
def ScaleSrc.of : Nat → Option ScaleSrc
  | 0 => some .none | 1 => some .inline | 2 => some .split | _ => Option.none

/-- The values a `fmt` form may carry (R79): blk4 needs a scale source, and a scale source needs blk4, or e4m3 or e5m2 as
the destination. -/
def fmtLegal (src dst : Ty) (sc : ScaleSrc) : Bool :=
  if src = .blk4 ∨ dst = .blk4 then sc != .none
  else if sc = .none then true
  else dst = .e4m3 ∨ dst = .e5m2

/-- Why the root of trust, the link or the memory refuses or marks something: the arrays of R396. -/
inductive Arr where
  | lm | hbm | tc | tlb | icache | port | tsesram | link
  deriving DecidableEq, Repr

/-- The TDISP states of R377. -/
inductive Tdi where
  | unlocked | locked | run | error
  deriving DecidableEq, Repr

/-- The registers that a host, the operator or the host's driver writes and for which no event of the table has its own
name (REGISTER_WRITE; R229, R374, R376, R395). -/
inductive HReg where
  /-- HQBASE of queue n (R229) -/
  | hqBase (n : Fin 16)
  /-- HQPIA of queue n (R229) -/
  | hqPia (n : Fin 16)
  /-- PTROOT (R374) -/
  | ptroot
  /-- PFQBASE (R376) -/
  | pfqBase
  /-- PFQCI (R376) -/
  | pfqCi
  /-- offset o of the launch mailbox page other than 0x38 (R37) -/
  | mailbox (o : Fin 7)
  /-- FWCTL.LEN (R395) -/
  | fwLen
  /-- INJADDR (R395) -/
  | injAddr
  /-- MBEVTAIL of a die (R354) -/
  | mbEvTail (die : Fin 8)
  /-- any offset whose words are read-only or that the page does not define (R8, R370) -/
  | readOnly
  deriving DecidableEq, Repr

/-- The payload of VENDOR_DEFINED (R378): a TDISP request or an IDE_KM request. -/
inductive Vendor where
  | tdispLock
  | tdispStart
  | tdispStop
  | ideKey (stream : Nat)
  /-- the TDI report and the TDI's state (R377, R378), and the lifetime counters (R398) -/
  | tdispReport
  | tdispState
  | counters
  deriving DecidableEq, Repr

/-- What an image is (R395): root-of-trust firmware, the Haruesol management image, or the Haruesol service image. -/
inductive ImageKind where
  | rot
  | mgmt
  | service
  deriving DecidableEq, Repr
/-- The bytes of an image with what the root of trust finds in it (R394, R395). -/
structure Image where
  version : BitVec 32
  secVersion : Nat
  signed : Bool
  kind : ImageKind
  deriving DecidableEq, Repr

/-- An exact value (R71, R101): a NaN, signalling or not, of a NaN block or not; an infinity; or a finite value num / den of
a sign, where a zero keeps its sign. -/
inductive Ext where
  | nan (sig blk : Bool)
  | inf (neg : Bool)
  | fin (neg : Bool) (num den : Nat)
  deriving DecidableEq, Repr

/-- The exceptions that an operation records (R107), and whether a NaN block fed it (R98). -/
structure Flags where
  nv : Bool := false
  dz : Bool := false
  of : Bool := false
  uf : Bool := false
  nx : Bool := false
  blk : Bool := false
  deriving DecidableEq, Repr

end Sys2Proof
end

