-- ==== Sys2Proof/Machine/Num.lean ====
section
/-! DEFINITION. Numbers (R90 to R113): exact values, reading and rounding every format, the modifier's pipeline (R71), blk4
(R96 to R99), the draw of stochastic rounding (R103). Exact arithmetic is on naturals, so the kernel can run it. -/
namespace Sys2Proof.Machine

/-- Both sets of exceptions. -/
def orFlags (a b : Flags) : Flags :=
  ⟨a.nv || b.nv, a.dz || b.dz, a.of || b.of, a.uf || b.uf, a.nx || b.nx, a.blk || b.blk⟩

/-- The exact zero. -/
def extZero : Ext := .fin false 0 1
/-- An integer as an exact value. -/
def extInt (i : Int) : Ext := .fin (decide (i < 0)) i.natAbs 1
/-- A quotient of integers, d positive. -/
def extRat (n : Int) (d : Nat) : Ext := .fin (decide (n < 0)) n.natAbs d

/-- Negation; a zero changes sign (R71). -/
def negExt : Ext → Ext
  | .nan s b => .nan s b
  | .inf n => .inf !n
  | .fin n p q => .fin (!n) p q
/-- Magnitude. -/
def absExt : Ext → Ext
  | .nan s b => .nan s b
  | .inf _ => .inf false
  | .fin _ p q => .fin false p q
/-- Is a NaN. -/
def isNan : Ext → Bool
  | .nan _ _ => true
  | _ => false
/-- Is a signalling NaN. -/
def isSig : Ext → Bool
  | .nan s _ => s
  | _ => false
/-- Comes from a NaN block (R98). -/
def isBlk : Ext → Bool
  | .nan _ b => b
  | _ => false
/-- Is a NaN or an infinity. -/
def notFinite : Ext → Bool
  | .fin _ _ _ => false
  | _ => true

/-- Multiplies by 2^k (R71). -/
def scaleExt (k : Int) : Ext → Ext
  | .fin n p q => if k ≥ 0 then .fin n (p * 2 ^ k.toNat) q else .fin n p (q * 2 ^ (-k).toNat)
  | x => x

/-- The signed numerator. -/
def sgn (n : Bool) (p : Nat) : Int := if n then -(p : Int) else p

/-- Strict order of values other than NaN; -0 is less than +0 (R104, R152). -/
def ltExt (a b : Ext) : Bool :=
  match a, b with
  | .inf n, .inf m => n && !m
  | .inf n, _ => n
  | _, .inf m => !m
  | .fin n p q, .fin m r s =>
    if p = 0 ∧ r = 0 then n && !m else decide (sgn n p * s < sgn m r * q)
  | _, _ => false
/-- Equality of values other than NaN; -0 equals +0. -/
def eqExt (a b : Ext) : Bool :=
  match a, b with
  | .inf n, .inf m => n == m
  | .fin n p q, .fin m r s => decide (sgn n p * s = sgn m r * q)
  | _, _ => false

/-- What a NaN operand gives: the flags of signalling ones and of NaN blocks (R98, R107). -/
def nanFlags (xs : List Ext) : Flags := { nv := xs.any fun x => isSig x || isBlk x, blk := xs.any isBlk }
/-- The quiet NaN of an operation. -/
def qnan : Ext := .nan false false

/-- Addition; the sign of an exact zero sum of unlike operands is + but under RDN (IEEE 754, log 12). -/
def addExt (rm : RMode) (a b : Ext) : Ext × Flags :=
  let f := nanFlags [a, b]
  match a, b with
  | .nan _ _, _ => (qnan, f)
  | _, .nan _ _ => (qnan, f)
  | .inf n, .inf m => if n = m then (.inf n, f) else (qnan, { f with nv := true })
  | .inf n, _ => (.inf n, f)
  | _, .inf m => (.inf m, f)
  | .fin n p q, .fin m r s =>
    let v := sgn n p * s + sgn m r * q
    if v = 0 then (.fin (if n = m ∧ p = 0 ∧ r = 0 then n else rm = .rdn) 0 1, f)
    else (.fin (decide (v < 0)) v.natAbs (q * s), f)

/-- Multiplication. -/
def mulExt (a b : Ext) : Ext × Flags :=
  let f := nanFlags [a, b]
  match a, b with
  | .nan _ _, _ => (qnan, f)
  | _, .nan _ _ => (qnan, f)
  | .inf n, .inf m => (.inf (n != m), f)
  | .inf n, .fin m r _ => if r = 0 then (qnan, { f with nv := true }) else (.inf (n != m), f)
  | .fin n p _, .inf m => if p = 0 then (qnan, { f with nv := true }) else (.inf (n != m), f)
  | .fin n p q, .fin m r s => (.fin (n != m) (p * r) (q * s), f)

/-- Fused multiply and add: an invalid product counts though the addend is a NaN (R107). -/
def fmaExt (rm : RMode) (a b c : Ext) : Ext × Flags :=
  let (p, fp) := mulExt a b
  let (r, fr) := addExt rm p c
  (r, orFlags fp fr)

/-- Division (R107). -/
def divExt (a b : Ext) : Ext × Flags :=
  let f := nanFlags [a, b]
  match a, b with
  | .nan _ _, _ => (qnan, f)
  | _, .nan _ _ => (qnan, f)
  | .inf _, .inf _ => (qnan, { f with nv := true })
  | .inf n, .fin m _ _ => (.inf (n != m), f)
  | .fin n _ _, .inf m => (.fin (n != m) 0 1, f)
  | .fin n p q, .fin m r s =>
    if r = 0 then (if p = 0 then (qnan, { f with nv := true }) else (.inf (n != m), { f with dz := true }))
    else (.fin (n != m) (p * s) (q * r), f)

/-- The integer square root, bit by bit from bit b. -/
def isqrtAux (n : Nat) : Nat → Nat → Nat
  | 0, r => r
  | b + 1, r => if (r + 2 ^ b) * (r + 2 ^ b) ≤ n then isqrtAux n b (r + 2 ^ b) else isqrtAux n b r

/-- A value that rounds as the square root of p / q does in every format: the root to at least 75 bits, and half a unit of its
last place more when it is not exact. -/
def sqrtVal (p q : Nat) : Ext :=
  let k := 76 + (Nat.log2 q + 2 - min (Nat.log2 q + 2) (Nat.log2 p)) / 2
  let n := p * 4 ^ k / q
  let r := isqrtAux n (Nat.log2 n / 2 + 1) 0
  if r * r * q = p * 4 ^ k then .fin false r (2 ^ k) else .fin false (2 * r + 1) (2 ^ (k + 1))

/-- Square root (R107). -/
def sqrtExt (a : Ext) : Ext × Flags :=
  let f := nanFlags [a]
  match a with
  | .nan _ _ => (qnan, f)
  | .inf n => if n then (qnan, { f with nv := true }) else (a, f)
  | .fin n p q => if p = 0 then (a, f) else if n then (qnan, { f with nv := true }) else (sqrtVal p q, f)

/-- Reciprocal square root (R107). -/
def rsqExt (a : Ext) : Ext × Flags :=
  let f := nanFlags [a]
  match a with
  | .nan _ _ => (qnan, f)
  | .inf n => if n then (qnan, { f with nv := true }) else (extZero, f)
  | .fin n p q =>
    if p = 0 then (.inf n, { f with dz := true }) else if n then (qnan, { f with nv := true }) else (sqrtVal q p, f)

/-- Minimum of IEEE 754 (R104). -/
def minExt (a b : Ext) : Ext × Flags :=
  if isNan a || isNan b then (qnan, nanFlags [a, b]) else (if ltExt b a then b else a, {})
/-- Maximum of IEEE 754 (R104). -/
def maxExt (a b : Ext) : Ext × Flags :=
  if isNan a || isNan b then (qnan, nanFlags [a, b]) else (if ltExt a b then b else a, {})

/-! Formats. -/

/-- Fraction bits and exponent bias of a floating format (R91, R93). -/
def fracBias : Ty → Nat × Nat
  | .f64 => (52, 1023) | .f32 => (23, 127) | .f16 => (10, 15) | .bf16 => (7, 127)
  | .e4m3 => (3, 7) | .e5m2 => (2, 15) | .e3m2 => (2, 3) | .e2m3 => (3, 1)
  | _ => (0, 0)
/-- The code of the largest finite value (R91, R93). -/
def maxCode : Ty → Nat
  | .f64 => 0x7FEFFFFFFFFFFFFF | .f32 => 0x7F7FFFFF | .f16 => 0x7BFF | .bf16 => 0x7F7F
  | .e4m3 => 0x7E | .e5m2 => 0x7B | .e3m2 => 0x1F | .e2m3 => 0x1F
  | _ => 0
/-- The format has infinities (R92, R94). -/
def hasInf : Ty → Bool
  | .f64 => true | .f32 => true | .f16 => true | .bf16 => true | .e5m2 => true
  | _ => false
/-- The canonical NaN, for a format that has one (R91, R94). -/
def nanCode : Ty → Option Nat
  | .f64 => some 0x7FF8000000000000 | .f32 => some 0x7FC00000 | .f16 => some 0x7E00 | .bf16 => some 0x7FC0
  | .e4m3 => some 0x7F | .e5m2 => some 0x7E
  | _ => none
/-- A floating format, small ones included. -/
def isFp : Ty → Bool
  | .f64 => true | .f32 => true | .f16 => true | .bf16 => true
  | .e4m3 => true | .e5m2 => true | .e3m2 => true | .e2m3 => true
  | _ => false

/-- The smallest value of an integer type (R95). -/
def intMin (t : Ty) : Int := if t.isSigned then -(2 ^ (t.width - 1) : Nat) else 0
/-- The largest value of an integer type (R95). -/
def intMax (t : Ty) : Int := if t.isSigned then (2 ^ (t.width - 1) : Nat) - 1 else (2 ^ t.width : Nat) - 1
/-- The value of an integer pattern (R95). -/
def intVal (t : Ty) (n : Nat) : Int :=
  let x := n % 2 ^ t.width
  if t.isSigned && x ≥ 2 ^ (t.width - 1) then (x : Int) - (2 ^ t.width : Nat) else x
/-- The pattern of an integer, wrapped (R95). -/
def intCode (t : Ty) (i : Int) : Nat := (i % (2 ^ t.width : Nat)).toNat

/-- The magnitude that a code without its sign has: m 2^e as a quotient. -/
def fpMag (t : Ty) (c : Nat) : Nat × Nat :=
  let (fb, bias) := fracBias t
  let e := c / 2 ^ fb
  let m := if e = 0 then c % 2 ^ fb else 2 ^ fb + c % 2 ^ fb
  let ee := (if e = 0 then 1 else e)
  if ee ≥ bias + fb then (m * 2 ^ (ee - bias - fb), 1) else (m, 2 ^ (bias + fb - ee))

/-- The exact value of a pattern (R91 to R95). -/
def readTy (t : Ty) (n : Nat) : Ext :=
  if t.isInt then extInt (intVal t n)
  else
    let x := n % 2 ^ t.width
    let neg := x ≥ 2 ^ (t.width - 1)
    let c := x % 2 ^ (t.width - 1)
    if c > maxCode t then
      (if hasInf t && c = maxCode t + 1 then .inf neg
       else .nan (decide (t.isFloat ∧ c % 2 ^ (fracBias t).1 < 2 ^ ((fracBias t).1 - 1))) false)
    else
      let (m, d) := fpMag t c
      .fin neg m d

/-- Rounds the magnitude p / q, not negative, to a natural: whether it was inexact comes with it (R101, R102). -/
def roundNat (rm : RMode) (neg : Bool) (draw p q : Nat) : Nat × Bool :=
  let lo := p / q
  let r := p % q
  if r = 0 then (lo, false)
  else
    let up := match rm with
      | .rne => decide (2 * r > q) || (decide (2 * r = q) && lo % 2 == 1)
      | .rtz => false
      | .rup => !neg
      | .rdn => neg
      | .sr => decide (r * 2 ^ 16 + draw * q ≥ q * 2 ^ 16)
    (if up then lo + 1 else lo, true)

/-- The floor of the base-2 logarithm of p / q. -/
def floorLog (p q : Nat) : Int :=
  let e : Int := (Nat.log2 p : Int) - Nat.log2 q
  let ge : Bool := if e ≥ 0 then decide (p ≥ q * 2 ^ e.toNat) else decide (p * 2 ^ (-e).toNat ≥ q)
  if ge then e else e - 1

/-- The rounded code of p / q as if the exponent had no upper bound, and whether it is inexact (R101). -/
def roundMag (t : Ty) (rm : RMode) (neg : Bool) (draw p q : Nat) : Nat × Bool :=
  if p = 0 then (0, false)
  else
    let (fb, bias) := fracBias t
    let emin : Int := 1 - (bias : Int)
    let e := max (floorLog p q) emin
    let k : Int := e - fb
    let (m, ix) := if k ≥ 0 then roundNat rm neg draw p (q * 2 ^ k.toNat) else roundNat rm neg draw (p * 2 ^ (-k).toNat) q
    ((e - emin).toNat * 2 ^ fb + m, ix)

/-- A code with its sign. -/
def signed (t : Ty) (neg : Bool) (c : Nat) : Nat := if neg then 2 ^ (t.width - 1) + c else c

/-- Rounding to a floating format with R105's overflow and special values. -/
def roundFp (t : Ty) (rm : RMode) (sat : Bool) (draw : Nat) (x : Ext) : Nat × Flags :=
  match x with
  | .nan s b =>
    match nanCode t with
    | some c => (c, { nv := s || b, blk := b })
    | none => (0, { nv := true, blk := b })
  | .inf n =>
    if sat then (signed t n (maxCode t), { of := true, nx := true })
    else if hasInf t then (signed t n (maxCode t + 1), {})
    else match nanCode t with
      | some c => (c, { nv := true })
      | none => (signed t n (maxCode t), { of := true, nx := true })
  | .fin n p q =>
    let (c, ix) := roundMag t rm n draw p q
    if c > maxCode t then
      let toMax := match rm with
        | .rtz => true
        | .rup => n
        | .rdn => !n
        | _ => false
      if sat then (signed t n (maxCode t), { of := true, nx := true })
      else if hasInf t then (signed t n (if toMax then maxCode t else maxCode t + 1), { of := true, nx := true })
      else match nanCode t with
        | some c => (c, { of := true, nx := true })
        | none => (signed t n (maxCode t), { of := true, nx := true })
    else (signed t n c, { uf := ix && decide (c < 2 ^ (fracBias t).1), nx := ix })

/-- Conversion of a floating value to an integer type or raw i4 (R105, R106). -/
def roundToInt (t : Ty) (rm : RMode) (draw : Nat) (x : Ext) : Nat × Flags :=
  match x with
  | .nan _ b => (0, { nv := true, blk := b })
  | .inf n => (intCode t (if n then intMin t else intMax t), { nv := true })
  | .fin n p q =>
    let (m, ix) := roundNat rm n draw p q
    let y := sgn n m
    if y > intMax t then (intCode t (intMax t), { nv := true })
    else if y < intMin t then (intCode t (intMin t), { nv := true })
    else (intCode t y, { nx := ix })

/-- An integer result under R71: round, then SAT or wrap. A wrapped result differs from the exact one, and so records NX (R107, log 13). -/
def roundInt (t : Ty) (rm : RMode) (sat : Bool) (draw : Nat) (x : Ext) : Nat × Flags :=
  match x with
  | .nan _ b => (0, { nv := true, blk := b })
  | .inf n => (intCode t (if n then intMin t else intMax t), { nv := true })
  | .fin n p q =>
    let (m, ix) := roundNat rm n draw p q
    let y := sgn n m
    if sat && (y > intMax t || y < intMin t) then
      (intCode t (if n then intMin t else intMax t), { of := true, nx := true })
    else (intCode t y, { nx := ix || decide (y > intMax t ∨ y < intMin t) })

/-- CLAMP (R71): a NaN passes unchanged. -/
def clampCode (t : Ty) (cl : Nat) (c : Nat) : Nat :=
  if cl = 0 then c
  else
    let y := readTy t c
    if isNan y then c
    else
      let one : Nat := if t.isInt then 1 else (roundFp t .rne false 0 (extInt 1)).1
      let lo : Ext := if cl = 1 then extZero else extInt (-1)
      let loC : Nat := if cl = 1 then 0 else if t.isInt then intCode t (-1) else signed t true one
      if ltExt y lo then loC else if ltExt (extInt 1) y then one else c

/-- The mode that a modifier and ST.RM give for a destination (R71, R72). -/
def modeFor (m : Modifier) (strm : Nat) (dst : Ty) : RMode :=
  if m.rmo.val = 0 then (match RMode.of strm with
    | .sr => if dst.srLegal then .sr else .rne
    | r => r)
  else RMode.of m.rmo.val

/-- R71 for one element other than blk4: `conv` when a floating value goes to an integer (R106). -/
def deliver (m : Modifier) (rm : RMode) (dst : Ty) (conv : Bool) (draw : Nat) (x : Ext) : Nat × Flags :=
  let x := scaleExt m.scale.toInt x
  let x := if m.negr then negExt x else x
  let (c, f) := if dst.isInt then (if conv then roundToInt dst rm draw x else roundInt dst rm m.sat draw x)
    else roundFp dst rm m.sat draw x
  (clampCode dst m.clamp.val c, f)

/-- Source a under ABSA and NEGA. -/
def srcA (m : Modifier) (x : Ext) : Ext :=
  let x := if m.absa then absExt x else x
  if m.nega then negExt x else x
/-- Source b under ABSB and NEGB. -/
def srcB (m : Modifier) (x : Ext) : Ext :=
  let x := if m.absb then absExt x else x
  if m.negb then negExt x else x

/-! blk4 (R96 to R99). -/

/-- Eight times the magnitude of a magnitude index of types 1 to 3 (R97). -/
def blkMag (t i : Nat) : Nat :=
  match t with
  | 1 => [0, 4, 8, 12, 16, 24, 32, 48].getD i 0
  | 2 => [0, 1, 2, 4, 8, 16, 32, 64].getD i 0
  | _ => [0, 8, 16, 24, 32, 48, 64, 96].getD i 0
/-- The value q(c, T) 2^(E - 31) of a code under a scale byte (R97, R98). -/
def readBlk (scale code : Nat) : Ext :=
  let e := scale % 64
  let t := scale / 64
  if e = 63 then .nan false true
  else
    let q : Ext := if t = 0 then extInt ((code : Int) - 8) else .fin (decide (code ≥ 8)) (blkMag t (code % 8)) 8
    scaleExt ((e : Int) - 31) q

/-- The largest magnitude M of a type (R99). -/
def blkMax (t : Nat) : Nat := [7, 6, 8, 12].getD t 7
/-- A finite magnitude is at most m 2^(e - 31). -/
def fitsScale (p q m e : Nat) : Bool := decide (p * 2 ^ 31 ≤ m * 2 ^ e * q)
/-- The smallest E with A at most M 2^(E - 31), from e on, with fuel (R99). -/
def pickScale (p q m : Nat) : Nat → Nat → Nat
  | 0, e => e
  | fuel + 1, e => if fitsScale p q m e then e else pickScale p q m fuel (e + 1)
/-- The scale exponent of a block (R99). -/
def blkScale (m : Nat) (xs : List Ext) : Nat :=
  let big := xs.foldl (fun a x => if notFinite x then a else if ltExt a (absExt x) then absExt x else a) extZero
  match big with
  | .fin _ p q => if p = 0 then 0 else pickScale p q m 62 0
  | _ => 0

/-- The first index j with x below value j + 1, among the magnitudes of a type extended by M+ (R99). -/
def blkLo (t p q : Nat) : Nat → Nat → Nat
  | 0, j => j
  | fuel + 1, j =>
    let nxt := if j = 7 then [0, 64, 128, 128].getD t 0 else blkMag t (j + 1)
    if p * 8 < nxt * q then j else blkLo t p q fuel (j + 1)

/-- The code of a finite element under a scale exponent, with its flags (R99, R101, R102). -/
def blkCode (t e : Nat) (rm : RMode) (draw : Nat) (x : Ext) : Nat × Flags :=
  match scaleExt (31 - (e : Int)) x with
  | .fin n p q =>
    if t = 0 then
      let (m, ix) := roundNat rm n draw p q
      let y := sgn n m
      if y > 7 then (15, { of := true, nx := true })
      else if y < -8 then (0, { of := true, nx := true })
      else ((y + 8).toNat, { nx := ix })
    else
      let top := [0, 64, 128, 128].getD t 0
      let j := blkLo t p q 8 0
      if j ≥ 8 then ((if n then 15 else 7), { of := true, nx := true })
      else
        let lo := blkMag t j
        let hi := if j = 7 then top else blkMag t (j + 1)
        let (up, ix) :=
          if p * 8 = lo * q then (false, false)
          else
            let r := p * 8 - lo * q
            let w := (hi - lo) * q
            (match rm with
             | .rne => decide (2 * r > w) || (decide (2 * r = w) && j % 2 == 1)
             | .rtz => false
             | .rup => !n
             | .rdn => n
             | .sr => decide (r * 2 ^ 16 + draw * w ≥ w * 2 ^ 16), true)
        let k := if up then j + 1 else j
        if k = 8 then ((if n then 15 else 7), { of := true, nx := true })
        else if k = 0 then (0, { nx := ix })
        else (k + (if n then 8 else 0), { nx := ix })
  | _ => (0, { nv := true })

/-- A block written by R99: the scale byte, and the code and flags of each computed element (absent ones are none). -/
def writeBlk (t : Nat) (m : Modifier) (rm : RMode) (draw : Nat → Nat) (xs : List (Option Ext)) :
    Nat × List (Option (Nat × Flags)) :=
  let form (x : Ext) : Ext :=
    let x := scaleExt m.scale.toInt x
    let x := if m.negr then negExt x else x
    if m.clamp.val = 0 then x
    else if isNan x then x
    else
      let lo : Ext := if m.clamp.val = 1 then extZero else extInt (-1)
      if ltExt x lo then lo else if ltExt (extInt 1) x then extInt 1 else x
  let ys := xs.map (·.map form)
  let present := ys.filterMap id
  if (xs.filterMap id).any notFinite then
    (64 * t + 63, xs.map (·.map fun y => (0, ({ nv := notFinite y, blk := isBlk y } : Flags))))
  else
    let e := blkScale (blkMax t) present
    (64 * t + e, (ys.zip (List.range ys.length)).map fun (y, i) => y.map fun v => blkCode t e rm (draw i) v)

/-! The draw of R103. -/

/-- One round of the generator. -/
def mixDraw (x w : Word) : Word :=
  let x := (x ^^^ w) * 0x9E3779B97F4A7C15
  let x := x ^^^ (x >>> 29)
  let x := x * 0xBF58476D1CE4E5B9
  x ^^^ (x >>> 32)
/-- The 16-bit draw of element e (R103). -/
def drawOf (s w m i e : Word) : Nat := (([w, m, i, e].foldl mixDraw s) >>> 48).toNat
/-- The launch seed from the four words of ARGS (R103). -/
def seedOf (a : List Word) : Word :=
  a.getD 0 0 ^^^ (a.getD 1 0).rotateLeft 16 ^^^ (a.getD 2 0).rotateLeft 32 ^^^ (a.getD 3 0).rotateLeft 48

/-- The pairwise tree of R110 over lanes that may be absent, with fuel for the levels. -/
def pairUp (f : Nat → Nat → Nat × Flags) : List (Option Nat) → List (Option Nat) × Flags
  | a :: b :: rest =>
    let (r, fr) := pairUp f rest
    match a, b with
    | some x, some y => let (z, fz) := f x y; (some z :: r, orFlags fz fr)
    | some x, none => (some x :: r, fr)
    | none, y => (y :: r, fr)
  | [a] => ([a], {})
  | [] => ([], {})
/-- The tree of R110. -/
def tree (f : Nat → Nat → Nat × Flags) : Nat → List (Option Nat) → Option Nat × Flags
  | 0, xs => (xs.headD none, {})
  | n + 1, xs =>
    match xs with
    | [] => (none, {})
    | [a] => (a, {})
    | _ => let (ys, g) := pairUp f xs; let (r, h) := tree f n ys; (r, orFlags g h)

end Sys2Proof.Machine
end

