-- ==== Sys2Proof/Config.lean ====
section
/-! DEFINITION. What the manual leaves open: free values, each an opaque constant that no proof can look into (log 2), and the
constants that the part fixes. -/
namespace Sys2Proof.Config

/-- An undefined word (R7): the accumulators of R236 and R238, digests and answers of the root of trust (R378). -/
opaque freeWord : Nat → Nat → Word
/-- An undefined vector register at a stint start (R22). -/
opaque freeVec : Nat → Nat → BitVec 512
/-- An undefined byte: a copy's destination byte that is also a source byte of the same copy (R218). -/
opaque freeByte : Nat → Nat → Byte
/-- The tree of additions that an allocation fixes for a slot's sums (R226): which contributor's partial sum takes in which. -/
opaque freeTree : Nat → List (Nat × Nat)
/-- How often 64 bytes of a launch have passed a tile router since the last sweep (R47). -/
opaque freeRouted : Nat → Nat
/-- How many flits of a launch have been sent on fabric ports since the last sweep (R47). -/
opaque freeFlits : Nat → Nat

/-- Where the instruction bytes at a physical address belong: the code object, and the offset in it (R397; the manual does not place code). -/
opaque codeAt : Nat → Nat × Nat

/-- How many commands the FIFO of a CPY holds beyond the one at its head (R221 gives no depth). -/
opaque cpyDepth : Nat

/-- The default objection window (R320). -/
def defaultWindow (d s : Nat) : Nat := (2 * d + 2 * s + 999) / 1000 * 1000

end Sys2Proof.Config
end

