-- ==== Sys2Proof/Syntax.lean ====
section
/-! DEFINITION. The instructions and events of the Vegus 7400, one constructor for each row of the opcode table (R87, R68,
and the events of the chapters). Register fields carry the letters of the table: d, a, b and so on. An event has no encoding
and no operand of its own: the agenda runs it, and its operands stand in State.ev. The events follow the instructions. -/
namespace Sys2Proof

inductive Instr where
  /-- gd := ga + gb. (R119) -/
  | add (d a b : Reg)
  /-- gd := ga - gb. (R119) -/
  | sub (d a b : Reg)
  /-- gd := ga AND gb. (R119) -/
  | and (d a b : Reg)
  /-- gd := ga OR gb. (R119) -/
  | or (d a b : Reg)
  /-- gd := ga XOR gb. (R119) -/
  | xor (d a b : Reg)
  /-- gd := ga AND NOT gb. (R119) -/
  | andn (d a b : Reg)
  /-- Shift left by gb[5:0]. (R119) -/
  | shl (d a b : Reg)
  /-- Logical shift right by gb[5:0]. (R119) -/
  | shr (d a b : Reg)
  /-- Arithmetic shift right by gb[5:0]. (R119) -/
  | sra (d a b : Reg)
  /-- Rotate left by gb[5:0]. (R119) -/
  | rotl (d a b : Reg)
  /-- Signed minimum. (R119) -/
  | minI64 (d a b : Reg)
  /-- Signed maximum. (R119) -/
  | maxI64 (d a b : Reg)
  /-- Unsigned minimum. (R119) -/
  | minN64 (d a b : Reg)
  /-- Unsigned maximum. (R119) -/
  | maxN64 (d a b : Reg)
  /-- gd := ga. (R119) -/
  | mov (d a : Reg)
  /-- Sets the flags from ga - gb. (R120) -/
  | cmp (a b : Reg)
  /-- Sets the flags from ga AND gb. (R120) -/
  | tst (a b : Reg)
  /-- Low 64 bits of the product. (R121) -/
  | mul (d a b : Reg)
  /-- High 64 bits of the signed product. (R121) -/
  | mulhI64 (d a b : Reg)
  /-- High 64 bits of the unsigned product. (R121) -/
  | mulhN64 (d a b : Reg)
  /-- Signed quotient toward zero; zero divisor raises INT_DIVZERO. (R121) -/
  | divI64 (d a b : Reg)
  /-- Unsigned quotient. (R121) -/
  | divN64 (d a b : Reg)
  /-- Signed remainder. (R121) -/
  | remI64 (d a b : Reg)
  /-- Unsigned remainder. (R121) -/
  | remN64 (d a b : Reg)
  /-- Counts leading zeros. (R122) -/
  | clz (d a : Reg)
  /-- Counts trailing zeros. (R122) -/
  | ctz (d a : Reg)
  /-- Counts one bits. (R122) -/
  | pop (d a : Reg)
  /-- Extracts a zero-extended bit field. (R122) -/
  | bext (d a b : Reg)
  /-- Extracts a sign-extended bit field. (R122) -/
  | bexts (d a b : Reg)
  /-- Inserts a bit field into gd. (R122) -/
  | bins (d a b : Reg)
  /-- gd := ga if the condition holds, else gb. (R122) -/
  | sel (c : Cond) (d a b : Reg)
  /-- gd := ga + signed 17-bit immediate. (R123) -/
  | addi (d a : Reg) (i : BitVec 17)
  /-- gd := signed 17-bit immediate. (R123) -/
  | li (d : Reg) (i : BitVec 17)
  /-- Writes a 16-bit immediate into halfword h of gd. (R123) -/
  | lhi (d : Reg) (i : BitVec 16) (h : Fin 4)
  /-- Sets the flags from gd - immediate. (R120) -/
  | cmpi (d : Reg) (i : BitVec 17)
  /-- Shift left by an immediate. (R123) -/
  | shli (d a : Reg) (n : Fin 64)
  /-- Logical shift right by an immediate. (R123) -/
  | shri (d a : Reg) (n : Fin 64)
  /-- Arithmetic shift right by an immediate. (R123) -/
  | srai (d a : Reg) (n : Fin 64)
  /-- Rotate left by an immediate. (R123) -/
  | rotli (d a : Reg) (n : Fin 64)
  /-- Branches when the condition holds. (R124) -/
  | bc (c : Cond) (o : BitVec 21)
  /-- Sets g14 to the return address and jumps. (R125) -/
  | call (o : BitVec 25)
  /-- Branches when gd is zero. (R127) -/
  | cbz (d : Reg) (o : BitVec 17)
  /-- Branches when gd is nonzero. (R127) -/
  | cbnz (d : Reg) (o : BitVec 17)
  /-- Jumps to gd; ret is jr g14. (R127) -/
  | jr (d : Reg)
  /-- No effect. (R127) -/
  | nop
  /-- Ends the stint, commits the outbound buffer and lets the core select its next message. (R128) -/
  | halt
  /-- Ends the stint and records a retain hand-off to a successor. (R129) -/
  | haltR (d : Reg)
  /-- Migrates the runner to another plot core. (R131) -/
  | go (d : Reg)
  /-- Parks the runner in a slab slot and enqueues its resume message. (R132) -/
  | yield
  /-- Sleeps until a ring holds n filled slots. (R134) -/
  | sleepQ (q : QReg) (n : BitVec 13)
  /-- Sleeps until a copy or MXE job has completed. (R135) -/
  | sleepJob (d : Reg)
  /-- Sleeps until an own-LM word reaches a target. (R136) -/
  | sleepGe (d t : Reg)
  /-- Sleeps until a global word reaches a target. (R136) -/
  | sleepGeG (d t : Reg)
  /-- Reads a special register. (R138) -/
  | rsr (d : Reg) (n : BitVec 12)
  /-- Writes a special register under its own rules. (R138) -/
  | wsr (n : BitVec 12) (a : Reg)
  /-- Reading CPGO checks and launches a copy and returns its transfer id. (R216) -/
  | cpgo (d : Reg)
  /-- Loads 1 to 8 bytes from local or remote LM. (R142) -/
  | ld (k : LdKind) (p : Bool) (o : BitVec 13) (a d : Reg)
  /-- Stores 1 to 8 bytes to local or remote LM. (R142) -/
  | st (k : LdKind) (p : Bool) (o : BitVec 13) (a d : Reg)
  /-- Loads a bit field from the LM bit stream at BAx. (R145) -/
  | lbit (x p sg : Bool) (w : Fin 64) (d : Reg)
  /-- Stores a bit field into the LM bit stream at BAx. (R145) -/
  | sbit (x p : Bool) (w : Fin 64) (d : Reg)
  /-- Sets BAx to 8*ga + gb. (R145) -/
  | baSet (x : Bool) (a b : Reg)
  /-- Sets or unsets a ring descriptor from an LM image. (R148) -/
  | qSet (q : QReg) (a : Reg)
  /-- Advances a ring's tail by a count. (R148) -/
  | qAdvP (q : QReg) (a : Reg)
  /-- Advances a ring's head by a count. (R148) -/
  | qAdvC (q : QReg) (a : Reg)
  /-- Waits for n filled slots and reads 8 bytes from the head slot. (R148) -/
  | qLd (d : Reg) (q : QReg) (n : Fin 4)
  /-- Writes a general register into the tail slot. (R148) -/
  | qSt (q : QReg) (a : Reg)
  /-- Writes a vector register into the tail slot. (R148) -/
  | qStV (q : QReg) (v : VReg)
  /-- Reads a ring's tail and head. (R148) -/
  | qGet (d : Reg) (q : QReg)
  /-- Lane-wise addition. (R152) -/
  | vadd (t : Ty) (k : KReg) (b : VSrc) (a d : VReg) (m : Option Modifier)
  /-- Lane-wise subtraction. (R152) -/
  | vsub (t : Ty) (k : KReg) (b : VSrc) (a d : VReg) (m : Option Modifier)
  /-- Lane-wise multiplication. (R152) -/
  | vmul (t : Ty) (k : KReg) (b : VSrc) (a d : VReg) (m : Option Modifier)
  /-- Lane-wise fused multiply-add into vd. (R152) -/
  | vfma (t : Ty) (k : KReg) (b : VSrc) (a d : VReg) (m : Option Modifier)
  /-- Lane-wise division. (R152) -/
  | vdiv (t : Ty) (k : KReg) (b : VSrc) (a d : VReg) (m : Option Modifier)
  /-- Lane-wise square root. (R152) -/
  | vsqrt (t : Ty) (k : KReg) (a d : VReg) (m : Option Modifier)
  /-- Lane-wise reciprocal. (R152) -/
  | vrcp (t : Ty) (k : KReg) (a d : VReg) (m : Option Modifier)
  /-- Lane-wise reciprocal square root. (R152) -/
  | vrsq (t : Ty) (k : KReg) (a d : VReg) (m : Option Modifier)
  /-- Lane-wise minimum. (R152) -/
  | vmin (t : Ty) (k : KReg) (b : VSrc) (a d : VReg) (m : Option Modifier)
  /-- Lane-wise maximum. (R152) -/
  | vmax (t : Ty) (k : KReg) (b : VSrc) (a d : VReg) (m : Option Modifier)
  /-- Compares lanes and writes a mask register. (R153) -/
  | vcmp (p : CmpPred) (t : Ty) (k : KReg) (b : VSrc) (a : VReg) (c : KReg)
  /-- Selects lanes of va or vb by a mask. (R154) -/
  | vsel (t : Ty) (k : KReg) (b : VSrc) (a d : VReg)
  /-- Lane-wise bitwise AND. (R154) -/
  | vand (t : Ty) (k : KReg) (b : VSrc) (a d : VReg)
  /-- Lane-wise bitwise OR. (R154) -/
  | vor (t : Ty) (k : KReg) (b : VSrc) (a d : VReg)
  /-- Lane-wise bitwise XOR. (R154) -/
  | vxor (t : Ty) (k : KReg) (b : VSrc) (a d : VReg)
  /-- Lane-wise shift left. (R154) -/
  | vshl (t : Ty) (k : KReg) (b : VSrc) (a d : VReg)
  /-- Lane-wise shift right. (R154) -/
  | vshr (t : Ty) (k : KReg) (b : VSrc) (a d : VReg)
  /-- Reduces va over the pairwise tree into lane 0. (R155) -/
  | vred (o : RedOp) (t : Ty) (k : KReg) (a d : VReg) (m : Option Modifier)
  /-- Permutes lanes of va by indices in vb. (R156) -/
  | vperm (t : Ty) (k : KReg) (b a d : VReg)
  /-- Broadcasts a general register to every computed lane. (R156) -/
  | vbcast (t : Ty) (k : KReg) (a : Fin 8) (d : VReg)
  /-- Converts lanes between lane types. (R157) -/
  | vcvt (src t : Ty) (k : KReg) (p : Fin 8) (a d : VReg) (m : Option Modifier)
  /-- Adds ring slots lane by lane up to a control word. (R158) -/
  | vsumQ (t : Ty) (k : KReg) (q : QReg) (d : VReg) (m : Option Modifier)
  /-- Loads a vector from own LM. (R160) -/
  | vld (t : Ty) (k : KReg) (a : Fin 8) (d : VReg) (m : Option Modifier)
  /-- Stores a vector to own LM. (R160) -/
  | vst (t : Ty) (k : KReg) (y : Fin 4) (a : Fin 8) (d : VReg) (m : Option Modifier)
  /-- Strided vector load from own LM. (R161) -/
  | vlds (t : Ty) (k : KReg) (n a : Fin 8) (d : VReg) (m : Option Modifier)
  /-- Strided vector store to own LM. (R161) -/
  | vsts (t : Ty) (k : KReg) (n a : Fin 8) (d : VReg) (m : Option Modifier)
  /-- Indexed vector gather from own LM. (R161) -/
  | vgat (t : Ty) (k : KReg) (b : VReg) (a : Fin 8) (d : VReg) (m : Option Modifier)
  /-- Indexed vector scatter to own LM. (R161) -/
  | vsct (t : Ty) (k : KReg) (b : VReg) (a : Fin 8) (d : VReg) (m : Option Modifier)
  /-- Loads L elements from the LM bit stream at BAx. (R162) -/
  | vlbit (t : Ty) (k : KReg) (x : Bool) (d : VReg) (m : Option Modifier)
  /-- Scalar global load. (R200) -/
  | gld (k : LdKind) (o : BitVec 9) (a d : Reg)
  /-- Scalar global load with acquire at a scope. (R200) -/
  | gldAcq (k : LdKind) (sc : Scope) (o : BitVec 9) (a d : Reg)
  /-- Vector global load. (R201) -/
  | gvld (t : Ty) (k : KReg) (o : BitVec 9) (a : Reg) (d : VReg)
  /-- Vector global gather. (R201) -/
  | gvgat (t : Ty) (k : KReg) (b : VReg) (a : Reg) (d : VReg)
  /-- Scalar global store into the outbound buffer. (R200) -/
  | gst (k : LdKind) (o : BitVec 9) (a d : Reg)
  /-- Scalar global store with release at a scope. (R200) -/
  | gstRel (k : LdKind) (sc : Scope) (o : BitVec 9) (a d : Reg)
  /-- Vector global store. (R201) -/
  | gvst (t : Ty) (k : KReg) (o : BitVec 9) (a : Reg) (d : VReg)
  /-- Vector global scatter. (R201) -/
  | gvsct (t : Ty) (k : KReg) (b : VReg) (a : Reg) (d : VReg)
  /-- Returning atomic read-modify-write. (R203) -/
  | atom (o : AOp) (w u l : Bool) (b a d : Reg)
  /-- Non-returning reduction. (R203) -/
  | red (o : AOp) (w u l : Bool) (b a : Reg)
  /-- Compare and swap returning the old value. (R203) -/
  | cas (w l : Bool) (b a d : Reg)
  /-- Orders accesses at a scope by kind rel, acq or full. (R179) -/
  | fence (k : FenceKind) (sc : Scope)
  /-- Orders stores across aliases at system scope and empties the view. (R183) -/
  | afence
  /-- Sends a task message to a plot core. (R208) -/
  | send (h : BitVec 10) (a d : Reg)
  /-- Delivers n words into a ring of a target core. (R209) -/
  | sendQ (q : QReg) (n : Fin 4) (a d : Reg)
  /-- Multicasts a task message to a member set. (R212) -/
  | sendMc (h : BitVec 10) (a d : Reg)
  /-- Multicasts a remote LM store to a member set. (R212) -/
  | sendMcSt (b a d : Reg)
  /-- Submits a launch record from own LM. (R213) -/
  | spawn (a : Reg)
  /-- Commits and stalls until a copy completes, returning its status. (R222) -/
  | cpwait (a d : Reg)
  /-- Sends an f32 contribution to a switch reduction slot. (R225) -/
  | collRed (b a : Reg)
  /-- Requests the result record of a reduction epoch. (R228) -/
  | collRes (h : BitVec 10) (b a d : Reg)
  /-- Sends a 64-byte entry to a host queue. (R230) -/
  | sendh (n : Fin 16) (a : Reg)
  /-- Opens a matrix job with an accumulator mask. (R242) -/
  | mxJob (m : BitVec 4)
  /-- Closes the job, gives it an id and submits it as an engine command. (R234) -/
  | mxGo (a d : Reg)
  /-- Sleeps until a matrix job completes. (R242) -/
  | mxWait (a d : Reg)
  /-- Returns the state or status of a matrix job. (R242) -/
  | mxPoll (a d : Reg)
  /-- Sets flags from a tile status word. (R242) -/
  | mxTst (b a : Reg)
  /-- Enters a command that releases owned accumulators. (R242) -/
  | mxRel (m : BitVec 4)
  /-- Appends a load of the A latch. (R244) -/
  | mxLda (x : Bool) (b a : Reg)
  /-- Appends a load of the B latch. (R244) -/
  | mxLdb (x : Bool) (b a : Reg)
  /-- Appends a load of the sparsity metadata latch. (R246) -/
  | mxLdm (b a : Reg)
  /-- Appends a clearing of an accumulator. (R248) -/
  | mxZero (c : Fin 4)
  /-- Appends one chunk of matrix multiply-accumulate. (R248) -/
  | mxMma (c : Fin 4)
  /-- Appends a sparse matrix multiply-accumulate. (R249) -/
  | mxMmas (c : Fin 4)
  /-- Appends a multiply-accumulate followed by rotation of latches on the torus. (R251) -/
  | mxMrot (c : Fin 4) (b : Reg)
  /-- Appends a store of an accumulator tile with its status word. (R253) -/
  | mxSt (c : Fin 4) (x : Bool) (b a d : Reg) (m : Option Modifier)
  /-- Appends a write of the accumulator's largest magnitude. (R256) -/
  | mxAmax (c : Fin 4) (a : Reg)
  /-- Appends a block-scaled quantized store of an accumulator. (R257) -/
  | mxQnt (c : Fin 4) (b a : Reg) (m : Option Modifier)
  /-- Performs an effect, searching the trellis. (R278) -/
  | perform (e : BitVec 12) (a d : Reg)
  /-- Performs an effect for masked vector lanes. (R278) -/
  | vperform (e : BitVec 12) (k : KReg) (d : VReg)
  /-- Pops the top handler frame. (R277) -/
  | hpop (e : BitVec 12)
  /-- Claims a continuation and sends a resume message with a value. (R279) -/
  | resume (a b : Reg)
  /-- Claims a vector continuation and sends a resume message with vector lanes. (R279) -/
  | resumev (t : Ty) (a : Reg) (b : VReg)
  /-- Performs the abort event on a continuation. (R280) -/
  | abort (a : Reg)
  /-- Queries the state of a continuation. (R281) -/
  | tokq (a d : Reg)
  /-- Pushes a handler frame of kind ONCE. (R276) -/
  | hndOnce (e : BitVec 12) (h : BitVec 8)
  /-- Pushes a handler frame of kind MANY. (R276) -/
  | hndMany (e : BitVec 12) (h : BitVec 8)
  /-- Pushes a handler frame of kind NONE. (R276) -/
  | hndNone (e : BitVec 12) (h : BitVec 8)
  /-- Stores a state for a key at an instant; a full furrow discards it. (R292) -/
  | wst (b a d : Reg)
  /-- Stores a state for a key at an instant; a full furrow makes it wait. (R292) -/
  | wstW (b a d : Reg)
  /-- Raises the floor of a reader group. (R307) -/
  | wfloor (b a : Reg)
  /-- Reads the newest and oldest instants of a furrow. (R308) -/
  | wprobe (a d : Reg)
  /-- Cancels a waiting world load. (R309) -/
  | wcancel (b a : Reg)
  /-- Registers a world-store region. (R310) -/
  | wreg (a d : Reg)
  /-- Frees a world-store region. (R311) -/
  | wregFree (a d : Reg)
  /-- Issues a world load at an instant, answered to a handler. (R296) -/
  | wld (h : BitVec 10) (b a d : Reg)
  /-- Issues a claim on a group word and returns its ticket. (R328) -/
  | clmSt (h : BitVec 10) (b a d : Reg)
  /-- Objects to a claim within its window. (R331) -/
  | clmObj (a : Reg)
  /-- Reads a claim word's replica value and version. (R336) -/
  | clmLd (a d : Reg)
  /-- Reads the outcome of a claim. (R337) -/
  | clmRes (a d : Reg)
  /-- Reads a group's membership summary. (R338) -/
  | clmGrp (a d : Reg)
  /-- Raises SVC with a service function number. (R362) -/
  | svc (n : BitVec 12)
  /-- Raises BRK with a code. (R362) -/
  | brk (n : BitVec 8)
  /-- Returns a served record to its core with RETRY, SKIP or ABORT. (R363) -/
  | sret (a h : Reg)
  /-- Reads a word of a served record. (R364) -/
  | rrec (n : BitVec 7) (h d : Reg)
  /-- Writes a word of a served record. (R364) -/
  | rrecW (n : BitVec 7) (h d : Reg)
  /-- Removes every translation of a plot from all tile routers. (R365) -/
  | tlbi (a : Reg)
  /-- Removes the translations of one address of a plot. (R365) -/
  | tlbiVa (a v : Reg)
  /-- Sends 64 bytes to the service core's mailbox slot. (R366) -/
  | mbox (a d : Reg)
  /-- Compact form of brk. (R68) -/
  | brkCompact (n : BitVec 8)
  /-- Compact form of mov. (R68) -/
  | movCompact (a d : Reg)
  /-- Compact form of add with gd = ga. (R68) -/
  | addCompact (a d : Reg)
  /-- Compact form of sub. (R68) -/
  | subCompact (a d : Reg)
  /-- Compact form of and. (R68) -/
  | andCompact (a d : Reg)
  /-- Compact form of or. (R68) -/
  | orCompact (a d : Reg)
  /-- Compact form of xor. (R68) -/
  | xorCompact (a d : Reg)
  /-- Compact form of addi with a 6-bit immediate. (R68) -/
  | addiCompact (i : BitVec 6) (d : Reg)
  /-- Compact form of li with a 6-bit immediate. (R68) -/
  | liCompact (i : BitVec 6) (d : Reg)
  /-- Compact form of shli. (R68) -/
  | shliCompact (u : Fin 64) (d : Reg)
  /-- Compact form of shri. (R68) -/
  | shriCompact (u : Fin 64) (d : Reg)
  /-- Compact form of srai. (R68) -/
  | sraiCompact (u : Fin 64) (d : Reg)
  /-- Compact form of cmp. (R68) -/
  | cmpCompact (a d : Reg)
  /-- Compact form of cmpi. (R68) -/
  | cmpiCompact (i : BitVec 6) (d : Reg)
  /-- Compact form of ld.n64, plain or post-increment. (R68) -/
  | ldN64Compact (p : Bool) (a d : Reg)
  /-- Compact form of st.n64. (R68) -/
  | stN64Compact (p : Bool) (a d : Reg)
  /-- Compact form of ld.n32. (R68) -/
  | ldN32Compact (p : Bool) (a d : Reg)
  /-- Compact form of st.n32. (R68) -/
  | stN32Compact (p : Bool) (a d : Reg)
  /-- Compact form of cbz. (R68) -/
  | cbzCompact (o : BitVec 6) (d : Reg)
  /-- Compact form of cbnz. (R68) -/
  | cbnzCompact (o : BitVec 6) (d : Reg)
  /-- Compact unconditional branch. (R68) -/
  | bCompact (o : BitVec 10)
  /-- Compact form of ret. (R68) -/
  | retCompact
  /-- Compact form of jr. (R68) -/
  | jrCompact (a : Reg)
  /-- Compact form of halt. (R68) -/
  | haltCompact
  /-- Compact form of yield. (R68) -/
  | yieldCompact
  /-- Compact form of nop. (R68) -/
  | nopCompact
  /-- Compact form of tst. (R68) -/
  | tstCompact (a d : Reg)
  /-- Compact form of andn. (R68) -/
  | andnCompact (a d : Reg)
  /-- Latches source, destination and scale formats for the next instruction. (R81) -/
  | fmt (src dst : Ty) (sc : ScaleSrc)
  /-- Repeats the next instruction n times, advancing named register fields. (R83) -/
  | rpt (n : Fin 16) (f : Fin 8) (st : Fin 3)
  /-- A host write to offset 0x38 of the plot's launch mailbox page submits the 64 bytes last written as a launch record, which is accepted with a LID or refused. (R37) -/
  | launchSubmit
  /-- Sowing delivers the task message of one work item to its target core, chosen by R42, waiting for run-queue space if needed. (R41) -/
  | sowTaskMessage
  /-- A spawned launch record reaches the plot's launch queue after the spawner's earlier accesses are performed at package scope and is accepted or refused. (R213) -/
  | spawnAccept
  /-- A core with a free stint context selects the message of lowest effective class and starts a stint whose state depends on the message kind. (R21) -/
  | stintStart
  /-- When BUDGET reaches zero the watchdog raises BUDGET_EXCEEDED with delivery class A. (R31) -/
  | budgetExceeded
  /-- The head of CT passes on to TOQ, a remote-LM path, transit or an engine command FIFO. (R172) -/
  | pass
  /-- A TOQ entry with no older entry for its line joins the home port's WQ and updates or drops the tile-cache copy. (R172) -/
  | home
  /-- A WQ entry with no older entry for its line is applied to the memory array. (R172) -/
  | apply
  /-- A tile-cache copy of a line is removed. (R172) -/
  | drop
  /-- The head of a remote-LM path P(A, C, b) joins the tail of the target's MQ. (R172) -/
  | arrive
  /-- The target core's message context executes the head of MQ as one step on its bank. (R182) -/
  | messageContextExecute
  /-- A message in transit whose release is complete enters the target's run queue. (R181) -/
  | deliver
  /-- After its back-off wait the source port retries an operation refused receiver-not-ready. (R355) -/
  | rnrRetry
  /-- Every 2 us the counting tree sums sent and received counts and idleness over the plot for each launch. (R49) -/
  | sweep
  /-- At a 1 ms plane-time boundary the energy period ends and demotions are lifted. (R46) -/
  | energyPeriodEnd
  /-- Once a launch has ended and all its entries, copies and claims are acknowledged, its completion word is written with system-scope release. (R51) -/
  | launchCompletion
  /-- A plot suspension request pauses sowing and stops new stints from starting. (R55) -/
  | plotSuspend
  /-- Once stints, buffers, message contexts, engines and claims have drained, the suspended image of the plot is taken. (R56) -/
  | suspendImageTaken
  /-- A suspended image resumes on a plot of at least as many tiles, keeping plot core numbers. (R57) -/
  | plotResume
  /-- A CPY or ETE performs a copy command, moving bytes row by row in ascending order. (R218) -/
  | copyExecute
  /-- Haruesol's answer to a copy's translation fault lets the copy continue from the faulting byte or ends it with CPY_FAULT. (R219) -/
  | copyServiceAnswer
  /-- A copy completes: bytes performed at system scope, barrier incremented, waiters evaluated and a completion message sent. (R220) -/
  | copyComplete
  /-- After its back-off wait the network interface retries a copy that an ETE refused, ending it with CPY_REFUSED at the limit. (R221) -/
  | eteRetry
  /-- The MXE takes the next job round robin and checks the ownership of the accumulators in its mask. (R236) -/
  | mxJobStart
  /-- The MXE executes the next operation of the running job in order. (R235) -/
  | mxOperationExecute
  /-- A back latch accepts a latch sent by a neighbour's mx.mrot of the same window, or refuses it. (R251) -/
  | mxLatchAccept
  /-- A wait of 1,000,000 ns within one MXE operation fails it with MX_WAIT_TIMEOUT. (R251) -/
  | mxWaitTimeout
  /-- A job completes in the order of R220 with its job status word and completion message. (R237) -/
  | mxJobComplete
  /-- An mx.rel command reached in the job queue releases the accumulators this core and launch own. (R242) -/
  | mxRelExecute
  /-- The home TSE examines an arriving world store and appends, prunes, queues, parks or discards it. (R293) -/
  | worldStoreArrive
  /-- The home TSE classes an arriving world load and answers it or puts it in the wait table. (R297) -/
  | worldLoadArrive
  /-- At its deadline a waiting load is answered TIMEOUT, or a waiting store is discarded with W_FULL. (R298) -/
  | waitDeadline
  /-- A cancel at the home TSE answers the matching waiting load CANCELLED, or does nothing. (R309) -/
  | wcancelArrive
  /-- Each TSE applies a floor sent by the floor master and re-examines the region's waiting stores. (R307) -/
  | floorApply
  /-- Once the claimant's earlier accesses are performed at system scope, its CLU sends the announcement stamped T0. (R329) -/
  | claimAnnounce
  /-- A member CLU records an arriving announcement as a pending claim. (R330) -/
  | announcementArrive
  /-- An arriving objection is added to the claim's objection set at a member CLU. (R331) -/
  | objectionArrive
  /-- A live CLU sends a heartbeat for each of its members every 2,000 ns of plane time. (R334) -/
  | heartbeat
  /-- When plane time reaches T0 + W + D, each member CLU decides the claim as COLLIDED, ABSENT, OBJECTED or COMMITTED. (R333) -/
  | claimDecide
  /-- A switch slot keeps, opens an epoch with, or discards an arriving coll.red contribution. (R225) -/
  | collContributionArrive
  /-- At its deadline an open epoch closes PARTIAL and its result record is formed. (R225) -/
  | epochDeadline
  /-- A coll.res request is answered at once, at the epoch's close, or with 0xA8 and no record. (R228) -/
  | collResArrive
  /-- The I/O die writes a host-queue entry, advances PI and mirrors it, or parks or discards the entry. (R231) -/
  | hostQueueEntryWrite
  /-- A host write of HQCI frees room so that parked host-queue entries leave in arrival order. (R231) -/
  | hqciWrite
  /-- A service core's read of SVQ takes the head entry and returns its slot and cause. (R360) -/
  | svqRead
  /-- A write of SVREL releases the aborted core of that slot, discarding a returned message when DROP is set. (R352) -/
  | svrelWrite
  /-- A service slot left without sret for SVLIM us posts WATCHDOG_SERVICE and aborts the runner. (R350) -/
  | watchdogService
  /-- A write of MBREL releases a mailbox slot so that its core or service core may go on. (R354) -/
  | mbrelWrite
  /-- A quiescent tile switches to the new Haruesol image, changes SVVER and posts FW_SWITCH. (R359) -/
  | fwSwitch
  /-- The host's answer to a page-fault queue entry lets Haruesol retry the access or return it with ABORT. (R376) -/
  | pfansWrite
  /-- A write of TLBINV with GO makes Haruesol invalidate one address or the whole plot with tlbi. (R375) -/
  | tlbinvWrite
  /-- A host write to BAR2 is a system-scope store to the plot-physical line. (R371) -/
  | hostBar2Write
  /-- A host read of BAR2 reads at home with every pending WQ entry applied. (R371) -/
  | hostBar2Read
  /-- A host AtomicOp to BAR2 is applied at home as add, swap or cas of its width. (R371) -/
  | hostAtomicop
  /-- A write of HOSTBEAT counts as a host heartbeat. (R392) -/
  | hostbeatWrite
  /-- Link loss or 100 ms without a heartbeat marks the host lost, posts HOST_LOST and parks host-bound traffic. (R392) -/
  | hostLost
  /-- When the link is up and a heartbeat arrives, the host has returned and parked entries leave in arrival order. (R393) -/
  | hostReturn
  /-- A write of 1 to DEVCTL.RESTART resets the device. (R395) -/
  | devctlRestart
  /-- A write of 1 to DEVCTL.TAKE gives PF writes precedence again over the fabric manager. (R393) -/
  | devctlTake
  /-- A write of FWCTL.COMMIT verifies the staged image and accepts or rejects it. (R395) -/
  | fwctlCommit
  /-- Arming INJ makes the next access to INJADDR in the named array meet the chosen error. (R397) -/
  | injArm
  /-- A write to a register without behaviour of its own changes its writable fields. (R8) -/
  | registerWrite
  /-- After reset the device verifies firmware, trains memory and links, builds its shape and reaches READY. (R394) -/
  | deviceStart
  /-- A start that does not reach READY within 60 s counts as failed and resets the device. (R394) -/
  | startTimeout
  /-- The PF creates a plot, whose memory Haruesol zeroes under its new key. (R373) -/
  | plotCreate
  /-- The PF resizes an idle plot, renumbering cores and scrubbing removed tiles. (R382) -/
  | plotResize
  /-- The PF tears down a plot in eight ordered steps ending with the destruction of its keys. (R383) -/
  | plotTeardown
  /-- SPDM GET_VERSION request. (R378) -/
  | getVersion
  /-- SPDM GET_CAPABILITIES request. (R378) -/
  | getCapabilities
  /-- SPDM NEGOTIATE_ALGORITHMS request. (R378) -/
  | negotiateAlgorithms
  /-- SPDM GET_DIGESTS request. (R378) -/
  | getDigests
  /-- SPDM GET_CERTIFICATE request for the device identity chain. (R378) -/
  | getCertificate
  /-- SPDM CHALLENGE request signed by the device identity key. (R378) -/
  | challenge
  /-- SPDM GET_MEASUREMENTS request returning the measurement indices. (R378) -/
  | getMeasurements
  /-- SPDM KEY_EXCHANGE request opening a session. (R378) -/
  | keyExchange
  /-- SPDM FINISH request completing a session. (R378) -/
  | finish
  /-- SPDM KEY_UPDATE request. (R378) -/
  | keyUpdate
  /-- SPDM END_SESSION request. (R378) -/
  | endSession
  /-- SPDM VENDOR_DEFINED request carrying TDISP or IDE_KM. (R378) -/
  | vendorDefined
  /-- A TLP failing its IDE check is dropped, IDE_INTEGRITY is posted and the stream's TDIs enter ERROR. (R379) -/
  | ideIntegrity
  /-- A flit that fails its CRC is replayed from the sender's replay buffer and logged. (R388) -/
  | linkReplay
  /-- Every 450 s a port's retraining bucket is refilled by one. (R388) -/
  | retrainBucketRefill
  /-- A switch that finds a header error sends an abort flit and the receiver discards the whole packet. (R357) -/
  | fabricAbortFlit
  /-- 1 us after an abort the source repeats the packet, and after the eighth failure delivers FABRIC_ABORT. (R357) -/
  | fabricRepeat
  /-- A fabric peer checks job and address of an arriving access and performs or refuses it. (R387) -/
  | fabricPeerAccess
  /-- After 10 ms with fabric ports down, cross-device claim members are treated as absent. (R389) -/
  | fabricSyncLoss
  /-- The patrol scrub reads and corrects HBM lines, at least once every 24 h per line. (R396) -/
  | patrolScrub
  /-- The root-of-trust core writes its lifetime counters to non-volatile storage at least hourly. (R398) -/
  | lifetimeCounterWrite
  /-- svc function 0x000 returns SVVER in g1. (R367) -/
  | null
  /-- svc function 0x010 declares a claim group with its window, bound and notice handler. (R367) -/
  | clmDeclare
  /-- svc function 0x011 joins the calling core to a group, binding its launch and WID. (R367) -/
  | clmJoin
  /-- svc function 0x012 removes the calling core from a group. (R367) -/
  | clmLeave
  /-- svc function 0x013 removes a member and clears its absence mark. (R367) -/
  | clmRemove
  /-- svc function 0x014 dissolves a group, answering pending claims DISSOLVED. (R367) -/
  | clmDissolve
  /-- svc function 0x100 allocates a switch reduction slot and returns its handle. (R391) -/
  | collAlloc
  /-- svc function 0x101 frees a switch reduction slot. (R391) -/
  | collFree
  /-- svc function 0x102 returns the logical shape of a die. (R391) -/
  | shape
  /-- A host write that clears HQBASE.EN discards every entry parked for that queue and reports it with HOST_QUEUE_OFF. (R231) -/
  | hostQueueDisable
  /-- A wprobe request arriving at the home TSE reads the newest and oldest instants of the furrow in one step, ordered among that key's stores. (R308) -/
  | wprobeArrive
  /-- A wfloor request arriving at the floor master, TSE RID mod 16, checks the region and the floor order, sets the floor and sends it to every TSE. (R307) -/
  | floorMasterArrive
  /-- At each TSE, in one step, a freed region's waiting loads are answered NO_KEY, its waiting stores are discarded, and its samples and floors are dropped. (R311) -/
  | regionFreeApply
  /-- A region registered by wreg is entered at each TSE and tile router, and until then operations may find it unregistered there. (R310) -/
  | regionRegisterApply
  /-- When plane-time synchronisation over the fabric returns, the device's CLUs speak again for cross-device groups. (R389) -/
  | fabricSyncReturn
  /-- A port's retraining ends, and the port comes up, on its remaining lanes if one was retired, and its held traffic proceeds. (R388) -/
  | retrainingComplete
  /-- A reset of a VF's function puts its TDI in ERROR. (R377) -/
  | functionReset
  deriving DecidableEq, Repr

end Sys2Proof
end

