-- ==== Sys2Proof/WellFormed.lean ====
section
/-! DEFINITION. Which instructions an encoding can hold: the field rules of R66, R72, R73, R126, R151, R157, R196, R202,
R244, R253, R262, R275, R289, R326. -/
namespace Sys2Proof

/-- The special-register numbers of R62 below 0x800. -/
def sregListed : List Nat :=
  [0x000, 0x001, 0x002, 0x003, 0x004, 0x005, 0x006, 0x007, 0x008, 0x009, 0x00A, 0x00B, 0x00C, 0x00D, 0x00E,
   0x010, 0x011, 0x012, 0x013, 0x014, 0x015, 0x016, 0x017, 0x030, 0x031, 0x032, 0x033, 0x040]

/-- The service-core special-register numbers of R360. -/
def sregService : List Nat := [0x800, 0x801, 0x802, 0x803, 0x804, 0x805, 0x806, 0x807]

/-- The number names a register (R62, R360). -/
def sregOk (n : BitVec 12) : Bool := n.toNat ∈ sregListed || n.toNat ∈ sregService

/-- An effect identifier that an instruction may encode (R262, R275). -/
def effOk (e : BitVec 12) : Bool := !(0x0C0 ≤ e.toNat && e.toNat ≤ 0x0FF)

/-- A modifier that leaves source b alone, for an entry with one source (R71). -/
def Modifier.oneSource (m : Modifier) : Bool := !m.negb && !m.absb
/-- The modifier of `vred` (R151). -/
def Modifier.vredOk (m : Modifier) : Bool :=
  !m.sat && m.clamp == 0 && !m.negb && !m.absb && !m.negr && m.scale == 0
/-- The modifier of `vsum.q` and `mx.qnt` (R151, R252). -/
def Modifier.scaleRmo (m : Modifier) : Bool :=
  !m.sat && m.clamp == 0 && !m.nega && !m.negb && !m.absa && !m.absb && !m.negr
/-- The modifier of `mx.st` (R252). -/
def Modifier.mxSt (m : Modifier) : Bool := !m.nega && !m.negb && !m.absa && !m.absb
/-- Stochastic rounding is asked for only where R72 allows it. -/
def Modifier.srOk (m : Modifier) (t : Ty) : Bool := m.rmo != 5 || t.srLegal

/-- An optional modifier meets a rule. -/
def optM (m : Option Modifier) (ok : Modifier → Bool) : Bool :=
  match m with
  | none => true
  | some x => ok x

/-- The part index of `vcvt` is in range (R157); the pair f64, f64 may stand for the pair of a format form. -/
def vcvtPartOk (s t : Ty) (p : Nat) : Bool :=
  (s == .f64 && t == .f64) || p < max s.lanes t.lanes / min s.lanes t.lanes

/-- A store kind (R141, R199). -/
def LdKind.isStore (k : LdKind) : Bool := k.code < 4

/-- The instruction is one that an encoding can hold, or an event. -/
def Instr.wellFormed : Instr → Bool
  | .sleepQ _ n => 1 ≤ n.toNat && n.toNat ≤ 4096
  | .rsr _ n => sregOk n && n != 0x017
  | .wsr n _ => sregOk n
  | .st k _ _ _ _ => k.isStore
  | .gst k _ _ _ => k.isStore
  | .gstRel k _ _ _ _ => k.isStore
  | .vadd t _ _ _ _ m => t.laneCode < 16 && optM m (·.srOk t)
  | .vsub t _ _ _ _ m => t.laneCode < 16 && optM m (·.srOk t)
  | .vmul t _ _ _ _ m => t.laneCode < 16 && optM m (·.srOk t)
  | .vfma t _ _ _ _ m => t.laneCode < 16 && optM m (·.srOk t)
  | .vmin t _ _ _ _ m => t.laneCode < 16 && optM m (·.srOk t)
  | .vmax t _ _ _ _ m => t.laneCode < 16 && optM m (·.srOk t)
  | .vdiv t _ _ _ _ m => t.isFloat && optM m (·.srOk t)
  | .vsqrt t _ _ _ m => t.isFloat && optM m (fun x => x.srOk t && x.oneSource)
  | .vrcp t _ _ _ m => t.isFloat && optM m (fun x => x.srOk t && x.oneSource)
  | .vrsq t _ _ _ m => t.isFloat && optM m (fun x => x.srOk t && x.oneSource)
  | .vcmp _ t _ _ _ _ => t.laneCode < 16
  | .vsel t _ _ _ _ => t.laneCode < 16
  | .vand t _ _ _ _ => t.laneCode < 16
  | .vor t _ _ _ _ => t.laneCode < 16
  | .vxor t _ _ _ _ => t.laneCode < 16
  | .vshl t _ _ _ _ => t.laneCode < 16 && t.isInt
  | .vshr t _ _ _ _ => t.laneCode < 16 && t.isInt
  | .vred _ t _ _ _ m => t.laneCode < 16 && optM m (fun x => x.srOk t && x.vredOk)
  | .vperm t _ _ _ _ => t.laneCode < 16
  | .vbcast t _ _ _ => t.laneCode < 16
  | .vcvt s t _ p _ _ m => s.laneCode < 12 && t.laneCode < 12 && vcvtPartOk s t p
      && optM m (fun x => x.oneSource && ((s == .f64 && t == .f64) || x.srOk t))
  | .vsumQ t _ _ _ m => t.laneCode < 16 && optM m (fun x => x.srOk t && x.scaleRmo)
  | .vld t _ _ _ m => t.laneCode < 16 && optM m (·.oneSource)
  | .vst t _ _ _ _ m => t.laneCode < 16 && optM m (·.oneSource)
  | .vlds t _ _ _ _ m => t.laneCode < 16 && optM m (·.oneSource)
  | .vsts t _ _ _ _ m => t.laneCode < 16 && optM m (·.oneSource)
  | .vgat t _ _ _ _ m => t.laneCode < 16 && optM m (·.oneSource)
  | .vsct t _ _ _ _ m => t.laneCode < 16 && optM m (·.oneSource)
  | .vlbit t _ _ _ m => t.laneCode < 16 && optM m (·.oneSource)
  | .gvld t _ _ _ _ => t.laneCode < 16
  | .gvst t _ _ _ _ => t.laneCode < 16
  | .gvgat t _ _ _ _ => t.laneCode < 16
  | .gvsct t _ _ _ _ => t.laneCode < 16
  | .atom o _ u _ _ _ _ => o != .fadd && o != .cas && (!u || o == .min || o == .max)
  | .red o _ u _ _ _ => o != .swap && o != .cas && (!u || o == .min || o == .max)
  | .send _ a _ => a.val ≤ 12
  | .sendQ _ n a _ => a.val + n.val ≤ 15
  | .sendMc _ a _ => a.val ≤ 12
  | .collRes _ _ a _ => a.val ≤ 12
  | .sendh _ a => a.val ≤ 12
  | .mxLda x _ a => !x || a.val < 8
  | .mxLdb x _ a => !x || a.val < 8
  | .mxSt _ x _ a _ m => (!x || a.val < 8) && optM m (·.mxSt)
  | .mxQnt _ _ _ m => optM m (·.scaleRmo)
  | .perform e _ _ => effOk e && e != 0xFFF
  | .vperform e _ _ => effOk e && e != 0xFFF
  | .hpop e => effOk e
  | .resumev t _ _ => t.laneCode < 16
  | .hndOnce e _ => effOk e
  | .hndMany e _ => effOk e
  | .hndNone e _ => effOk e
  | .rrec n _ _ => n.toNat ≤ 87
  | .rrecW n _ _ => n.toNat ≤ 87
  | .wprobe _ d => d.val != 15
  | .clmLd _ d => d.val != 15
  | .fmt s t c => s.fmtCode < 15 && t.fmtCode < 15 && fmtLegal s t c
  | _ => true

end Sys2Proof
end

