-- ==== Sys2Proof/Decode.lean ====
section
/-! DEFINITION. The decoder (R64 to R89 and the encoding tables of every major), total on any bytes, and after it the
encoder written from the same tables. A refused encoding names its cause code (R88), the first of R89's order that the words
alone decide. -/
namespace Sys2Proof

/-- What decoding gives: an instruction and its length in bytes; a decode fault, with a mark that the encoding is a service
one, for which a compute core raises PRIV first (R89); or too few bytes. -/
inductive Dec where
  | ok (i : Instr) (len : Nat)
  | bad (c : Cause) (svc : Bool)
  | short
  deriving DecidableEq, Repr

/-- Bits [hi:lo] of a word held as a number. -/
def bits (w hi lo : Nat) : Nat := w / 2 ^ lo % 2 ^ (hi + 1 - lo)
/-- Bit n of a word held as a number. -/
def bit (w n : Nat) : Bool := w / 2 ^ n % 2 == 1
/-- A 4-bit register field whose lowest bit is lo. -/
def regAt (w lo : Nat) : Reg := Fin.ofNat 16 (w / 2 ^ lo)
/-- A 3-bit register field. -/
def oct (w lo : Nat) : Fin 8 := Fin.ofNat 8 (w / 2 ^ lo)
/-- A 2-bit field. -/
def quad (w lo : Nat) : Fin 4 := Fin.ofNat 4 (w / 2 ^ lo)
/-- A 6-bit count field. -/
def sixAt (w lo : Nat) : Fin 64 := Fin.ofNat 64 (w / 2 ^ lo)

/-- ILLEGAL_OPCODE (R88). -/
def ill : Dec := .bad 0x00 false
/-- RESERVED_FIELD (R88). -/
def rsv : Dec := .bad 0x01 false
/-- RESERVED_FIELD, in an instruction that its entry reserves to service cores. -/
def rsvSvc : Dec := .bad 0x01 true
/-- Goes on when the fields that must be zero are zero. -/
def need (b : Bool) (k : Dec) : Dec := if b then k else rsv
/-- As `need`, in a service instruction. -/
def needSvc (b : Bool) (k : Dec) : Dec := if b then k else rsvSvc
/-- A 32-bit instruction without modifier. -/
def ok4 (i : Instr) : Dec := .ok i 4

/-- The modifier word of R70 as read from its bits. -/
def modOf (x : Nat) : Modifier :=
  { sat := bit x 27, clamp := Fin.ofNat 3 (bits x 26 25), nega := bit x 24, negb := bit x 23, absa := bit x 22,
    absb := bit x 21, negr := bit x 20, scale := BitVec.ofNat 6 (bits x 19 14), rmo := Fin.ofNat 6 (bits x 13 11) }

/-- The modifier part of an instruction that accepts one (R70, R73): the second word, if M is set. -/
def withMod (w : Nat) (mw : Option Nat) (okm : Modifier → Bool) (k : Option Modifier → Instr) : Dec :=
  if bit w 19 then
    match mw with
    | none => .short
    | some x =>
      if bits x 31 28 != 10 then .bad 0x05 false
      else if bits x 26 25 == 3 || bits x 13 11 ≥ 6 || bits x 10 0 != 0 then rsv
      else if okm (modOf x) then .ok (k (some (modOf x))) 8
      else rsv
  else .ok (k none) 4

/-- Major 0x00 (R118, R119). -/
def decMajor00 (w : Nat) : Dec :=
  let d := regAt w 7; let a := regAt w 11; let b := regAt w 15; let m0 := !bit w 19
  match bits w 31 20 with
  | 0x000 => need m0 (ok4 (.add d a b))
  | 0x001 => need m0 (ok4 (.sub d a b))
  | 0x002 => need m0 (ok4 (.and d a b))
  | 0x003 => need m0 (ok4 (.or d a b))
  | 0x004 => need m0 (ok4 (.xor d a b))
  | 0x005 => need m0 (ok4 (.andn d a b))
  | 0x006 => need m0 (ok4 (.shl d a b))
  | 0x007 => need m0 (ok4 (.shr d a b))
  | 0x008 => need m0 (ok4 (.sra d a b))
  | 0x009 => need m0 (ok4 (.rotl d a b))
  | 0x00A => need m0 (ok4 (.minI64 d a b))
  | 0x00B => need m0 (ok4 (.maxI64 d a b))
  | 0x00C => need m0 (ok4 (.minN64 d a b))
  | 0x00D => need m0 (ok4 (.maxN64 d a b))
  | 0x00E => need (m0 && b == 0) (ok4 (.mov d a))
  | 0x00F => need (m0 && d == 0) (ok4 (.cmp a b))
  | 0x010 => need (m0 && d == 0) (ok4 (.tst a b))
  | _ => ill

/-- Major 0x01 (R121). -/
def decMajor01 (w : Nat) : Dec :=
  let d := regAt w 7; let a := regAt w 11; let b := regAt w 15; let m0 := !bit w 19
  match bits w 31 20 with
  | 0 => need m0 (ok4 (.mul d a b))
  | 1 => need m0 (ok4 (.mulhI64 d a b))
  | 2 => need m0 (ok4 (.mulhN64 d a b))
  | 3 => need m0 (ok4 (.divI64 d a b))
  | 4 => need m0 (ok4 (.divN64 d a b))
  | 5 => need m0 (ok4 (.remI64 d a b))
  | 6 => need m0 (ok4 (.remN64 d a b))
  | _ => ill

/-- Major 0x02 (R122). -/
def decMajor02 (w : Nat) : Dec :=
  let d := regAt w 7; let a := regAt w 11; let b := regAt w 15; let m0 := !bit w 19
  match bits w 31 24 with
  | 0 =>
    match bits w 23 20 with
    | 0 => need (m0 && b == 0) (ok4 (.clz d a))
    | 1 => need (m0 && b == 0) (ok4 (.ctz d a))
    | 2 => need (m0 && b == 0) (ok4 (.pop d a))
    | 3 => need m0 (ok4 (.bext d a b))
    | 4 => need m0 (ok4 (.bexts d a b))
    | 5 => need m0 (ok4 (.bins d a b))
    | _ => ill
  | 1 =>
    match Cond.of (bits w 23 20) with
    | some c => need m0 (ok4 (.sel c d a b))
    | none => rsv
  | _ => ill

/-- Majors 0x03 to 0x07 (R123). -/
def decImm (major w : Nat) : Dec :=
  let d := regAt w 7; let a := regAt w 11; let i := BitVec.ofNat 17 (bits w 31 15)
  match major with
  | 3 => ok4 (.addi d a i)
  | 4 => need (a == 0) (ok4 (.li d i))
  | 5 => need (!bit w 31 && bits w 14 13 == 0) (ok4 (.lhi d (BitVec.ofNat 16 (bits w 30 15)) (quad w 11)))
  | 6 => need (a == 0) (ok4 (.cmpi d i))
  | _ =>
    let n := sixAt w 15
    need (bits w 31 23 == 0)
      (match bits w 22 21 with
       | 0 => ok4 (.shli d a n)
       | 1 => ok4 (.shri d a n)
       | 2 => ok4 (.srai d a n)
       | _ => ok4 (.rotli d a n))

/-- Major 0x0A (R126). -/
def decMajor0A (w : Nat) : Dec :=
  let d := regAt w 7; let o := BitVec.ofNat 17 (bits w 31 15); let z := bits w 31 15 == 0
  match bits w 14 11 with
  | 0 => ok4 (.cbz d o)
  | 1 => ok4 (.cbnz d o)
  | 2 => need z (ok4 (.jr d))
  | 3 => need (z && d == 0) (ok4 .nop)
  | 4 => need (z && d == 0) (ok4 .halt)
  | 5 => need z (ok4 (.haltR d))
  | 6 => need z (ok4 (.go d))
  | 7 => need (z && d == 0) (ok4 .yield)
  | 8 => need (bits w 31 28 == 0 && !bit w 10 && 1 ≤ bits w 27 15 && bits w 27 15 ≤ 4096)
      (ok4 (.sleepQ (oct w 7) (BitVec.ofNat 13 (bits w 27 15))))
  | 9 => need z (ok4 (.sleepJob d))
  | 10 => need (bits w 31 20 == 0)
      (ok4 (if bit w 19 then .sleepGeG d (regAt w 15) else .sleepGe d (regAt w 15)))
  | _ => ill

/-- Major 0x0B (R138, R63); 0x017 read is `cpgo` (R214). -/
def decMajor0B (w : Nat) : Dec :=
  let n := bits w 31 20
  let unlisted := if n ≥ 0x800 then rsvSvc else rsv
  match bits w 18 15 with
  | 0 =>
    if sregOk (BitVec.ofNat 12 n) then
      (if bit w 19 || regAt w 11 != 0 then (if n ≥ 0x800 then rsvSvc else rsv)
       else if n = 0x017 then ok4 (.cpgo (regAt w 7)) else ok4 (.rsr (regAt w 7) (BitVec.ofNat 12 n)))
    else unlisted
  | 1 =>
    if sregOk (BitVec.ofNat 12 n) then
      (if bit w 19 || regAt w 7 != 0 then (if n ≥ 0x800 then rsvSvc else rsv)
       else ok4 (.wsr (BitVec.ofNat 12 n) (regAt w 11)))
    else unlisted
  | _ => ill

/-- Majors 0x0C and 0x0D (R141). -/
def decLdSt (store : Bool) (w : Nat) : Dec :=
  match LdKind.of (bits w 31 29) with
  | none => ill
  | some k =>
    let p := bit w 28; let o := BitVec.ofNat 13 (bits w 27 15)
    if store then (if k.isStore then ok4 (.st k p o (regAt w 11) (regAt w 7)) else ill)
    else ok4 (.ld k p o (regAt w 11) (regAt w 7))

/-- Major 0x0E (R144). -/
def decMajor0E (w : Nat) : Dec :=
  let x := bit w 29; let p := bit w 28
  match bits w 31 30 with
  | 0 => need (bits w 20 11 == 0) (ok4 (.lbit x p (bit w 27) (sixAt w 21) (regAt w 7)))
  | 1 => need (bits w 20 11 == 0 && !bit w 27) (ok4 (.sbit x p (sixAt w 21) (regAt w 7)))
  | 2 => need (bits w 28 19 == 0 && regAt w 7 == 0) (ok4 (.baSet x (regAt w 11) (regAt w 15)))
  | _ => ill

/-- Major 0x0F (R147). -/
def decMajor0F (w : Nat) : Dec :=
  let a := regAt w 11; let b0 := bits w 18 15 == 0; let m0 := !bit w 19; let q0 := !bit w 10
  match bits w 31 20 with
  | 0 => need (m0 && q0 && b0) (ok4 (.qSet (oct w 7) a))
  | 1 => need (m0 && q0 && b0) (ok4 (.qAdvP (oct w 7) a))
  | 2 => need (m0 && q0 && b0) (ok4 (.qAdvC (oct w 7) a))
  | 3 => need (m0 && bits w 18 17 == 0 && !bit w 14) (ok4 (.qLd (regAt w 7) (oct w 11) (quad w 15)))
  | 4 => need (m0 && q0 && b0) (ok4 (.qSt (oct w 7) a))
  | 5 => need (m0 && q0 && a == 0 && !bit w 18) (ok4 (.qStV (oct w 7) (oct w 15)))
  | 6 => need (m0 && b0 && !bit w 14) (ok4 (.qGet (regAt w 7) (oct w 11)))
  | _ => ill

/-- The lane type of a V-form instruction (R74, R150). -/
def vtype (w : Nat) (takes : Ty → Bool) (k : Ty → Dec) : Dec :=
  match Ty.ofLane (bits w 23 20) with
  | none => rsv
  | some t => if takes t then k t else ill

/-- Every lane type. -/
def anyTy (_ : Ty) : Bool := true

/-- An instruction that takes a ring operand (R76). -/
def vringOp (w : Nat) (k : VSrc → Dec) : Dec :=
  if bit w 18 then k (.ring (oct w 13) (quad w 30)) else need (bits w 31 30 == 0) (k (.reg (oct w 13)))

/-- An instruction that takes no ring operand (R76). -/
def vplain (w : Nat) (z : Bool) (k : Dec) : Dec := need (bits w 31 30 == 0 && !bit w 18 && z) k

/-- Major 0x10 (R151, R152). -/
def decMajor10 (w : Nat) (mw : Option Nat) : Dec :=
  let d := oct w 7; let a := oct w 10; let km := quad w 16; let vb0 := bits w 15 13 == 0
  let bin (takes : Ty → Bool) (c : Ty → KReg → VSrc → VReg → VReg → Option Modifier → Instr) : Dec :=
    vtype w takes fun t => vringOp w fun b => withMod w mw (·.srOk t) (c t km b a d)
  let un (c : Ty → KReg → VReg → VReg → Option Modifier → Instr) : Dec :=
    vtype w Ty.isFloat fun t => vplain w vb0 (withMod w mw (fun x => x.srOk t && x.oneSource) (c t km a d))
  match bits w 29 24 with
  | 0x00 => bin anyTy .vadd
  | 0x01 => bin anyTy .vsub
  | 0x02 => bin anyTy .vmul
  | 0x03 => bin anyTy .vfma
  | 0x04 => bin Ty.isFloat .vdiv
  | 0x05 => un .vsqrt
  | 0x06 => un .vrcp
  | 0x07 => un .vrsq
  | 0x08 => bin anyTy .vmin
  | 0x09 => bin anyTy .vmax
  | _ => ill

/-- Major 0x11 (R151, R153, R154). -/
def decMajor11 (w : Nat) : Dec :=
  let d := oct w 7; let a := oct w 10; let km := quad w 16; let m0 := !bit w 19
  let bin (takes : Ty → Bool) (c : Ty → KReg → VSrc → VReg → VReg → Instr) : Dec :=
    vtype w takes fun t => vringOp w fun b => need m0 (ok4 (c t km b a d))
  match bits w 29 24 with
  | 0x08 => bin anyTy .vsel
  | 0x10 => bin anyTy .vand
  | 0x11 => bin anyTy .vor
  | 0x12 => bin anyTy .vxor
  | 0x18 => bin Ty.isInt .vshl
  | 0x19 => bin Ty.isInt .vshr
  | f =>
    match CmpPred.of f with
    | none => ill
    | some p => vtype w anyTy fun t => vringOp w fun b => need (m0 && !bit w 9) (ok4 (.vcmp p t km b a (quad w 7)))

/-- Major 0x12 (R151, R155 to R157). -/
def decMajor12 (w : Nat) (mw : Option Nat) : Dec :=
  let d := oct w 7; let a := oct w 10; let km := quad w 16; let m0 := !bit w 19; let vb0 := bits w 15 13 == 0
  let f := bits w 29 24
  if f < 4 then
    match RedOp.of f with
    | none => ill
    | some o => vtype w anyTy fun t => vplain w vb0 (withMod w mw (fun x => x.srOk t && x.vredOk) (.vred o t km a d))
  else if f = 8 then vtype w anyTy fun t => vplain w m0 (ok4 (.vperm t km (oct w 13) a d))
  else if f = 9 then vtype w anyTy fun t => vplain w (m0 && vb0) (ok4 (.vbcast t km a d))
  else if f ≥ 32 then
    match Ty.ofLane (f - 32) with
    | none => ill
    | some s => vtype w anyTy fun t =>
        vplain w (vcvtPartOk s t (oct w 13))
          (withMod w mw (fun x => x.oneSource && ((s == .f64 && t == .f64) || x.srOk t)) (.vcvt s t km (oct w 13) a d))
  else ill

/-- Major 0x13 (R158). -/
def decMajor13 (w : Nat) (mw : Option Nat) : Dec :=
  if bits w 29 24 = 0 then
    vtype w anyTy fun t => need (bit w 18 && bits w 31 30 == 0 && bits w 12 10 == 0)
      (withMod w mw (fun x => x.srOk t && x.scaleRmo) (.vsumQ t (quad w 16) (oct w 13) (oct w 7)))
  else ill

/-- Major 0x14 (R151, R159 to R162). -/
def decMajor14 (w : Nat) (mw : Option Nat) : Dec :=
  let d := oct w 7; let a := oct w 10; let km := quad w 16; let one (x : Modifier) : Bool := x.oneSource
  match bits w 29 24 with
  | 0 => vtype w anyTy fun t => vplain w (bits w 15 13 == 0) (withMod w mw one (.vld t km a d))
  | 1 => vtype w anyTy fun t => vplain w (!bit w 15) (withMod w mw one (.vst t km (quad w 13) a d))
  | 2 => vtype w anyTy fun t => vplain w true (withMod w mw one (.vlds t km (oct w 13) a d))
  | 3 => vtype w anyTy fun t => vplain w true (withMod w mw one (.vsts t km (oct w 13) a d))
  | 4 => vtype w anyTy fun t => vplain w true (withMod w mw one (.vgat t km (oct w 13) a d))
  | 5 => vtype w anyTy fun t => vplain w true (withMod w mw one (.vsct t km (oct w 13) a d))
  | 6 => vtype w anyTy fun t => vplain w (bits w 15 13 == 0 && bits w 12 11 == 0)
      (withMod w mw one (.vlbit t km (bit w 10) d))
  | _ => ill

/-- Majors 0x18 and 0x19 (R199). -/
def decGlobal (store : Bool) (w : Nat) : Dec :=
  let o := BitVec.ofNat 9 (bits w 23 15); let a := regAt w 11; let d := regAt w 7
  match bits w 31 30 with
  | 0 =>
    match LdKind.of (bits w 29 27) with
    | none => ill
    | some k =>
      if store then (if k.isStore then need (bits w 26 24 == 0) (ok4 (.gst k o a d)) else ill)
      else need (bits w 26 24 == 0) (ok4 (.gld k o a d))
  | 1 =>
    match LdKind.of (bits w 29 27) with
    | none => ill
    | some k =>
      if store && !k.isStore then ill
      else match Scope.of (bits w 26 24) with
        | none => rsv
        | some sc => ok4 (if store then .gstRel k sc o a d else .gldAcq k sc o a d)
  | 2 =>
    match Ty.ofLane (bits w 29 26) with
    | none => rsv
    | some t => need (!bit w 10) (ok4 (if store then .gvst t (quad w 24) o a (oct w 7) else .gvld t (quad w 24) o a (oct w 7)))
  | _ =>
    match Ty.ofLane (bits w 29 26) with
    | none => rsv
    | some t => need (!bit w 10 && bits w 20 15 == 0)
        (ok4 (if store then .gvsct t (quad w 24) (oct w 21) a (oct w 7) else .gvgat t (quad w 24) (oct w 21) a (oct w 7)))

/-- Major 0x1A (R202). -/
def decMajor1A (w : Nat) : Dec :=
  let b := regAt w 15; let a := regAt w 11; let d := regAt w 7
  let wd := bit w 24; let u := bit w 23; let l := bit w 22; let z := bits w 21 19 == 0
  match bits w 31 28 with
  | 0 =>
    match AOp.ofAtom (bits w 27 25) with
    | none => ill
    | some o => need (z && (!u || o == .min || o == .max)) (ok4 (.atom o wd u l b a d))
  | 1 =>
    match AOp.ofRed (bits w 27 25) with
    | none => ill
    | some o => need (z && (!u || o == .min || o == .max) && d == 0) (ok4 (.red o wd u l b a))
  | 2 => if bits w 27 25 = 0 then need (z && !u) (ok4 (.cas wd l b a d)) else ill
  | _ => ill

/-- Major 0x1B (R206). -/
def decMajor1B (w : Nat) : Dec :=
  match bits w 31 28 with
  | 0 =>
    match FenceKind.of (bits w 27 26), Scope.of (bits w 25 23) with
    | some k, some sc => need (bits w 22 7 == 0) (ok4 (.fence k sc))
    | _, _ => rsv
  | 1 => need (bits w 27 7 == 0) (ok4 .afence)
  | _ => ill

/-- Majors 0x1C to 0x1F (R207, R210, R222, R223). -/
def decMsg (major w : Nat) : Dec :=
  let h := BitVec.ofNat 10 (bits w 29 20); let b := regAt w 15; let a := regAt w 11; let d := regAt w 7; let m0 := !bit w 19
  match major, bits w 31 30 with
  | 0x1C, 0 => need (m0 && b == 0 && a.val ≤ 12) (ok4 (.send h a d))
  | 0x1C, 1 => need (bits w 24 15 == 0 && a.val + (quad w 25).val ≤ 15) (ok4 (.sendQ (oct w 27) (quad w 25) a d))
  | 0x1D, 0 => need (m0 && b == 0 && a.val ≤ 12) (ok4 (.sendMc h a d))
  | 0x1D, 1 => need (bits w 29 19 == 0) (ok4 (.sendMcSt b a d))
  | 0x1D, 2 => need (bits w 29 15 == 0 && d == 0) (ok4 (.spawn a))
  | 0x1E, _ => if bits w 31 20 = 0 then need (m0 && b == 0) (ok4 (.cpwait a d)) else ill
  | 0x1F, 0 => need (bits w 29 19 == 0 && d == 0) (ok4 (.collRed b a))
  | 0x1F, 1 => need (m0 && a.val ≤ 12) (ok4 (.collRes h b a d))
  | 0x1F, 2 => need (bits w 29 24 == 0 && m0 && b == 0 && d == 0 && a.val ≤ 12) (ok4 (.sendh (regAt w 20) a))
  | _, _ => ill

/-- Majors 0x20 to 0x23 (R241, R243, R247, R252). -/
def decMx (major w : Nat) (mw : Option Nat) : Dec :=
  let b := regAt w 15; let a := regAt w 11; let d := regAt w 7; let m0 := !bit w 19
  match major with
  | 0x20 =>
    let mask0 := bits w 27 24 == 0; let z := bits w 23 19 == 0
    match bits w 31 28 with
    | 0 => need (z && bits w 18 7 == 0) (ok4 (.mxJob (BitVec.ofNat 4 (bits w 27 24))))
    | 1 => need (mask0 && z && b == 0) (ok4 (.mxGo a d))
    | 2 => need (mask0 && z && b == 0) (ok4 (.mxWait a d))
    | 3 => need (mask0 && z && b == 0) (ok4 (.mxPoll a d))
    | 4 => need (mask0 && z && d == 0) (ok4 (.mxTst b a))
    | 5 => need (z && bits w 18 7 == 0) (ok4 (.mxRel (BitVec.ofNat 4 (bits w 27 24))))
    | _ => ill
  | 0x21 =>
    let x := bit w 29; let z := bits w 28 19 == 0 && d == 0 && (!x || !bit w 14)
    match bits w 31 30 with
    | 0 => need z (ok4 (.mxLda x b a))
    | 1 => need z (ok4 (.mxLdb x b a))
    | 2 => need (z && !x) (ok4 (.mxLdm b a))
    | _ => ill
  | 0x22 =>
    let c := quad w 28; let z := bits w 27 19 == 0 && a == 0 && d == 0
    match bits w 31 30 with
    | 0 => need (z && b == 0) (ok4 (.mxZero c))
    | 1 => need (z && b == 0) (ok4 (.mxMma c))
    | 2 => need (z && b == 0) (ok4 (.mxMmas c))
    | _ => need z (ok4 (.mxMrot c b))
  | _ =>
    let c := quad w 28; let z := bits w 26 20 == 0
    match bits w 31 30 with
    | 0 => need (z && (!bit w 27 || !bit w 14)) (withMod w mw (·.mxSt) (.mxSt c (bit w 27) b a d))
    | 1 => need (z && !bit w 27 && m0 && b == 0 && d == 0) (ok4 (.mxAmax c a))
    | 2 => need (z && !bit w 27 && d == 0) (withMod w mw (·.scaleRmo) (.mxQnt c b a))
    | _ => ill

/-- Major 0x24 (R275). -/
def decMajor24 (w : Nat) : Dec :=
  let e := BitVec.ofNat 12 (bits w 31 20); let a := regAt w 11; let d := regAt w 7; let m0 := !bit w 19
  let e0 := bits w 31 20 == 0
  let h := BitVec.ofNat 8 (bits w 14 11 + 16 * bits w 10 7)
  match bits w 18 15 with
  | 0 => need (m0 && effOk e && e != 0xFFF) (ok4 (.perform e a d))
  | 1 => need (m0 && effOk e && e != 0xFFF && bits w 14 13 == 0 && !bit w 10) (ok4 (.vperform e (quad w 11) (oct w 7)))
  | 2 => need (m0 && effOk e && a == 0 && d == 0) (ok4 (.hpop e))
  | 3 => need (m0 && e0) (ok4 (.resume a d))
  | 4 => vtype w anyTy fun t => need (m0 && bits w 31 24 == 0 && !bit w 10) (ok4 (.resumev t a (oct w 7)))
  | 5 => need (m0 && e0 && d == 0) (ok4 (.abort a))
  | 6 => need (m0 && e0) (ok4 (.tokq a d))
  | 12 => need (m0 && effOk e) (ok4 (.hndOnce e h))
  | 13 => need (m0 && effOk e) (ok4 (.hndMany e h))
  | 14 => need (m0 && effOk e) (ok4 (.hndNone e h))
  | 15 => rsv
  | _ => ill

/-- Majors 0x25 to 0x27 (R289, R290, R326). -/
def decWorldClaim (major w : Nat) : Dec :=
  let h := BitVec.ofNat 10 (bits w 29 20); let b := regAt w 15; let a := regAt w 11; let d := regAt w 7; let m0 := !bit w 19
  match major with
  | 0x25 =>
    let z := bits w 26 19 == 0; let wt := bit w 27
    match bits w 31 28 with
    | 0 => need z (ok4 (if wt then .wstW b a d else .wst b a d))
    | 1 => need (z && !wt && d == 0) (ok4 (.wfloor b a))
    | 2 => need (z && !wt && b == 0 && d.val != 15) (ok4 (.wprobe a d))
    | 3 => need (z && !wt && d == 0) (ok4 (.wcancel b a))
    | 4 => need (z && !wt && b == 0) (ok4 (.wreg a d))
    | 5 => need (z && !wt && b == 0) (ok4 (.wregFree a d))
    | _ => ill
  | 0x26 => if bits w 31 30 = 0 then need m0 (ok4 (.wld h b a d)) else ill
  | _ =>
    match bits w 31 30 with
    | 0 => need m0 (ok4 (.clmSt h b a d))
    | 1 =>
      let z := bits w 26 15 == 0
      match bits w 29 27 with
      | 0 => need (z && d == 0) (ok4 (.clmObj a))
      | 1 => need (z && d.val != 15) (ok4 (.clmLd a d))
      | 2 => need z (ok4 (.clmRes a d))
      | 3 => need z (ok4 (.clmGrp a d))
      | _ => ill
    | _ => ill

/-- Major 0x28 (R361). -/
def decMajor28 (w : Nat) : Dec :=
  let a := regAt w 11; let d := regAt w 7; let m0 := !bit w 19
  match bits w 18 15 with
  | 0 => need (m0 && a == 0 && d == 0) (ok4 (.svc (BitVec.ofNat 12 (bits w 31 20))))
  | 1 => need (m0 && bits w 31 28 == 0 && a == 0 && d == 0) (ok4 (.brk (BitVec.ofNat 8 (bits w 27 20))))
  | 2 => needSvc (m0 && bits w 31 20 == 0) (ok4 (.sret a d))
  | 3 => needSvc (m0 && bits w 30 27 == 0)
      (if bits w 26 20 > 87 then rsvSvc
       else ok4 (if bit w 31 then .rrecW (BitVec.ofNat 7 (bits w 26 20)) a d else .rrec (BitVec.ofNat 7 (bits w 26 20)) a d))
  | 4 => needSvc (m0 && bits w 31 21 == 0 && (bit w 20 || d == 0)) (ok4 (if bit w 20 then .tlbiVa a d else .tlbi a))
  | 5 => needSvc (m0 && bits w 31 20 == 0) (ok4 (.mbox a d))
  | _ => ill

/-- A 32-bit instruction word, with the word that follows it if there is one (R65, R87). -/
def decode32 (w : Nat) (mw : Option Nat) : Dec :=
  let major := bits w 6 1
  match major with
  | 0x00 => decMajor00 w
  | 0x01 => decMajor01 w
  | 0x02 => decMajor02 w
  | 0x03 => decImm 3 w
  | 0x04 => decImm 4 w
  | 0x05 => decImm 5 w
  | 0x06 => decImm 6 w
  | 0x07 => decImm 7 w
  | 0x08 =>
    match Cond.of (bits w 10 7) with
    | some c => ok4 (.bc c (BitVec.ofNat 21 (bits w 31 11)))
    | none => rsv
  | 0x09 => ok4 (.call (BitVec.ofNat 25 (bits w 31 7)))
  | 0x0A => decMajor0A w
  | 0x0B => decMajor0B w
  | 0x0C => decLdSt false w
  | 0x0D => decLdSt true w
  | 0x0E => decMajor0E w
  | 0x0F => decMajor0F w
  | 0x10 => decMajor10 w mw
  | 0x11 => decMajor11 w
  | 0x12 => decMajor12 w mw
  | 0x13 => decMajor13 w mw
  | 0x14 => decMajor14 w mw
  | 0x18 => decGlobal false w
  | 0x19 => decGlobal true w
  | 0x1A => decMajor1A w
  | 0x1B => decMajor1B w
  | 0x1C => decMsg 0x1C w
  | 0x1D => decMsg 0x1D w
  | 0x1E => decMsg 0x1E w
  | 0x1F => decMsg 0x1F w
  | 0x20 => decMx 0x20 w mw
  | 0x21 => decMx 0x21 w mw
  | 0x22 => decMx 0x22 w mw
  | 0x23 => decMx 0x23 w mw
  | 0x24 => decMajor24 w
  | 0x25 => decWorldClaim 0x25 w
  | 0x26 => decWorldClaim 0x26 w
  | 0x27 => decWorldClaim 0x27 w
  | 0x28 => decMajor28 w
  | _ => ill

/-- A compact instruction of 2 bytes. -/
def ok2 (i : Instr) : Dec := .ok i 2

/-- A halfword with bit 0 clear (R67, R68, R78, R82). -/
def decode16 (w : Nat) : Dec :=
  let d := regAt w 6; let a := regAt w 10; let s0 := bits w 15 14 == 0
  let i6 := BitVec.ofNat 6 (bits w 15 10); let u6 := sixAt w 10; let p := bit w 14; let p0 := !bit w 15
  match bits w 5 1 with
  | 0 => need s0 (ok2 (.brkCompact (BitVec.ofNat 8 (bits w 13 6))))
  | 1 => need s0 (ok2 (.movCompact a d))
  | 2 => need s0 (ok2 (.addCompact a d))
  | 3 => need s0 (ok2 (.subCompact a d))
  | 4 => need s0 (ok2 (.andCompact a d))
  | 5 => need s0 (ok2 (.orCompact a d))
  | 6 => need s0 (ok2 (.xorCompact a d))
  | 7 => ok2 (.addiCompact i6 d)
  | 8 => ok2 (.liCompact i6 d)
  | 9 => ok2 (.shliCompact u6 d)
  | 10 => ok2 (.shriCompact u6 d)
  | 11 => ok2 (.sraiCompact u6 d)
  | 12 => need s0 (ok2 (.cmpCompact a d))
  | 13 => ok2 (.cmpiCompact i6 d)
  | 14 => need p0 (ok2 (.ldN64Compact p a d))
  | 15 => need p0 (ok2 (.stN64Compact p a d))
  | 16 => need p0 (ok2 (.ldN32Compact p a d))
  | 17 => need p0 (ok2 (.stN32Compact p a d))
  | 18 => ok2 (.cbzCompact i6 d)
  | 19 => ok2 (.cbnzCompact i6 d)
  | 20 => ok2 (.bCompact (BitVec.ofNat 10 (bits w 15 6)))
  | 21 => need (p0 && d == 0 && (p || a == 0)) (ok2 (if p then .jrCompact a else .retCompact))
  | 22 => need (p0 && d == 0 && a == 0) (ok2 (if p then .yieldCompact else .haltCompact))
  | 23 => need (s0 && d == 0 && a == 0) (ok2 .nopCompact)
  | 24 => need s0 (ok2 (.tstCompact a d))
  | 25 => need s0 (ok2 (.andnCompact a d))
  | 26 =>
    match Ty.ofFmt (bits w 9 6), Ty.ofFmt (bits w 13 10), ScaleSrc.of (bits w 15 14) with
    | some f, some g, some c => need (fmtLegal f g c) (ok2 (.fmt f g c))
    | _, _, _ => rsv
  | 27 => need (!bit w 13 && bits w 15 14 != 3)
      (ok2 (.rpt (regAt w 6) (oct w 10) (Fin.ofNat 3 (bits w 15 14))))
  | _ => ill

/-- The number that n little-endian bytes hold (R4). -/
def leNat : List Byte → Nat
  | [] => 0
  | b :: bs => b.toNat + 256 * leNat bs

/-- Decodes the instruction at the head of a list of bytes (R64). -/
def decode (bs : List Byte) : Dec :=
  match bs with
  | b0 :: b1 :: rest =>
    if b0.toNat % 2 = 0 then decode16 (b0.toNat + 256 * b1.toNat)
    else
      match rest with
      | b2 :: b3 :: more =>
        decode32 (leNat [b0, b1, b2, b3])
          (match more with
           | c0 :: c1 :: c2 :: c3 :: _ => some (leNat [c0, c1, c2, c3])
           | _ => none)
      | _ => .short
  | _ => .short

/-- The low n bytes of a number, little-endian. -/
def leBytes : Nat → Nat → List Byte
  | 0, _ => []
  | n + 1, x => BitVec.ofNat 8 x :: leBytes n (x / 256)

/-- The length that a skipped instruction has: from bit 0, and from M when its major is of form R or V (R83). -/
def skipLen (w : Nat) : Nat :=
  if w % 2 = 0 then 2
  else if bit w 19 && (bits w 6 1 ∈ [0x00, 0x01, 0x02, 0x0B, 0x0E, 0x0F, 0x10, 0x11, 0x12, 0x13, 0x14, 0x15, 0x16, 0x17,
    0x1A, 0x1B, 0x1C, 0x1D, 0x1E, 0x1F, 0x20, 0x21, 0x22, 0x23, 0x24, 0x25, 0x26, 0x27, 0x28]) then 8
  else 4

/-- The instruction that the decoder reads from bits numbered as the opcode table numbers them. -/
def decodeTableWord (nbits w : Nat) : Option Instr :=
  match decode (leBytes (nbits / 8) w ++ List.replicate (8 - nbits / 8) 0) with
  | .ok i _ => some i
  | _ => none

/-! The encoder: each arm is the encoding table's own layout. -/

/-- The R form (R65). -/
def encR (major fn12 b a d : Nat) : Nat := 1 + 2 * major + 2 ^ 7 * d + 2 ^ 11 * a + 2 ^ 15 * b + 2 ^ 20 * fn12
/-- The I form (R65). -/
def encI (major imm17 a d : Nat) : Nat := 1 + 2 * major + 2 ^ 7 * d + 2 ^ 11 * a + 2 ^ 15 * imm17
/-- The modifier word (R70). -/
def encMod (m : Modifier) : Nat :=
  2 ^ 28 * 10 + 2 ^ 27 * boolNat m.sat + 2 ^ 25 * m.clamp.val + 2 ^ 24 * boolNat m.nega + 2 ^ 23 * boolNat m.negb
    + 2 ^ 22 * boolNat m.absa + 2 ^ 21 * boolNat m.absb + 2 ^ 20 * boolNat m.negr + 2 ^ 14 * m.scale.toNat + 2 ^ 11 * m.rmo.val
/-- The V form with M clear (R65, R76). -/
def encV (major fn wc t q k b a d : Nat) : Nat :=
  1 + 2 * major + 2 ^ 7 * d + 2 ^ 10 * a + 2 ^ 13 * b + 2 ^ 16 * k + 2 ^ 18 * q + 2 ^ 20 * t + 2 ^ 24 * fn + 2 ^ 30 * wc
/-- The V form with a vb operand (R76). -/
def encVB (major fn t k : Nat) (b : VSrc) (a d : Nat) : Nat :=
  match b with
  | .reg b => encV major fn 0 t 0 k b a d
  | .ring q wc => encV major fn wc t 1 k q a d
/-- A compact halfword (R67). -/
def encC (cop sub2 a d : Nat) : Nat := 2 * cop + 2 ^ 6 * d + 2 ^ 10 * a + 2 ^ 14 * sub2

/-- The bytes of a 32-bit word, and of its modifier word when it has one: M is bit 19. -/
def encM (w : Nat) (m : Option Modifier) : List Byte :=
  match m with
  | none => leBytes 4 w
  | some x => leBytes 4 (w + 2 ^ 19) ++ leBytes 4 (encMod x)
/-- The bytes of a 32-bit word. -/
def enc4 (w : Nat) : List Byte := leBytes 4 w
/-- The bytes of a halfword. -/
def enc2 (w : Nat) : List Byte := leBytes 2 w
/-- fn12 of major 0x1A (R202). -/
def encAtom (fn : Nat) (o : AOp) (w u l : Bool) : Nat :=
  4 * boolNat l + 8 * boolNat u + 16 * boolNat w + 32 * o.code + 256 * fn

/-- The bytes of an instruction; an event has none. -/
def encode : Instr → List Byte
  | .add d a b => enc4 (encR 0 0x000 b a d)
  | .sub d a b => enc4 (encR 0 0x001 b a d)
  | .and d a b => enc4 (encR 0 0x002 b a d)
  | .or d a b => enc4 (encR 0 0x003 b a d)
  | .xor d a b => enc4 (encR 0 0x004 b a d)
  | .andn d a b => enc4 (encR 0 0x005 b a d)
  | .shl d a b => enc4 (encR 0 0x006 b a d)
  | .shr d a b => enc4 (encR 0 0x007 b a d)
  | .sra d a b => enc4 (encR 0 0x008 b a d)
  | .rotl d a b => enc4 (encR 0 0x009 b a d)
  | .minI64 d a b => enc4 (encR 0 0x00A b a d)
  | .maxI64 d a b => enc4 (encR 0 0x00B b a d)
  | .minN64 d a b => enc4 (encR 0 0x00C b a d)
  | .maxN64 d a b => enc4 (encR 0 0x00D b a d)
  | .mov d a => enc4 (encR 0 0x00E 0 a d)
  | .cmp a b => enc4 (encR 0 0x00F b a 0)
  | .tst a b => enc4 (encR 0 0x010 b a 0)
  | .mul d a b => enc4 (encR 1 0 b a d)
  | .mulhI64 d a b => enc4 (encR 1 1 b a d)
  | .mulhN64 d a b => enc4 (encR 1 2 b a d)
  | .divI64 d a b => enc4 (encR 1 3 b a d)
  | .divN64 d a b => enc4 (encR 1 4 b a d)
  | .remI64 d a b => enc4 (encR 1 5 b a d)
  | .remN64 d a b => enc4 (encR 1 6 b a d)
  | .clz d a => enc4 (encR 2 0 0 a d)
  | .ctz d a => enc4 (encR 2 1 0 a d)
  | .pop d a => enc4 (encR 2 2 0 a d)
  | .bext d a b => enc4 (encR 2 3 b a d)
  | .bexts d a b => enc4 (encR 2 4 b a d)
  | .bins d a b => enc4 (encR 2 5 b a d)
  | .sel c d a b => enc4 (encR 2 (0x010 + c.code) b a d)
  | .addi d a i => enc4 (encI 3 i.toNat a d)
  | .li d i => enc4 (encI 4 i.toNat 0 d)
  | .lhi d i h => enc4 (encI 5 i.toNat h d)
  | .cmpi d i => enc4 (encI 6 i.toNat 0 d)
  | .shli d a n => enc4 (encI 7 n a d)
  | .shri d a n => enc4 (encI 7 (n + 64) a d)
  | .srai d a n => enc4 (encI 7 (n + 128) a d)
  | .rotli d a n => enc4 (encI 7 (n + 192) a d)
  | .bc c o => enc4 (1 + 2 * 0x08 + 2 ^ 7 * c.code + 2 ^ 11 * o.toNat)
  | .call o => enc4 (1 + 2 * 0x09 + 2 ^ 7 * o.toNat)
  | .cbz d o => enc4 (encI 0x0A o.toNat 0 d)
  | .cbnz d o => enc4 (encI 0x0A o.toNat 1 d)
  | .jr d => enc4 (encI 0x0A 0 2 d)
  | .nop => enc4 (encI 0x0A 0 3 0)
  | .halt => enc4 (encI 0x0A 0 4 0)
  | .haltR d => enc4 (encI 0x0A 0 5 d)
  | .go d => enc4 (encI 0x0A 0 6 d)
  | .yield => enc4 (encI 0x0A 0 7 0)
  | .sleepQ q n => enc4 (encI 0x0A n.toNat 8 q)
  | .sleepJob d => enc4 (encI 0x0A 0 9 d)
  | .sleepGe d t => enc4 (encI 0x0A t 10 d)
  | .sleepGeG d t => enc4 (encI 0x0A (t + 16) 10 d)
  | .rsr d n => enc4 (encR 0x0B n.toNat 0 0 d)
  | .wsr n a => enc4 (encR 0x0B n.toNat 1 a 0)
  | .cpgo d => enc4 (encR 0x0B 0x017 0 0 d)
  | .ld k p o a d => enc4 (encI 0x0C (o.toNat + 2 ^ 13 * boolNat p + 2 ^ 14 * k.code) a d)
  | .st k p o a d => enc4 (encI 0x0D (o.toNat + 2 ^ 13 * boolNat p + 2 ^ 14 * k.code) a d)
  | .lbit x p sg w d => enc4 (encR 0x0E (2 * w + 2 ^ 7 * boolNat sg + 2 ^ 8 * boolNat p + 2 ^ 9 * boolNat x) 0 0 d)
  | .sbit x p w d => enc4 (encR 0x0E (2 * w + 2 ^ 8 * boolNat p + 2 ^ 9 * boolNat x + 2 ^ 10) 0 0 d)
  | .baSet x a b => enc4 (encR 0x0E (2 ^ 9 * boolNat x + 2 ^ 11) b a 0)
  | .qSet q a => enc4 (encR 0x0F 0 0 a q)
  | .qAdvP q a => enc4 (encR 0x0F 1 0 a q)
  | .qAdvC q a => enc4 (encR 0x0F 2 0 a q)
  | .qLd d q n => enc4 (encR 0x0F 3 n q d)
  | .qSt q a => enc4 (encR 0x0F 4 0 a q)
  | .qStV q v => enc4 (encR 0x0F 5 v 0 q)
  | .qGet d q => enc4 (encR 0x0F 6 0 q d)
  | .vadd t k b a d m => encM (encVB 0x10 0x00 t.laneCode k b a d) m
  | .vsub t k b a d m => encM (encVB 0x10 0x01 t.laneCode k b a d) m
  | .vmul t k b a d m => encM (encVB 0x10 0x02 t.laneCode k b a d) m
  | .vfma t k b a d m => encM (encVB 0x10 0x03 t.laneCode k b a d) m
  | .vdiv t k b a d m => encM (encVB 0x10 0x04 t.laneCode k b a d) m
  | .vsqrt t k a d m => encM (encV 0x10 0x05 0 t.laneCode 0 k 0 a d) m
  | .vrcp t k a d m => encM (encV 0x10 0x06 0 t.laneCode 0 k 0 a d) m
  | .vrsq t k a d m => encM (encV 0x10 0x07 0 t.laneCode 0 k 0 a d) m
  | .vmin t k b a d m => encM (encVB 0x10 0x08 t.laneCode k b a d) m
  | .vmax t k b a d m => encM (encVB 0x10 0x09 t.laneCode k b a d) m
  | .vcmp p t k b a c => enc4 (encVB 0x11 p.code t.laneCode k b a c)
  | .vsel t k b a d => enc4 (encVB 0x11 0x08 t.laneCode k b a d)
  | .vand t k b a d => enc4 (encVB 0x11 0x10 t.laneCode k b a d)
  | .vor t k b a d => enc4 (encVB 0x11 0x11 t.laneCode k b a d)
  | .vxor t k b a d => enc4 (encVB 0x11 0x12 t.laneCode k b a d)
  | .vshl t k b a d => enc4 (encVB 0x11 0x18 t.laneCode k b a d)
  | .vshr t k b a d => enc4 (encVB 0x11 0x19 t.laneCode k b a d)
  | .vred o t k a d m => encM (encV 0x12 o.code 0 t.laneCode 0 k 0 a d) m
  | .vperm t k b a d => enc4 (encV 0x12 0x08 0 t.laneCode 0 k b a d)
  | .vbcast t k a d => enc4 (encV 0x12 0x09 0 t.laneCode 0 k 0 a d)
  | .vcvt s t k p a d m => encM (encV 0x12 (0x20 + s.laneCode) 0 t.laneCode 0 k p a d) m
  | .vsumQ t k q d m => encM (encV 0x13 0 0 t.laneCode 1 k q 0 d) m
  | .vld t k a d m => encM (encV 0x14 0 0 t.laneCode 0 k 0 a d) m
  | .vst t k y a d m => encM (encV 0x14 1 0 t.laneCode 0 k y a d) m
  | .vlds t k n a d m => encM (encV 0x14 2 0 t.laneCode 0 k n a d) m
  | .vsts t k n a d m => encM (encV 0x14 3 0 t.laneCode 0 k n a d) m
  | .vgat t k b a d m => encM (encV 0x14 4 0 t.laneCode 0 k b a d) m
  | .vsct t k b a d m => encM (encV 0x14 5 0 t.laneCode 0 k b a d) m
  | .vlbit t k x d m => encM (encV 0x14 6 0 t.laneCode 0 k 0 (boolNat x) d) m
  | .gld k o a d => enc4 (encI 0x18 (o.toNat + 2 ^ 12 * k.code) a d)
  | .gldAcq k sc o a d => enc4 (encI 0x18 (o.toNat + 2 ^ 9 * sc.code + 2 ^ 12 * k.code + 2 ^ 15) a d)
  | .gvld t k o a d => enc4 (encI 0x18 (o.toNat + 2 ^ 9 * k + 2 ^ 11 * t.laneCode + 2 ^ 16) a d)
  | .gvgat t k b a d => enc4 (encI 0x18 (2 ^ 6 * b + 2 ^ 9 * k + 2 ^ 11 * t.laneCode + 2 ^ 15 * 3) a d)
  | .gst k o a d => enc4 (encI 0x19 (o.toNat + 2 ^ 12 * k.code) a d)
  | .gstRel k sc o a d => enc4 (encI 0x19 (o.toNat + 2 ^ 9 * sc.code + 2 ^ 12 * k.code + 2 ^ 15) a d)
  | .gvst t k o a d => enc4 (encI 0x19 (o.toNat + 2 ^ 9 * k + 2 ^ 11 * t.laneCode + 2 ^ 16) a d)
  | .gvsct t k b a d => enc4 (encI 0x19 (2 ^ 6 * b + 2 ^ 9 * k + 2 ^ 11 * t.laneCode + 2 ^ 15 * 3) a d)
  | .atom o w u l b a d => enc4 (encR 0x1A (encAtom 0 o w u l) b a d)
  | .red o w u l b a => enc4 (encR 0x1A (encAtom 1 o w u l) b a 0)
  | .cas w l b a d => enc4 (encR 0x1A (encAtom 2 .cas w false l) b a d)
  | .fence k sc => enc4 (encR 0x1B (8 * sc.code + 64 * k.code) 0 0 0)
  | .afence => enc4 (encR 0x1B 0x100 0 0 0)
  | .send h a d => enc4 (encR 0x1C h.toNat 0 a d)
  | .sendQ q n a d => enc4 (encR 0x1C (2 ^ 5 * n + 2 ^ 7 * q + 2 ^ 10) 0 a d)
  | .sendMc h a d => enc4 (encR 0x1D h.toNat 0 a d)
  | .sendMcSt b a d => enc4 (encR 0x1D (2 ^ 10) b a d)
  | .spawn a => enc4 (encR 0x1D (2 ^ 11) 0 a 0)
  | .cpwait a d => enc4 (encR 0x1E 0 0 a d)
  | .collRed b a => enc4 (encR 0x1F 0 b a 0)
  | .collRes h b a d => enc4 (encR 0x1F (h.toNat + 2 ^ 10) b a d)
  | .sendh n a => enc4 (encR 0x1F (n + 2 ^ 11) 0 a 0)
  | .mxJob m => enc4 (encR 0x20 (2 ^ 4 * m.toNat) 0 0 0)
  | .mxGo a d => enc4 (encR 0x20 (2 ^ 8 * 1) 0 a d)
  | .mxWait a d => enc4 (encR 0x20 (2 ^ 8 * 2) 0 a d)
  | .mxPoll a d => enc4 (encR 0x20 (2 ^ 8 * 3) 0 a d)
  | .mxTst b a => enc4 (encR 0x20 (2 ^ 8 * 4) b a 0)
  | .mxRel m => enc4 (encR 0x20 (2 ^ 4 * m.toNat + 2 ^ 8 * 5) 0 0 0)
  | .mxLda x b a => enc4 (encR 0x21 (2 ^ 9 * boolNat x) b a 0)
  | .mxLdb x b a => enc4 (encR 0x21 (2 ^ 9 * boolNat x + 2 ^ 10) b a 0)
  | .mxLdm b a => enc4 (encR 0x21 (2 ^ 11) b a 0)
  | .mxZero c => enc4 (encR 0x22 (2 ^ 8 * c) 0 0 0)
  | .mxMma c => enc4 (encR 0x22 (2 ^ 8 * c + 2 ^ 10) 0 0 0)
  | .mxMmas c => enc4 (encR 0x22 (2 ^ 8 * c + 2 ^ 11) 0 0 0)
  | .mxMrot c b => enc4 (encR 0x22 (2 ^ 8 * c + 2 ^ 10 * 3) b 0 0)
  | .mxSt c x b a d m => encM (encR 0x23 (2 ^ 7 * boolNat x + 2 ^ 8 * c) b a d) m
  | .mxAmax c a => enc4 (encR 0x23 (2 ^ 8 * c + 2 ^ 10) 0 a 0)
  | .mxQnt c b a m => encM (encR 0x23 (2 ^ 8 * c + 2 ^ 11) b a 0) m
  | .perform e a d => enc4 (encR 0x24 e.toNat 0 a d)
  | .vperform e k d => enc4 (encR 0x24 e.toNat 1 k d)
  | .hpop e => enc4 (encR 0x24 e.toNat 2 0 0)
  | .resume a b => enc4 (encR 0x24 0 3 a b)
  | .resumev t a b => enc4 (encR 0x24 t.laneCode 4 a b)
  | .abort a => enc4 (encR 0x24 0 5 a 0)
  | .tokq a d => enc4 (encR 0x24 0 6 a d)
  | .hndOnce e h => enc4 (encR 0x24 e.toNat 12 (h.toNat % 16) (h.toNat / 16))
  | .hndMany e h => enc4 (encR 0x24 e.toNat 13 (h.toNat % 16) (h.toNat / 16))
  | .hndNone e h => enc4 (encR 0x24 e.toNat 14 (h.toNat % 16) (h.toNat / 16))
  | .wst b a d => enc4 (encR 0x25 0 b a d)
  | .wstW b a d => enc4 (encR 0x25 (2 ^ 7) b a d)
  | .wfloor b a => enc4 (encR 0x25 (2 ^ 8 * 1) b a 0)
  | .wprobe a d => enc4 (encR 0x25 (2 ^ 8 * 2) 0 a d)
  | .wcancel b a => enc4 (encR 0x25 (2 ^ 8 * 3) b a 0)
  | .wreg a d => enc4 (encR 0x25 (2 ^ 8 * 4) 0 a d)
  | .wregFree a d => enc4 (encR 0x25 (2 ^ 8 * 5) 0 a d)
  | .wld h b a d => enc4 (encR 0x26 h.toNat b a d)
  | .clmSt h b a d => enc4 (encR 0x27 h.toNat b a d)
  | .clmObj a => enc4 (encR 0x27 (2 ^ 10) 0 a 0)
  | .clmLd a d => enc4 (encR 0x27 (2 ^ 10 + 2 ^ 7 * 1) 0 a d)
  | .clmRes a d => enc4 (encR 0x27 (2 ^ 10 + 2 ^ 7 * 2) 0 a d)
  | .clmGrp a d => enc4 (encR 0x27 (2 ^ 10 + 2 ^ 7 * 3) 0 a d)
  | .svc n => enc4 (encR 0x28 n.toNat 0 0 0)
  | .brk n => enc4 (encR 0x28 n.toNat 1 0 0)
  | .sret a h => enc4 (encR 0x28 0 2 a h)
  | .rrec n h d => enc4 (encR 0x28 n.toNat 3 h d)
  | .rrecW n h d => enc4 (encR 0x28 (n.toNat + 2 ^ 11) 3 h d)
  | .tlbi a => enc4 (encR 0x28 0 4 a 0)
  | .tlbiVa a v => enc4 (encR 0x28 1 4 a v)
  | .mbox a d => enc4 (encR 0x28 0 5 a d)
  | .brkCompact n => enc2 (2 ^ 6 * n.toNat)
  | .movCompact a d => enc2 (encC 1 0 a d)
  | .addCompact a d => enc2 (encC 2 0 a d)
  | .subCompact a d => enc2 (encC 3 0 a d)
  | .andCompact a d => enc2 (encC 4 0 a d)
  | .orCompact a d => enc2 (encC 5 0 a d)
  | .xorCompact a d => enc2 (encC 6 0 a d)
  | .addiCompact i d => enc2 (encC 7 0 i.toNat d)
  | .liCompact i d => enc2 (encC 8 0 i.toNat d)
  | .shliCompact u d => enc2 (encC 9 0 u d)
  | .shriCompact u d => enc2 (encC 10 0 u d)
  | .sraiCompact u d => enc2 (encC 11 0 u d)
  | .cmpCompact a d => enc2 (encC 12 0 a d)
  | .cmpiCompact i d => enc2 (encC 13 0 i.toNat d)
  | .ldN64Compact p a d => enc2 (encC 14 (boolNat p) a d)
  | .stN64Compact p a d => enc2 (encC 15 (boolNat p) a d)
  | .ldN32Compact p a d => enc2 (encC 16 (boolNat p) a d)
  | .stN32Compact p a d => enc2 (encC 17 (boolNat p) a d)
  | .cbzCompact o d => enc2 (encC 18 0 o.toNat d)
  | .cbnzCompact o d => enc2 (encC 19 0 o.toNat d)
  | .bCompact o => enc2 (2 * 20 + 2 ^ 6 * o.toNat)
  | .retCompact => enc2 (encC 21 0 0 0)
  | .jrCompact a => enc2 (encC 21 1 a 0)
  | .haltCompact => enc2 (encC 22 0 0 0)
  | .yieldCompact => enc2 (encC 22 1 0 0)
  | .nopCompact => enc2 (encC 23 0 0 0)
  | .tstCompact a d => enc2 (encC 24 0 a d)
  | .andnCompact a d => enc2 (encC 25 0 a d)
  | .fmt s t c => enc2 (encC 26 c.code t.fmtCode s.fmtCode)
  | .rpt n f st => enc2 (encC 27 st f n)
  | _ => []

/-- The instruction has an encoding; the others are the table's events. -/
def Instr.encoded (i : Instr) : Bool := !(encode i).isEmpty

end Sys2Proof
end

