-- ==== Sys2Proof/Machine/State.lean ====
section
/-! DEFINITION. The state of the machine as plain data: cores, tiles, clusters, plots and the device, with everything in flight
between them (R12 to R57, R171, and the registers of every chapter); the reasons a step can stop; and the state after reset. -/
namespace Sys2Proof.Machine

/-- Why a run can stop with a fault. -/
inductive Fault where
  /-- Raised by `step` and by every instruction when `cur` names no core of the device: no such agent exists (R15). Safe: the
  hardware has no such agent, so nothing is claimed of it. -/
  | noAgent
  deriving DecidableEq, Repr

/-- Why an instruction has no meaning here. -/
inductive Refusal where
  /-- Raised by an arm of `exec` whose instruction has no meaning yet. Safe: nothing is claimed of it. -/
  | notModelled (mnemonic : String)
  deriving DecidableEq, Repr

/-- Bytes by address: addresses strictly rising, no entry zero; an unlisted address reads zero (R373). -/
abbrev Memory := List Host.Cell

/-- The last address listed before; -1 stands for none. -/
def Memory.wfFrom : Int → Memory → Bool
  | _, [] => true
  | lo, (a, b) :: m => decide (lo < a) && b != 0 && Memory.wfFrom a m
/-- The canonical form of a memory. -/
def Memory.wf (m : Memory) : Bool := Memory.wfFrom (-1) m

/-- Where a plot virtual address leads (R167, R169): plot-physical device memory, the host, or a fabric peer. -/
inductive Loc where
  | dev (a : Nat)
  | host (a : Nat)
  | peer (d a : Nat)
  deriving DecidableEq, Repr

/-- One byte of a global store: its virtual address, its place, its value and the bits it writes (R201). -/
structure WByte where
  va : Nat
  loc : Loc
  val : Byte
  mask : Byte := 0xFF
  deriving DecidableEq, Repr

/-- The vector and mask registers of a record (R19). -/
structure VecRegs where
  v : Vector (BitVec 512) 8
  k : Vector Word 4
  deriving DecidableEq, Repr

/-- A runner record (R19); `vec` is present in the extended form. -/
structure Rec where
  g : Vector Word 16
  pc : Word
  st : Word
  wid : Word
  htop : Word
  vec : Option VecRegs
  deriving DecidableEq, Repr

/-- Who issued an operation: core, launch, MSGSEQ before the advance, place in the core's issue order, WID (R30, R194). -/
structure Tag where
  cid : CoreId
  lid : Lid
  seq : BitVec 32
  ord : Nat
  wid : Word
  deriving DecidableEq, Repr

/-- How a resumed stint takes its value (R279), or what a parked runner waits to receive (R133, R242). -/
inductive ResumeHow where
  | parked
  | mxStatus (d : Reg) (id : BitVec 16)
  | scalar (v : Word)
  | vector (v : BitVec 512) (t : Ty)
  deriving DecidableEq, Repr

/-- A system effect that a TSE or CLU message marks (R272): its code and the argument g1, the destination offset. -/
structure MarkedEffect where
  code : Cause
  arg : Word
  /-- the outcome word, for the report of a code without a frame (R368) -/
  info : Word
  deriving DecidableEq, Repr

/-- What a message starts (R21). -/
inductive MsgBody where
  | task (pc wid a0 a1 a2 a3 : Word)
  | runner (r : Rec)
  | data (pc g0 g1 a0 a1 a2 a3 htop wid : Word) (eff : Option MarkedEffect)
  | resume (slot : Nat) (gen : BitVec 16) (kind : BitVec 2) (how : ResumeHow)
  | engine (pc status a0 a1 a2 a3 : Word) (job : Bool) (id : BitVec 16) (wid : Word)
  | notice (pc ticket value t0 deadline gw idx wid : Word)
  deriving DecidableEq, Repr

/-- A message (R21, R30, R40): `src` is [13:0] of its identifier, `seq` [47:16]; `tag` is the causing instruction's. -/
structure Msg where
  src : CoreId
  seq : BitVec 32
  lid : Lid
  cls : BitVec 2
  tag : Tag
  body : MsgBody
  /-- the scope of the acquire that the started stint performs (R181), none for a message without one -/
  acq : Option Scope
  /-- the core cycle of its enqueue, counted on the core that holds it, and its place among the enqueues (R44) -/
  enq : Int := 0
  enqNo : Nat := 0
  /-- the LM writes that an answer makes just before it enters the run queue (R228, R300, R335) -/
  pay : List (Nat × List Byte) := []
  /-- for a runner that an implicit migration sends: the words I and M that its access draws with (R103) -/
  draw : Option (Nat × Word) := none
  deriving DecidableEq, Repr

/-- The acts of a message context on its core (R182, R209, R279 to R281). -/
inductive RemAct where
  | load (size : Nat)
  | store (bs : List Byte)
  | atom (o : AOp) (wide u : Bool) (b cmp : Word)
  | ring (q : QReg) (ws : List Word)
  | claim (slot : Nat) (gen : BitVec 16) (kind : BitVec 2) (vec : Option Ty)
  | kill (slot : Nat) (gen : BitVec 16) (kind : BitVec 2)
  | query (slot : Nat) (gen : BitVec 16) (kind : BitVec 2)
  deriving DecidableEq, Repr

/-- A remote LM operation (R171): `returns` when its stint waits for a value. -/
structure RemOp where
  tag : Tag
  dst : CoreId
  off : Nat
  act : RemAct
  returns : Bool
  /-- 0 for one core, 1 for a plain multicast copy, 2 and up for the place in the order of the multicast root (R190, R211) -/
  mode : Nat := 0
  tries : Nat := 0
  /-- plane time of the next try after receiver-not-ready (R355) -/
  nextTry : Nat := 0
  deriving DecidableEq, Repr

/-- A parameter block (R215). -/
structure Block where
  pc : Word
  a0 : Word
  a1 : Word
  a2 : Word
  a3 : Word
  bar : Word
  inc : BitVec 32
  deriving DecidableEq, Repr

/-- A copy from its CPGO read to its completion (R216 to R221). -/
structure CopyJob where
  tag : Tag
  id : BitVec 16
  src : Word
  dst : Word
  len : Nat
  strs : Word
  strd : Word
  cnt : Nat
  blk : Option Block
  cls : BitVec 2
  /-- the cluster of its CPY, or none for an ETE of the die (R217) -/
  cpy : Option Nat
  accepted : Bool := false
  done : Nat := 0
  /-- a fault at a global end offered to the service core: cause, address (R219) -/
  fault : Option (Cause × Word) := none
  /-- the fault offered is that of the barrier (R220) -/
  atBar : Bool := false
  status : Option Word := none
  tries : Nat := 0
  nextTry : Nat := 0
  deriving DecidableEq, Repr

/-- Where a matrix operand or a status word lies: LM of a core, global memory, or a ring of the issuing core (R245, R253). -/
inductive MxAddr where
  | lm (c : CoreId) (off : Nat)
  | glob (va : Nat)
  | ring (q : QReg)
  deriving DecidableEq, Repr

/-- The operations of a matrix job with everything read at issue (R233). -/
inductive MxOp where
  | load (b : Bool) (src : MxAddr) (stride rows vals : Nat) (f : Ty) (sc : ScaleSrc) (ba1 : Nat)
  | loadMeta (src : MxAddr) (stride rows n g : Nat)
  | zero (c : Fin 4)
  | mma (c : Fin 4) (pair : Option (Ty × Ty))
  | mmas (c : Fin 4) (pair : Option (Ty × Ty))
  | mrot (c : Fin 4) (pair : Option (Ty × Ty)) (win : Nat)
  | store (c : Fin 4) (dst status : MxAddr) (stride rows cols : Nat) (rel : Bool) (pair : Option (Ty × Ty))
      (m : Modifier) (rm : RMode) (icount : Nat)
  | amax (c : Fin 4) (dst : MxAddr)
  | quant (c : Fin 4) (dst : MxAddr) (stride rows : Nat) (c64 : Bool) (t : Nat) (pair : Option (Ty × Ty)) (sc : ScaleSrc)
      (ba1 : Nat) (m : Modifier) (rm : RMode) (icount : Nat)
  deriving DecidableEq, Repr

/-- A matrix job (R233 to R237). -/
structure MxJob where
  tag : Tag
  id : BitVec 16
  mask : BitVec 4
  ops : List MxOp
  f64 : Bool
  blk : Option Block
  cls : BitVec 2
  /-- the words W and M of the draw of R103, and the launch's seed -/
  seed : Word
  mid : Word
  deriving DecidableEq, Repr

/-- A world load (R295, R296): its limit and its deadline in ns, when they are not the region's. -/
structure WLoad where
  kw : Word
  t : Int
  mode : BitVec 2
  eff : Bool
  dst : Nat
  lim : Option Nat
  dl : Nat
  pc : Word
  a0 : Word
  a1 : Word
  a2 : Word
  a3 : Word
  htop : Word
  cls : BitVec 2
  deriving DecidableEq, Repr

/-- A region of the world store (R283). -/
structure Region where
  rid : Nat
  sw : Nat
  ef : Ty
  depth : Nat
  io : Nat
  xo : Nat
  ng : Nat
  keys : Nat
  lim : Nat
  dl : Nat
  floor0 : Int
  /-- the TSEs that hold it (R285, R310, R311) -/
  at_ : List Nat
  /-- the tile routers hold it -/
  routed : Bool
  deriving DecidableEq, Repr

/-- What travels to a TSE (R289 to R311). -/
inductive TseAct where
  | st (kw : Word) (t : Int) (data : List Byte) (wt : Bool)
  | ld (l : WLoad)
  | cancel (kw id : Word)
  | floor (gw : Word) (t : Int)
  | probe (kw : Word)
  | reg (r : Region)
  | free (rid : Nat)
  /-- the floor that the master sends to each TSE (R307) -/
  | floorAt (rid g : Nat) (t : Int)
  deriving DecidableEq, Repr

/-- An operation in flight to a TSE; `returns` when its stint waits. -/
structure TseOp where
  tag : Tag
  tse : Nat
  act : TseAct
  returns : Bool
  det : Bool := false
  /-- the plot that its launch has been resumed on, when that is another one (R57) -/
  home : Option Nat := none
  deriving DecidableEq, Repr

/-- A claim from its issue to its outcome (R328, R329). -/
structure Claim where
  tag : Tag
  ticket : Word
  value : Word
  dst : Nat
  eff : Bool
  pc : Word
  a0 : Word
  a1 : Word
  a2 : Word
  a3 : Word
  htop : Word
  cls : BitVec 2
  t0 : Option Nat := none
  /-- its outcome message is on its way -/
  done : Bool := false
  /-- word 0 of its outcome when its group was dissolved before it reached its CLU -/
  gone : Option Word := none
  deriving DecidableEq, Repr

/-- What an outbound entry asks for (R24). -/
inductive EBody where
  | store (bs : List WByte)
  | atom (o : AOp) (wide u : Bool) (va : Nat) (loc : Loc) (b cmp : Word) (returns : Bool)
  | remote (r : RemOp)
  | msg (dst : CoreId) (m : Msg)
  /-- a multicast of a message, and of a remote store (R211, R212) -/
  | mcast (dsts : List CoreId) (m : Msg) (rooted : Bool)
  | mcastSt (dsts : List CoreId) (r : RemOp) (rooted : Bool)
  | copy (c : CopyJob)
  | mx (j : MxJob)
  | mxRel (mask : BitVec 4)
  | tse (o : TseOp)
  | claim (c : Claim)
  /-- an objection of a member to a claim of a group (R24, R331) -/
  | objection (ticket : Word) (gid m : Nat)
  | hostq (n : Nat) (ws : List Word)
  | spawn (ws : List Word)
  | collRed (h : Word) (v : BitVec 32)
  | collRes (h : Word) (off : Nat) (pc a0 a1 a2 a3 htop : Word) (cls : BitVec 2)
  | fence (sc : Scope)
  deriving DecidableEq, Repr

/-- An entry of OB or CT (R171): a release at a scope when `rel` names one (R178), with the overflow places it holds. -/
structure Entry where
  tag : Tag
  rel : Option Scope := none
  places : Nat := 0
  body : EBody
  deriving DecidableEq, Repr

/-- A reduction of a word of device memory (R184). -/
structure Red where
  o : AOp
  wide : Bool
  u : Bool
  a : Nat
  b : Word
  deriving DecidableEq, Repr

/-- An entry of TOQ, WQ, the host link or the fabric: one 8-byte word's part of a store (R177), or an atomic (R171, R187, R385). -/
inductive HAct where
  | store (bs : List (Nat × Byte × Byte))
  | atom (o : AOp) (wide u : Bool) (a : Nat) (b cmp : Word) (returns : Bool)
  /-- a merged reduction (R184): its operands in arrival order, kept as the merged operand -/
  | red (o : AOp) (wide u : Bool) (a : Nat) (b : Word)
  /-- the reductions of several words of a line in one entry (R184) -/
  | reds (rs : List Red)
  /-- a read of n bytes of a fabric peer (R385) -/
  | read (a n : Nat)
  deriving DecidableEq, Repr

/-- An act on one 64-byte line, or on host or peer bytes; `tags` are the issuers merged in it. -/
structure HEntry where
  tags : List Tag
  line : Nat
  va : Nat
  act : HAct
  rel : Option Scope := none
  /-- the tile that issued it, and for a fabric entry the peer and the tries made -/
  tile : Nat := 0
  peer : Nat := 0
  tries : Nat := 0
  nextTry : Nat := 0
  /-- it is the first part of its access in its line, which counts the line's energy (R47) -/
  counts : Bool := true
  /-- the abort flits that its packet has met, and whether it waits to be repeated (R357) -/
  aborts : Nat := 0
  aborted : Bool := false
  /-- the store that it is a part of covers the whole line (R358): 1, and 2 for the last part of the line -/
  whole : Nat := 0
  /-- its place among all that the device sends on its fabric ports (R385) -/
  fabNo : Nat := 0
  deriving DecidableEq, Repr

/-- A message in transit (R181). -/
structure Flight where
  dst : CoreId
  msg : Msg
  /-- as in a remote operation (R190) -/
  mode : Nat := 0
  /-- a core sends it, so that it is a release over that core's earlier accesses (R181) -/
  byCore : Bool := false
  tries : Nat := 0
  nextTry : Nat := 0
  deriving DecidableEq, Repr

/-- An effect offered to the trellis (R272, R278): its identifier, g1, the resume destination (R267), the PC to report and the
report's fields if no frame is found; `hw` when hardware offers it (R274). -/
structure EffReq where
  id : BitVec 12
  arg : Word
  dv : Bool := false
  dreg : Nat := 0
  vec : Bool := false
  mask : Word := 1
  ltype : Nat := 15
  hw : Bool
  pc : Word
  addr : Word := 0
  info : Word := 0
  deriving DecidableEq, Repr

/-- What a stint in the middle of an instruction waits for: the MODEL's own field (log 6). -/
inductive Wait where
  | none
  /-- a returning operation is outstanding -/
  | reply
  /-- its value has come -/
  | got (ws : List Word)
  /-- it failed: the cause, ADDR and INFO to deliver at the instruction -/
  | failed (c : Cause) (addr info : Word)
  /-- the instruction has committed and drains -/
  | begun
  /-- a search reads a frame of another core: the effect, the frame, the words so far, the frames passed (R266) -/
  | search (r : EffReq) (p : Word) (ws : List Word) (n : Nat)
  /-- a load reads a fabric peer (R385): the bytes that have come, by virtual address; that of the first byte of the word that is
  outstanding; and the bits of that word's bytes that the core's buffers held as it was asked for, each with its mask, in order (R172) -/
  | fetch (got : List (Nat × Byte)) (out : Option Nat) (held : List (Byte × Byte))
  /-- a load of the host is retried after receiver-not-ready (R355, R392): the tries made, and the plane time of the next one -/
  | retry (tries next : Nat)
  /-- `vsum.q` has taken slots: the accumulator (R158) -/
  | accum (acc : BitVec 512)
  /-- the first of the two 8-byte words of a bit field is done (R145): what it gave to a load, 0 for a store -/
  | half (w : Word)
  deriving DecidableEq, Repr

/-- A running stint (R21, R26, R103). -/
structure Stint where
  lid : Lid
  /-- the triggering message, or none for a handler stint -/
  trig : Option Msg
  /-- the token of a handler stint (R269) -/
  token : Word
  commits : Nat
  icount : Nat
  deriving DecidableEq, Repr

/-- The condition of a sleeping runner (R134 to R136, R242). -/
inductive Sleep where
  | ring (q : QReg) (n : Nat)
  | job (mx : Bool) (l : Lid) (id : BitVec 16)
  | lm (off : Nat) (t : BitVec 32)
  | glob (loc : Loc) (t : BitVec 32)
  deriving DecidableEq, Repr

/-- A slab slot (R267): `state` is 0 free, 1 live, 2 claimed, 3 dying; `kind` 3 is parked; `sleep` is its condition while its
runner sleeps, and `how` what the parked runner receives. -/
structure Slot where
  state : BitVec 2 := 0
  kind : BitVec 2 := 0
  gen : BitVec 16 := 0
  rcd : Option Rec := none
  vec : Bool := false
  dreg : Nat := 0
  dv : Bool := false
  ltype : Nat := 15
  lid : Lid := 0
  fgen : BitVec 16 := 0
  mask : Word := 0
  queued : BitVec 16 := 0
  resumes : BitVec 16 := 0
  sleep : Option Sleep := none
  how : ResumeHow := .parked
  /-- MSGSEQ of the parking instruction (R52, R194) -/
  seq : BitVec 32 := 0
  deriving DecidableEq, Repr

/-- A ring descriptor (R146). -/
structure Ring where
  base : Nat := 0
  sz : Nat := 0
  cnt : Nat := 0
  v : Bool := false
  head : BitVec 32 := 0
  tail : BitVec 32 := 0
  deriving DecidableEq, Repr

/-- A core's counts for one launch (R48, R49, R47, R222, R237). -/
structure LCount where
  lid : Lid
  seq : BitVec 32 := 0
  sent : Nat := 0
  recv : Nat := 0
  pj : Nat := 0
  xdone : List (BitVec 16 × Word) := []
  jdone : List (BitVec 16 × Word) := []
  /-- a message of the launch has entered the run queue here (R36) -/
  met : Bool := false
  /-- the loader stub has run here for the launch (R414) -/
  imaged : Bool := false
  deriving DecidableEq, Repr

/-- A report record (R348): kind 0 abort, 1 posted, 2 machine check, 3 log only. -/
structure Report where
  cause : Cause
  kind : BitVec 2
  part : Bool := false
  efx : Bool := false
  ret : Bool := false
  commits : Nat := 0
  cid : CoreId := 0x3FFF
  lid : Lid := 0
  pc : Word := 0
  msgid : Word := 0
  addr : Word := 0
  info : Word := 0
  wid : Word := 0
  time : Word := 0
  pid : Nat := 0
  /-- the words of a report that software wrote (R366), in place of these fields -/
  raw : Option (List Word) := none
  deriving DecidableEq, Repr

/-- Why a core selects no message (R352, R353, R349). -/
inductive Hold where
  | free
  | svrel
  | mbrel
  | service
  deriving DecidableEq, Repr

/-- A core: the registers of its stint context (R58, R62), its LM, queues and slab. A service core has the same registers
(R12), and `lm` is then its own memory. -/
structure Core where
  cid : CoreId
  g : Vector Word 16
  /-- PC: code-object id and code offset (R19) -/
  obj : BitVec 16
  off : BitVec 32
  st : Word
  wid : Word
  htop : Word
  v : Vector (BitVec 512) 8
  k : Vector Word 4
  budget : BitVec 25
  lmret : BitVec 8
  ba0 : BitVec 21
  ba1 : BitVec 21
  cyc : Word
  xfid : BitVec 16
  jobid : BitVec 16
  cpsrc : Word
  cpdst : Word
  cplen : BitVec 24
  cpstrs : Word
  cpstrd : Word
  cpcnt : BitVec 24
  cphdl : Word
  clg : BitVec 8
  q : Vector Ring 8
  lm : Memory
  /-- 8-byte words with an uncorrectable error (R143) -/
  lmErr : List Nat
  /-- banks powered down, each until an access or a stint wakes it (R35) -/
  bankOff : BitVec 8
  stint : Option Stint
  wait : Wait
  ob : List Entry
  ct : List Entry
  mq : List RemOp
  runq : List Msg
  /-- the message that an abort returned to the head (R29) -/
  back : Option Msg
  parked : List Msg
  /-- resumes of the core's own that found its run queue full, and are tried again (R43, R355) -/
  late : List Flight
  slab : List Slot
  frames : BitVec 16
  retain : Option (CoreId × BitVec 8)
  /-- the tile-cache lines that the core may read (R171) -/
  view : List Nat
  /-- the open matrix job: its mask and operations (R233) -/
  job : Option (BitVec 4 × List MxOp)
  xnext : BitVec 16
  jnext : BitVec 16
  /-- outstanding copies and jobs by launch and id (R216, R234) -/
  xout : List (Lid × BitVec 16)
  jout : List (Lid × BitVec 16)
  counts : List LCount
  hold : Hold
  /-- a report waiting for a place in the ring (R352) -/
  report : Option Report
  /-- the identifier of the message that an abort returned last, and how often in a row (R352) -/
  returned : Option (Word × Nat)
  /-- the next place in the issue order -/
  ord : Nat
  /-- the registers whose last result is not yet available, each with the value of CYC from which it is (R163) -/
  ready : List (Nat × Nat)
  /-- the value of CYC in which the message context last accessed LM, and the banks that it addressed (R163) -/
  msgBank : Option (Nat × BitVec 8)
  deriving DecidableEq, Repr

/-- A service request (R349, R360). -/
structure SvRec where
  rcd : Rec
  cause : Cause
  addr : Word
  info : Word
  /-- plane time of the SVQ read that took it (R350), none while it waits in SVQ -/
  taken : Option Nat
  /-- offered to the page-fault queue, and the owner's answer (R376) -/
  offered : Bool := false
  /-- the owner has supplied a valid entry, and the invalidation that comes first is not complete (R351) -/
  answered : Bool := false
  /-- the owner's answer refuses (R376) -/
  refused : Bool := false
  /-- its function has been performed, and the answer waits for what it has sent (R367): the status -/
  begun : Option Cause := none
  deriving DecidableEq, Repr

/-- A tile's service core (R12, R360). -/
structure SvcCore where
  ctx : Core
  svq : List Nat
  slots : List (Option SvRec)
  svver : BitVec 32
  rpbase : BitVec 14
  rplog : BitVec 4
  rphead : BitVec 32
  rptail : BitVec 32
  rplost : BitVec 32
  svlim : BitVec 32
  stopped : Bool
  deriving DecidableEq, Repr

/-- A translation held by a tile router (R168). -/
structure TlbEntry where
  page : Nat
  size : Nat
  base : Nat
  kind : BitVec 2
  r : Bool
  w : Bool
  nc : Bool
  hi : Nat
  deriving DecidableEq, Repr

/-- A latch front or back (R239): the format, the rows of exact values, and for a metadata latch N, G and the indices. -/
structure Latch where
  f : Ty
  rows : List (List Ext)
  deriving DecidableEq, Repr

/-- The metadata latch (R246). -/
structure MetaLatch where
  n : Nat
  groups : Nat
  rows : List (List Nat)
  deriving DecidableEq, Repr

/-- What an accumulator holds: undefined values drawn from a seed, zeros, or 4,096 elements (R236). A pair keeps the f64
elements in its even member. -/
inductive AccData where
  | free (seed : Nat)
  | zero
  | vals (ws : List Word)
  deriving DecidableEq, Repr

/-- An accumulator (R236). -/
structure Acc where
  owner : Option (CoreId × Lid) := none
  data : AccData := .free 0
  nv : Bool := false
  of : Bool := false
  uf : Bool := false
  nx : Bool := false
  faulted : Bool := false
  /-- the type of the last job that wrote it -/
  f64 : Option Bool := none
  deriving DecidableEq, Repr

/-- A command of an MXE's job queue (R234, R242). -/
inductive MxCmd where
  | job (j : MxJob)
  | rel (t : Tag) (mask : BitVec 4)
  deriving DecidableEq, Repr

/-- The running job (R235, R251): the next operation; `pos` how far it has come in it, element by element or slot by slot; the
plane time at which its wait began; whether an `mx.mrot` has multiplied and what it has sent; whether a refused latch of another
window dooms the next `mx.mrot`; the flags and counts of the epilogue so far (R254). -/
structure MxRun where
  job : MxJob
  next : Nat := 0
  pos : Nat := 0
  since : Option Nat := none
  mul : Bool := false
  sentA : Bool := false
  sentB : Bool := false
  doomed : Bool := false
  epi : Flags := {}
  nans : Nat := 0
  sats : Nat := 0
  /-- a failed operation ends the job: CODE, CAUSE, OP -/
  failed : Option (Cause × Cause × Nat) := none
  /-- the barrier's fault offered to the service core, and one that stands (R220) -/
  barFault : Option (Cause × Word) := none
  barDead : Option Cause := none
  deriving DecidableEq, Repr

/-- A matrix engine (R235 to R239). `last` is the core whose job was served last. Before the first one it names no core, and the round
robin starts at the cluster's first core (DESIGN CHOICE, log 93: R235 names no start). -/
structure Mxe where
  queue : List MxCmd := []
  run : Option MxRun := none
  last : CoreId := 0x3FFF
  af : Option Latch := none
  ab : Option Latch := none
  bf : Option Latch := none
  bb : Option Latch := none
  md : Option MetaLatch := none
  acc : List Acc := [{}, {}, {}, {}]
  deriving DecidableEq, Repr

/-- A pending claim at a member CLU (R330). -/
structure Pend where
  ticket : Word
  value : Word
  t0 : Nat
  objs : List (Nat × Nat)
  deriving DecidableEq, Repr

/-- A decided claim at a member CLU (R335, R337). -/
structure Decided where
  ticket : Word
  t0 : Nat
  word0 : Word
  deriving DecidableEq, Repr

/-- What happens to a member of a group (R321, R367). -/
inductive RollKind where
  | join
  | leave
  | remove
  deriving DecidableEq, Repr

/-- A group event as a CLU has heard it (R317): the member, the stamp, what happened. -/
structure Roll where
  idx : Nat
  stamp : Nat
  kind : RollKind
  deriving DecidableEq, Repr

/-- A CLU's replica of one group (R321, R334). -/
structure Replica where
  gid : Nat
  vals : List (Nat × Word × BitVec 32)
  pend : List Pend
  decided : List Decided
  /-- the members marked absent, each with the last stamp, T0 + W - S, that the decision which marked it considered (R333, R334) -/
  marks : List (Nat × Nat) := []
  /-- the stamps heard for each member -/
  heard : List (Nat × Nat)
  /-- objections that have come before the announcement of their claim: ticket, member, stamp (R317, R331) -/
  early : List (Word × Nat × Nat) := []
  /-- the joins, departures and removals that this CLU has heard of, newest first (R321, R322) -/
  roll : List Roll := []
  /-- it holds the values of a live member's CLU, or no such member remained: false while a joining member waits for those of another
  device (R340) -/
  synced : Bool := true
  deriving DecidableEq, Repr

/-- A tile: tile-cache side, TLB, service core and claim unit (R12, R171). -/
structure Tile where
  num : Nat
  toq : List HEntry
  tc : List (Nat × List Byte)
  tlb : List TlbEntry
  svc : SvcCore
  clu : List Replica
  /-- how far this tile's plane time runs ahead of the device's (R318) -/
  skew : Nat
  deriving DecidableEq, Repr

/-- A loaded code object (R195, R146, R414). -/
structure CodeObj where
  id : Nat
  code : List Byte
  handlers : List (BitVec 32)
  rings : List (Nat × Ring)
  image : List Byte
  deriving DecidableEq, Repr

/-- What `cxld` does at a load (R408 to R414): the object; the words of page tables, by plot-physical address; the bytes of `.data`, by
virtual address; the descriptors of `.region`; for every `.group` its id, W, the notice handler, the flags g5, and the words of the launch
template whose items are its members (R413). -/
structure LoadReq where
  obj : CodeObj
  words : List (Nat × Word) := []
  data : List (Nat × List Byte) := []
  regions : List (List Word) := []
  groups : List (Word × Word × Word × Word × List Word) := []
  deriving DecidableEq, Repr

/-- A launch (R37 to R53). -/
structure Launch where
  lid : Lid
  obj : BitVec 16
  entry : BitVec 32
  widths : List Nat
  places : List Nat
  extents : List Nat
  pri : BitVec 2
  det : Bool
  ckind : BitVec 2
  sbud : Nat
  dshape : Nat
  ebud : Nat
  args : List Word
  ctgt : Word
  /-- a completion launch (R39) -/
  compl : Bool := false
  sown : Nat := 0
  phase : Nat := 0
  sent : Nat := 0
  recv : Nat := 0
  /-- the sums of the last sweep when it found the launch quiet (R51) -/
  quiet : Option (Nat × Nat) := none
  ended : Bool := false
  aborted : Nat := 0
  /-- picojoules counted by units other than cores, and the sum of the last sweep (R47) -/
  pj : Nat := 0
  swept : Nat := 0
  demoted : Bool := false
  /-- DET: remote stores, world-store operations, spawns and answers kept for the phase close (R52, R53, R213, R314) -/
  heldOps : List RemOp := []
  heldTse : List TseOp := []
  heldSpawns : List (Tag × List Word) := []
  heldAnswers : List (CoreId × Msg) := []
  deriving DecidableEq, Repr

/-- A furrow's sample (R287), with the issuers whose push an answer acquires (R300). -/
structure Sample where
  t : Int
  data : List Byte
  deriving DecidableEq, Repr

/-- A furrow with its samples, oldest first. -/
structure Furrow where
  kw : Word
  samples : List Sample
  deriving DecidableEq, Repr

/-- A waiting load or store of a TSE (R298), in arrival order. -/
structure Waiter where
  op : TseOp
  arrived : Nat
  deadline : Option Nat
  deriving DecidableEq, Repr

/-- The floors of a region at one TSE; number 16 is the master's own copy (R287, R307). -/
structure Floors where
  rid : Nat
  tse : Nat
  fs : List Int
  deriving DecidableEq, Repr

/-- A member of a claim group (R320, R321). -/
structure Member where
  idx : Nat
  cid : CoreId
  lid : Lid
  wid : Word
  /-- the claims that it has issued, and whether it has left -/
  count : BitVec 32
  left : Bool
  /-- the plane time of its last heartbeat (R334) -/
  beat : Nat
  /-- the fabric device that it lies on, when that is another one (R318, R320) -/
  dev : Option Nat := none
  deriving DecidableEq, Repr

/-- A declared claim group (R318, R320). -/
structure Group where
  gid : Nat
  size : Nat
  w : Nat
  d : Nat
  skew : Nat
  notice : Option Word
  span : Bool
  tiers : Nat
  members : List Member
  deriving DecidableEq, Repr

/-- A claim-plane message (R317): an announcement, an objection, a heartbeat, or a group event. The last of these answers a join from
another device with what a live member's CLU holds (R340). -/
inductive PlaneAct where
  | announce (ticket value : Word)
  | object (ticket : Word) (m : Nat)
  | heartbeat (m : Nat)
  | declare (g : Group)
  | join (m : Member)
  | leave (m : Nat)
  | remove (m : Nat)
  | dissolve
  | values (r : Replica)
  deriving DecidableEq, Repr

/-- A claim-plane message in flight from one CLU to another. A CLU of this device has its plot tile's number, one of fabric device d the
number 2^16 (d + 1) + tile. `seq` is MSGSEQ of an announced claim (R30), and `bad` says that its tag will fail (R319). -/
structure Plane where
  src : Nat
  dst : Nat
  gid : Nat
  stamp : Nat
  act : PlaneAct
  seq : BitVec 32 := 0
  bad : Bool := false
  deriving DecidableEq, Repr

/-- A host queue's registers (R229). -/
structure HQ where
  base : Word := 0
  pia : Word := 0
  pi : BitVec 32 := 0
  ci : BitVec 32 := 0
  deriving DecidableEq, Repr

/-- What can wait in the park area or cross the host link (R188, R231, R392). -/
inductive LinkAct where
  | mem (e : HEntry)
  | hq (n : Nat) (tag : Tag) (ws : List Word)
  | completion (l : Lid) (a : Nat) (w : Word)
  | msix (v : Nat)
  deriving DecidableEq, Repr

/-- A `coll.res` request waiting for its epoch (R228). -/
structure CollReq where
  tag : Tag
  h : Word
  off : Nat
  pc : Word
  a0 : Word
  a1 : Word
  a2 : Word
  a3 : Word
  htop : Word
  cls : BitVec 2
  /-- on its way to the device's collective unit, or waiting there -/
  arrived : Bool
  deriving DecidableEq, Repr

/-- A suspended image (R56, R259). -/
structure SuspImage where
  cores : List Core
  launches : List Launch
  nextLid : Lid
  accs : List (List Acc)
  deriving DecidableEq, Repr

/-- Where a suspension stands (R55). -/
inductive Susp where
  | no
  | pausing
  | taken
  deriving DecidableEq, Repr

/-- An invalidation in progress (R365): who makes it, and the accesses that were translated through an entry that it has dropped, each by
its core, its place in the issue order and an address. -/
structure Drop where
  key : Nat
  held : List (CoreId × Nat × Nat)
  deriving DecidableEq, Repr

/-- An operation of a launch that waits at a TSE of another plot, the one from which the launch was resumed (R57, R298). -/
structure Away where
  tag : Tag
  load : Bool
  deriving DecidableEq, Repr

/-- A plot (R380) with all that is in flight within it. -/
structure Plot where
  pid : Nat
  vf : Nat
  tiles : List Tile
  cores : List Core
  mxes : List Mxe
  memsz : Nat
  job : BitVec 32
  mem : Memory
  /-- lines with an uncorrectable error or a failed tag (R358, R384): line and cause -/
  memErr : List (Nat × Cause)
  ptroot : Word
  /-- PTROOT as translation uses it (R375) -/
  ptrootEff : Word
  tlbinv : Word
  objs : List CodeObj
  mailbox : List Word
  launches : List Launch
  nextLid : Lid
  paths : List RemOp
  wq : List HEntry
  flights : List Flight
  spawns : List (Tag × List Word)
  copies : List CopyJob
  etries : Nat
  rtries : Nat
  regions : List Region
  furrows : List Furrow
  floors : List Floors
  waiters : List Waiter
  tseq : List TseOp
  pool : Nat
  wshare : Nat
  groups : List Group
  claims : List Claim
  plane : List Plane
  /-- pairs of CLUs between which the path has failed (R341) -/
  cut : List (Nat × Nat)
  hqs : List HQ
  /-- entries on the host link, and those in the park area (R188, R392) -/
  link : List LinkAct
  hqIn : List (Nat × Tag × List Word)
  park : List LinkAct
  parkLost : BitVec 32
  fabric : List HEntry
  pfqBase : Word
  pfqPi : BitVec 32
  pfqCi : BitVec 32
  collIn : List (Tag × Word × BitVec 32)
  collReqs : List CollReq
  swshare : Nat
  /-- its entries of the ETE queues (R380) -/
  eteShare : Nat
  susp : Susp
  image : Option SuspImage
  errlog : List (List Word)
  /-- the entries written to the window since the plot's creation -/
  errs : Nat
  msix : List Nat
  /-- the enqueue counter of R44 -/
  enqs : Nat
  /-- the rooted multicasts that the multicast root has ordered (R211) -/
  roots : Nat
  /-- plane time of the last sweep (R49) -/
  sweepAt : Nat
  /-- how many of the oldest parked entries were parked while the host was lost, and wait for the TDI to be in RUN (R393) -/
  parkHold : Nat
  /-- instruction words, by code object and offset, whose next fetch meets an uncorrectable error (R368), with the physical address
  where it is known -/
  codeErr : List (Nat × Nat × Option Nat)
  /-- torn down (R374, R383) -/
  torn : Bool
  /-- a debugger holds the plot (R351) -/
  debug : Bool
  /-- the invalidations in progress, and the accesses that each waits for (R365) -/
  dropping : List Drop
  /-- the operations of its launches that wait at a TSE of the plot from which they were resumed here (R57, R298) -/
  away : List Away
  deriving DecidableEq, Repr

/-- A switch slot (R224 to R227, R390): owner plot, operation 0 sum, 1 max, 2 min, 3 absmax. -/
structure SwSlot where
  num : Nat
  job : BitVec 32
  owner : Nat
  op : Nat
  devs : List Nat
  timeout : Nat
  closed : BitVec 16
  open_ : Option (BitVec 16 × Nat × List (Nat × BitVec 32))
  discards : Nat
  /-- the record of the last closed epoch (R227) -/
  kept : Option (Word × Word)
  /-- which tree the allocation fixed (R226) -/
  tree : Nat
  deriving DecidableEq, Repr

/-- A fabric port (R388). -/
structure Port where
  lanes : Nat := 4
  bucket : Nat := 8
  replays : Nat := 0
  /-- plane time since which the port is down: it retrains, or has no lane left -/
  retraining : Option Nat := none
  retired : Nat := 0
  /-- plane time of the last refill of its bucket -/
  refillAt : Nat := 0
  deriving DecidableEq, Repr

/-- A function's security state (R370, R377, R378). -/
structure Vf where
  num : Nat
  plot : Option Nat
  tdi : Tdi
  /-- how far the SPDM exchange has come: 0 none, 1 version, 2 capabilities, 3 algorithms -/
  spdm : Nat
  session : Nat
  keys : List Nat
  /-- the last response: its code and its words -/
  resp : Option (Nat × List Word)
  /-- the MSI-X table (R372, R377): for each of 32 vectors its address, and its data and control -/
  table : List (Word × Word)
  deriving DecidableEq, Repr

/-- A management core (R12): a RISC-V RV64 hart with the standard privileged architecture. The manual gives the core no more than that
name and its mailbox; registers, modes and control registers are those of RV64I with machine, supervisor and user mode, without address
translation and without memory protection entries (PRESUMED, log 97). `mode` is 3, 1 or 0. Of `mip` only the supervisor's bits are held:
MEIP follows the mailbox (R354). -/
structure MgmtCore where
  x : Vector Word 32 := Vector.replicate 32 0
  pc : Word := 0
  mode : BitVec 2 := 3
  mstatus : Word := 0
  mie : Word := 0
  mip : Word := 0
  mtvec : Word := 0
  mscratch : Word := 0
  mepc : Word := 0
  mcause : Word := 0
  mtval : Word := 0
  medeleg : Word := 0
  mideleg : Word := 0
  mcounteren : Word := 0
  menvcfg : Word := 0
  mcycle : Word := 0
  minstret : Word := 0
  stvec : Word := 0
  sscratch : Word := 0
  sepc : Word := 0
  scause : Word := 0
  stval : Word := 0
  scounteren : Word := 0
  senvcfg : Word := 0
  mem : Memory := []
  deriving DecidableEq, Repr

/-- A die's management mailbox (R354). -/
structure Mbox where
  slots : List (Nat × Report)
  head : BitVec 32
  tail : BitVec 32
  lost : BitVec 32
  events : List Report
  deriving DecidableEq, Repr

/-- A fabric peer's plot memory (R387), and how many switch tiers lie on the path to it (R318). -/
structure Peer where
  dev : Nat
  job : BitVec 32
  memsz : Nat
  mem : Memory
  tiers : Nat := 0
  deriving DecidableEq, Repr

/-- A tile that no plot holds: its service core (R12), and CYC of its 32 compute cores (R62). -/
structure Spare where
  num : Nat
  svc : SvcCore
  cycs : List Word
  deriving DecidableEq, Repr

/-- What Haruesol gives the next plot of the resources that are divided in space (R298, R380, R390): world-store pool, entries of each wait
table, switch slots, entries of the ETE queues. -/
structure Shares where
  pool : Nat := 2 ^ 30
  wait : Nat := 4096
  slots : Nat := 256
  ete : Nat := 64
  deriving DecidableEq, Repr

/-- The device outside its plots (R370 to R398). -/
structure Device where
  time : Nat := 0
  /-- core cycles since reset, as the cores that no plot holds have counted them (R62) -/
  cyc : Word := 0
  /-- the energy period that plane time was in at the last end of one (R46) -/
  period : Nat := 0
  devstat : BitVec 2 := 0
  reason : BitVec 4 := 0
  detail : BitVec 4 := 0
  fails : BitVec 2 := 0
  hostlost : Bool := false
  linkUp : Bool := true
  beat : Word := 0
  beatAt : Nat := 0
  /-- a heartbeat has arrived since the host was lost (R393) -/
  beatSince : Bool := false
  /-- plane time at which the start began (R394) -/
  bootAt : Nat := 0
  pfOwns : Bool := true
  fwLen : BitVec 32 := 0
  fwResult : BitVec 3 := 0
  staged : Option Image := none
  mgmtNext : Option Image := none
  rotNext : Option Image := none
  /-- the Haruesol service image accepted and not yet on every tile (R359) -/
  svcNext : Option Image := none
  svcVer : BitVec 32 := 0
  mgmtVer : BitVec 32 := 0
  rotVer : BitVec 32 := 0
  /-- the service version that the tiles had at reset (R394) -/
  bootSvc : BitVec 32 := 0
  /-- the fused minimum, and the security versions of the service, management and root-of-trust images in force (R378, R394) -/
  minSec : Nat := 0
  svcSec : Nat := 0
  mgmtSec : Nat := 0
  rotSec : Nat := 0
  /-- the tiles that no plot holds and that differ from what they were at reset -/
  spares : List Spare := []
  inj : BitVec 7 := 0
  injAddr : Word := 0
  errlog : List (List Word) := []
  errCount : Nat := 0
  ports : List Port := List.replicate 24 {}
  /-- plane time since which the fabric ports have been down, and synchronisation lost (R389) -/
  syncLost : Bool := false
  hbm : List Nat := List.replicate 16 32
  dieTiles : List Nat := List.replicate 8 48
  vfs : List Vf := []
  mboxes : List Mbox := List.replicate 8 ⟨[], 0, 0, 0, []⟩
  /-- the management core of each die (R12) -/
  mgmt : List MgmtCore := List.replicate 8 {}
  /-- lifetime counters by name (R398), those written and those since -/
  life : List (Nat × Nat) := []
  lifeNew : List (Nat × Nat) := []
  /-- plane time up to which the powered hours have been counted (R398) -/
  hoursAt : Nat := 0
  slots : List SwSlot := []
  /-- the device's own number on the fabric (R224): 0 at reset (DESIGN CHOICE, log 96: the manual gives none) -/
  fabNum : Nat := 0
  /-- the packets that the device has sent on its fabric ports (R385) -/
  fabNext : Nat := 0
  host : Memory := []
  /-- the host's root port completes AtomicOps (R189, R204): so at reset (DESIGN CHOICE, log 96: the manual gives no value) -/
  hostAtomics : Bool := true
  peers : List Peer := []
  /-- the interrupts of the PF: 0 for device events, 1 for error-log entries (R372) -/
  pfMsix : List Nat := []
  /-- the shares of the next plot (R380) -/
  shares : Shares := {}
  /-- what the host link has achieved (R369): tenths of GT/s, and lanes -/
  rate : Nat := 640
  width : Nat := 16
  /-- the plot in which an armed injection takes place (R397) -/
  injPlot : Nat := 0
  /-- the answers given to the host and the operator, newest first -/
  replies : List (List Word) := []
  deriving DecidableEq, Repr

/-- The operands of an event (its numbers and values), set by the move that runs it. -/
structure EvArgs where
  p : Nat := 0
  c : Nat := 0
  t : Nat := 0
  j : Nat := 0
  n : Nat := 0
  v : Word := 0
  w : Word := 0
  flag : Bool := false
  opt : Option Nat := none
  bytes : List Byte := []
  nums : List Nat := []
  op : AOp := .add
  reg : HReg := .readOnly
  vendor : Vendor := .tdispLock
  img : Image := ⟨0, 0, true, .service⟩
  fail : Option (Nat × Nat) := none
  deriving DecidableEq, Repr

/-- Which core steps: its plot, and its plot core number, or its tile when `svc` names a service core. -/
structure Agent where
  pid : Nat
  svc : Bool
  idx : Nat
  deriving DecidableEq, Repr

/-- What can happen next when the agenda says so (R172): an event of the table; one instruction of a core; time passing for a
plot's cores and the plane; and what the world outside does for which the table has no event. -/
inductive Move where
  | event (i : Instr) (a : EvArgs)
  | turn (a : Agent)
  | elapse (cycles ns : Nat)
  /-- the loader loads a code object (R408 to R414) -/
  | load (p : Nat) (r : LoadReq)
  /-- a service core's firmware is given a context to run -/
  | svcRun (p t : Nat) (pc : Word)
  /-- the host writes its own memory -/
  | hostWrite (a : Nat) (bs : List Byte)
  /-- the head of a plot's host link or park area takes effect (R188, R393) -/
  | linkStep (p : Nat)
  /-- the head of a plot's entries for the host-queue unit arrives -/
  | evict (p t page : Nat)
  /-- an error arises in an array (R396, R358) -/
  | strike (p : Nat) (a : Arr) (unit addr : Nat) (corr : Bool)
  /-- Haruesol sets a plot's limits of tries (R221, R355), and the shares that it will give the next plot (R298, R380) -/
  | limits (p etries rtries : Nat)
  | shares (x : Shares)
  /-- the PF writes entry i of the MSI-X table of function n (R372, R377) -/
  | msixWrite (n i : Nat) (a d : Word)
  /-- a host reads a word of BAR0 of a plot's VF, without the T bit or the stream when `noT` says so (R370); the PF, or with `mgr` the
  fabric manager, reads a device register or an entry of the error log (R393, R395, R396); the PF asks what the link has achieved, or the
  link trains (R369) -/
  | barRead (p off : Nat) (noT : Bool)
  | pfRead (mgr : Bool) (off : Nat)
  | pfLog (mgr : Bool) (i : Nat)
  | mgrCounters
  | linkRead
  | train (rate width : Nat)
  /-- a CLU of another device sends a plane message to one of plot p (R317, R320) -/
  | planeIn (p : Nat) (x : Plane)
  /-- the tag of plane message j of plot p will fail (R319) -/
  | planeTag (p j : Nat)
  /-- a debugger takes plot p, or lets it go (R351) -/
  | debug (p : Nat) (on : Bool)
  /-- the management core of a die reads a word of its mailbox (R354) -/
  | mbRead (die off : Nat)
  /-- the management core of a die executes one instruction, or takes an interrupt; its memory is loaded, and it starts at an address (R12) -/
  | mgmt (die : Nat)
  | mgmtLoad (die a : Nat) (bs : List Byte)
  /-- what lies outside is as given: the device's number on the fabric, whether the host's root port completes AtomicOps, and the peers
  (R189, R224, R387), whose memories are taken only in canonical form -/
  | outside (fabNum : Nat) (atomics : Bool) (peers : List Peer)
  /-- the path between two CLUs of plot p fails, or is there again (R341) -/
  | path (p a b : Nat) (up : Bool)
  deriving DecidableEq, Repr

/-- The machine. -/
structure State where
  plots : List Plot
  dev : Device
  cur : Agent
  agenda : List Move
  ev : EvArgs
  fresh : Nat
  deriving DecidableEq, Repr

/-- A core when its plot is created: registers at the values that the log names, LM zero, nothing queued (R48, R62, R382). -/
def Core.init (cid : CoreId) : Core :=
  { cid := cid, g := Vector.replicate 16 0, obj := 0, off := 0, st := 0x100_0000, wid := 0, htop := 0,
    v := Vector.replicate 8 0, k := Vector.replicate 4 0, budget := 0, lmret := 0, ba0 := 0, ba1 := 0, cyc := 0, xfid := 0,
    jobid := 0, cpsrc := 0, cpdst := 0, cplen := 0, cpstrs := 0, cpstrd := 0, cpcnt := 0, cphdl := 0, clg := 0,
    q := Vector.replicate 8 {}, lm := [], lmErr := [], bankOff := 0, stint := none, wait := .none, ob := [],
    ct := [], mq := [], runq := [], back := none, parked := [], late := [], slab := List.replicate 32 {}, frames := 0, retain := none,
    view := [], job := none, xnext := 0, jnext := 0, xout := [], jout := [], counts := [], hold := .free, report := none, returned := none,
    ord := 0, ready := [], msgBank := none }

/-- A service core at reset (R360). Its number is that of no core (log 23); the plot tile is added to it. -/
def SvcCore.init (ver : BitVec 32) : SvcCore :=
  { ctx := Core.init 0x3000, svq := [], slots := List.replicate 32 none, svver := ver, rpbase := 0, rplog := 4, rphead := 0,
    rptail := 0, rplost := 0, svlim := 1000, stopped := false }

/-- A tile when its plot is created. -/
def Tile.init (num : Nat) (ver : BitVec 32) : Tile :=
  { num := num, toq := [], tc := [], tlb := [], svc := SvcCore.init ver, clu := [], skew := 0 }
/-- The tile as plot tile i: its service core has the number 0x3000 + i (log 23). -/
def Tile.at (i : Nat) (t : Tile) : Tile :=
  { t with svc := { t.svc with ctx := { t.svc.ctx with cid := BitVec.ofNat 14 (0x3000 + i) } } }

/-- A plot at its creation: its memory is zero (R373). -/
def Plot.init (pid vf : Nat) (tiles : List Nat) (memsz : Nat) (job ver : BitVec 32) : Plot :=
  { pid := pid, vf := vf, tiles := ((List.range tiles.length).zip tiles).map fun x => (Tile.init x.2 ver).at x.1,
    cores := (List.range (32 * tiles.length)).map fun i => Core.init (BitVec.ofNat 14 i),
    mxes := List.replicate (4 * tiles.length) {}, memsz := memsz, job := job, mem := [], memErr := [], ptroot := 0,
    ptrootEff := 0, tlbinv := 0, objs := [], mailbox := List.replicate 8 0, launches := [], nextLid := 0, paths := [], wq := [],
    flights := [], spawns := [], copies := [], etries := 16, rtries := 20, regions := [], furrows := [], floors := [],
    waiters := [], tseq := [], pool := 2 ^ 30, wshare := 65536, groups := [], claims := [], plane := [], cut := [], hqs := List.replicate 16 {},
    link := [], hqIn := [], park := [], parkLost := 0, fabric := [], pfqBase := 0, pfqPi := 0, pfqCi := 0, collIn := [],
    collReqs := [], swshare := 0, eteShare := 64, susp := .no, image := none, errlog := [], errs := 0, msix := [], enqs := 0, roots := 0, sweepAt := 0,
    parkHold := 0, codeErr := [], torn := false, debug := false, dropping := [], away := [] }

/-- The device after reset: booting, with no plot (R395, R380, R394). -/
def State.reset : State :=
  { plots := [], dev := {}, cur := ⟨0, false, 0⟩, agenda := [], ev := {}, fresh := 0 }

end Sys2Proof.Machine
end

