-- ==== Sys2Proof/Machine/Ops.lean ====
section
/-! DEFINITION. The named operations that every meaning uses: memory, cores and plots, retiring an instruction (R31, R64, R81,
R83), the outbound buffer and commit (R24 to R27), run queues (R43 to R45), reports (R348, R352, R353), TAKING AN EXCEPTION
by its delivery class (R344), the search of the trellis and the start of a handler (R266 to R269), and the way back from
service (R349). -/
namespace Sys2Proof.Machine

/-- What a meaning answers. -/
abbrev Out := Host.Outcome State Fault Refusal

/-! Memory. -/

/-- The byte at an address; an unlisted one reads zero. -/
def Memory.get : Memory → Nat → Byte
  | [], _ => 0
  | (a, b) :: m, x => if x = a then b else if x < a then 0 else Memory.get m x
/-- Writes a byte and keeps the canonical form. -/
def Memory.set : Memory → Nat → Byte → Memory
  | [], x, v => if v = 0 then [] else [(x, v)]
  | (a, b) :: m, x, v =>
    if x < a then (if v = 0 then (a, b) :: m else (x, v) :: (a, b) :: m)
    else if x = a then (if v = 0 then m else (x, v) :: m)
    else (a, b) :: Memory.set m x v
/-- The n bytes from an address. -/
def Memory.bytes (m : Memory) (a n : Nat) : List Byte := (List.range n).map fun i => m.get (a + i)
/-- Writes bytes from an address on. -/
def Memory.write : Memory → Nat → List Byte → Memory
  | m, _, [] => m
  | m, a, b :: bs => Memory.write (m.set a b) (a + 1) bs
/-- A little-endian number of n bytes (R4). -/
def Memory.num (m : Memory) (a n : Nat) : Nat := leNat (m.bytes a n)
/-- An 8-byte word. -/
def Memory.word (m : Memory) (a : Nat) : Word := BitVec.ofNat 64 (m.num a 8)
/-- Writes an 8-byte word. -/
def Memory.setWord (m : Memory) (a : Nat) (w : Word) : Memory := m.write a (leBytes 8 w.toNat)
/-- Writes the bits of a byte that a mask names. -/
def Memory.setMasked (m : Memory) (a : Nat) (v mask : Byte) : Memory := m.set a ((m.get a &&& ~~~mask) ||| (v &&& mask))
/-- Removes every byte in a range, so that it reads zero. -/
def Memory.clear (m : Memory) (lo hi : Nat) : Memory := m.filter fun c => c.1 < lo || hi ≤ c.1

/-! Bits of words. -/

/-- Bits [hi:lo] of a word as a number. -/
def fld (w : Word) (hi lo : Nat) : Nat := w.toNat / 2 ^ lo % 2 ^ (hi + 1 - lo)
/-- Replaces bits [lo + n - 1 : lo] of a word. -/
def setFld (w : Word) (lo n : Nat) (v : Nat) : Word :=
  (w &&& ~~~(BitVec.ofNat 64 ((2 ^ n - 1) * 2 ^ lo))) ||| BitVec.ofNat 64 (v % 2 ^ n * 2 ^ lo)
/-- The low n bits sign-extended to 64. -/
def sextN (v n : Nat) : Word :=
  let x := v % 2 ^ n
  if n ≠ 0 ∧ x ≥ 2 ^ (n - 1) then BitVec.ofNat 64 x - BitVec.ofNat 64 (2 ^ n) else BitVec.ofNat 64 x

/-! The core that steps. -/

/-- The plot of a number. -/
def State.plot? (s : State) (pid : Nat) : Option Plot := s.plots.find? fun p => p.pid == pid
/-- Changes one plot. -/
def State.modPlot (s : State) (pid : Nat) (f : Plot → Plot) : State :=
  { s with plots := s.plots.map fun p => if p.pid = pid then f p else p }
/-- Changes the device. -/
def State.modDev (s : State) (f : Device → Device) : State := { s with dev := f s.dev }
/-- Changes one compute core of a plot. -/
def Plot.modCore (p : Plot) (i : Nat) (f : Core → Core) : Plot := { p with cores := p.cores.modify i f }
/-- Changes one tile of a plot. -/
def Plot.modTile (p : Plot) (i : Nat) (f : Tile → Tile) : Plot := { p with tiles := p.tiles.modify i f }
/-- Changes the context of a tile's service core. -/
def Tile.modSvc (t : Tile) (f : SvcCore → SvcCore) : Tile := { t with svc := f t.svc }

/-- The plot of the core that steps. -/
def State.myPlot (s : State) : Option Plot := s.plot? s.cur.pid
/-- The core that steps, with its registers. -/
def State.me (s : State) : Option Core :=
  match s.myPlot with
  | none => none
  | some p => if s.cur.svc then (p.tiles[s.cur.idx]?).map (·.svc.ctx) else p.cores[s.cur.idx]?
/-- Changes the core that steps. -/
def State.modMe (s : State) (f : Core → Core) : State :=
  s.modPlot s.cur.pid fun p =>
    if s.cur.svc then p.modTile s.cur.idx fun t => t.modSvc fun v => { v with ctx := f v.ctx } else p.modCore s.cur.idx f
/-- Changes the plot of the core that steps. -/
def State.modMine (s : State) (f : Plot → Plot) : State := s.modPlot s.cur.pid f
/-- A meaning about the core that steps. -/
def onCore (s : State) (k : Plot → Core → Out) : Out :=
  match s.myPlot, s.me with
  | some p, some c => k p c
  | _, _ => .fault .noAgent
/-- A next state in which a core stands in place of the core that steps. -/
def put (s : State) (c : Core) : Out := .next (s.modMe fun _ => c)
/-- A next state in which the core that steps has changed. -/
def upd (s : State) (f : Core → Core) : Out := onCore s fun _ c => put s (f c)

/-- A general register. -/
def Core.r (c : Core) (i : Reg) : Word := c.g[i]
/-- Writes a general register. -/
def Core.setG (c : Core) (i : Reg) (w : Word) : Core := { c with g := c.g.set i w }
/-- A register by number; numbers beyond the file read 0. -/
def Core.rn (c : Core) (i : Nat) : Word := c.g.toList.getD i 0
/-- The PC as a record holds it (R19). -/
def Core.pc (c : Core) : Word := BitVec.ofNat 64 (c.off.toNat + 2 ^ 32 * c.obj.toNat)
/-- A flag or field of ST. -/
def Core.stBits (c : Core) (hi lo : Nat) : Nat := fld c.st hi lo
/-- Sets a field of ST. -/
def Core.setSt (c : Core) (lo n v : Nat) : Core := { c with st := setFld c.st lo n v }
/-- ST.PP (R60). -/
def Core.pp (c : Core) : Bool := c.stBits 0 0 = 1
/-- ST.RC (R60). -/
def Core.rc (c : Core) : Nat := c.stBits 14 11
/-- ST.DET (R60). -/
def Core.det (c : Core) : Bool := c.stBits 33 33 = 1
/-- ST.MIG (R60). -/
def Core.mig (c : Core) : Bool := c.stBits 34 34 = 1
/-- The number is that of a service core (log 23): 0x3000 and its plot tile. Those from 0x3FFC on are the units of R30. -/
def isSvcCid (c : CoreId) : Bool := decide (0x3000 ≤ c.toNat ∧ c.toNat < 0x3FFC)
/-- The number of the service core of a plot tile. -/
def svcCid (t : Nat) : CoreId := BitVec.ofNat 14 (0x3000 + t)
/-- The core is a service core. -/
def Core.isSvc (c : Core) : Bool := isSvcCid c.cid
/-- ST.PRI as a message carries it (R40): never below 1, but that of a service core as it stands. -/
def Core.sendCls (c : Core) : BitVec 2 := BitVec.ofNat 2 (if c.isSvc then c.stBits 36 35 else max 1 (c.stBits 36 35))
/-- ST.VD (R60). -/
def Core.vd (c : Core) : Bool := c.stBits 32 32 = 1
/-- The launch of the running stint. -/
def Core.lid (c : Core) : Lid := (c.stint.map (·.lid)).getD 0
/-- The counts for a launch. -/
def Core.count (c : Core) (l : Lid) : LCount := (c.counts.find? fun x => x.lid == l).getD { lid := l }
/-- Changes the counts for a launch. -/
def Core.modCount (c : Core) (l : Lid) (f : LCount → LCount) : Core :=
  { c with counts := f (c.count l) :: c.counts.filter fun x => x.lid != l }
/-- A core changes nothing else than LM. -/
def Core.setLm (c : Core) (m : Memory) : Core := { c with lm := m }

/-- Charges cycles and energy to the stint (R31, R47): BUDGET falls unless ST.SVC is set. -/
def Core.charge (c : Core) (cycles pj : Nat) : Core :=
  let c := { c with cyc := c.cyc + BitVec.ofNat 64 cycles }
  if c.stint.isNone || c.stBits 38 38 = 1 then c
  else
    let c := { c with budget := BitVec.ofNat 25 (c.budget.toNat - cycles) }
    c.modCount c.lid fun x => { x with pj := x.pj + 40 * cycles + pj }

/-- LM words of the core that are read or written for a launch by a party other than a stint's own access (R47). -/
def Core.words (c : Core) (l : Lid) (n : Nat) : Core := if n = 0 then c else c.modCount l fun x => { x with pj := x.pj + 5 * n }

/-- One instruction more has retired in the stint (R103). -/
def Stint.tick (x : Stint) : Stint := { x with icount := x.icount + 1 }
/-- One commit point more (R26). -/
def Stint.mark1 (x : Stint) : Stint := { x with commits := x.commits + 1 }

/-- An instruction has retired: it counts (R103), it charges its issue interval (R163), a repetition is done (R83), the pending
format is used up (R81), and the PC passes it when no repetition is left (R64). -/
def Core.retire (c : Core) (len cycles : Nat) (pj : Nat := 0) : Core :=
  let c := c.charge cycles pj
  let c := { c with stint := c.stint.map Stint.tick, wait := .none }
  if c.rc > 1 then c.setSt 11 4 (c.rc - 1)
  else { (c.setSt 11 4 0).setSt 0 1 0 with off := c.off + BitVec.ofNat 32 len }
/-- A control transfer has retired (R117): the PC takes an offset in the same code object. -/
def Core.jump (c : Core) (target : BitVec 32) (cycles : Nat) : Core := { c.retire 0 cycles with off := target }
/-- A stalled cycle (R31). -/
def Core.stall (c : Core) : Core := c.charge 1 0

/-! Identity (R30, R194). -/

/-- The identifier of a message (R30). -/
def msgId (src : CoreId) (seq : BitVec 32) (l : Lid) : Word :=
  BitVec.ofNat 64 (src.toNat + 2 ^ 16 * seq.toNat + 2 ^ 48 * l.toNat)
/-- The identifier of a message. -/
def Msg.ident (m : Msg) : Word := msgId m.src m.seq m.lid
/-- The identifier of an operation of a core. -/
def Tag.ident (t : Tag) : Word := msgId t.cid t.seq t.lid
/-- The tag of an operation that the running stint issues now. -/
def Core.tag (c : Core) : Tag := ⟨c.cid, c.lid, (c.count c.lid).seq, c.ord, c.wid⟩
/-- MSGSEQ advances (R194). -/
def Core.bumpSeq (c : Core) : Core := c.modCount c.lid fun x => { x with seq := x.seq + 1 }
/-- MSGSEQ goes back: an instruction that has sent a remote operation faults, and a faulting one does not advance it (R194). -/
def Core.unbump (c : Core) : Core := c.modCount c.lid fun x => { x with seq := x.seq - 1 }

/-! The outbound buffer (R24 to R27, R197). -/

/-- What an entry counts as sent when it commits (R49, R198). -/
def Entry.sends (e : Entry) : Nat :=
  match e.body with
  | .remote _ => 1
  | .msg _ _ => 1
  | .mcast ds _ _ => ds.length
  | .mcastSt ds _ _ => ds.length
  | .copy c => boolNat c.blk.isSome
  | .mx j => boolNat j.blk.isSome
  | .tse o => match o.act with
    | .ld _ => 1
    | _ => 0
  | .claim _ => 1
  | .hostq _ _ => 1
  | .spawn _ => 1
  | .collRed _ _ => 1
  | .collRes _ _ _ _ _ _ _ _ _ => 1
  | _ => 0

/-- The commit point (R26): the buffered entries move to the tail of CT and count as sent; the stint counts the point. -/
def Core.commit (c : Core) : Core :=
  let c := c.ob.foldl (fun c e => if e.sends = 0 then c else c.modCount e.tag.lid fun x => { x with sent := x.sent + e.sends }) c
  { c with ct := c.ct ++ c.ob, ob := [], stint := c.stint.map Stint.mark1 }
/-- The overflow places that OB and CT hold (R24). -/
def Core.placesUsed (c : Core) : Nat := ((c.ob ++ c.ct).map (·.places)).sum
/-- An operation cannot enter now, and would not after a commit: the places stand in CT (R24, R197). -/
def Core.noPlace (c : Core) (n : Nat) : Bool := decide ((c.ct.map (·.places)).sum + (c.ob.map (·.places)).sum + n > 32)
/-- An operation that returns a value from outside the core (R26): the buffer commits, and the operation leaves with it, behind every
buffered entry; it is one commit point. -/
def Core.enterRet (c : Core) (body : EBody) : Core :=
  ({ c with ob := c.ob ++ [{ tag := c.tag, body := body }], ord := c.ord + 1 } : Core).commit
/-- An operation enters OB; a full buffer commits first (R26). -/
def Core.enter (c : Core) (body : EBody) (rel : Option Scope := none) (places : Nat := 0) : Core :=
  let c := if c.ob.length ≥ 64 then c.commit else c
  { c with ob := c.ob ++ [{ tag := c.tag, rel := rel, places := places, body := body }], ord := c.ord + 1 }
/-- Enters an operation whose payload needs overflow places, or commits and stalls until there are some (R197). -/
def enterPlaced (s : State) (c : Core) (n : Nat) (body : EBody) (k : Core → Core) : Out :=
  if c.noPlace n then put s (if c.ob.isEmpty then c.stall else c.commit.stall)
  else put s (k (c.enter body none n))

/-! What an earlier access of a core still has to do (R173, R178). -/

/-- An act at a line or on the link of core c, issued before o. -/
def HEntry.before (e : HEntry) (c : CoreId) (o : Nat) : Bool := e.tags.any fun t => t.cid == c && decide (t.ord < o)
/-- The act is a store, which is performed on the way (R173). -/
def HEntry.isStore (e : HEntry) : Bool :=
  match e.act with
  | .store _ => true
  | _ => false
/-- An access that still stands in OB or CT is not yet performed at a scope (R173): a store to device memory is at core scope, and a
host line is ordered at system scope alone (R188). -/
def Loc.pending (l : Loc) (store : Bool) (sc : Scope) : Bool :=
  match l with
  | .dev _ => !store || decide (sc ≠ .core)
  | .peer _ _ => true
  | .host _ => decide (sc = .system)
/-- The operations of the plot's own launches in its wait tables: others there answer to the plot that has taken their launch (R57). -/
def Plot.waiting (p : Plot) : List TseOp := (p.waiters.filter fun w => w.op.home.getD p.pid == p.pid).map (·.op)
/-- An earlier entry of the core is not yet performed at a scope (R173, R188, R294), a `wst` that still waits on a plot from which its launch
was resumed here among them (R57). DESIGN CHOICE (log 96): a remote LM operation or a world-store operation of a DET launch that has passed
from CT and is kept for the phase close (R53, R314) does not hold back its core's fences and messages. -/
def notPerformed (p : Plot) (c : Core) (o : Nat) (sc : Scope) : Bool :=
  let mine (t : Tag) : Bool := t.cid == c.cid && decide (t.ord < o)
  let wide := decide (sc = .die ∨ sc = .package ∨ sc = .system)
  let far := decide (sc = .package ∨ sc = .system)
  let acc (e : Entry) : Bool := mine e.tag && (match e.body with
    | .store bs => bs.any fun b => b.loc.pending true sc
    | .atom _ _ _ _ l _ _ _ => l.pending false sc
    | .remote _ => true
    | .mcastSt _ _ _ => true
    | .tse q => far && (match q.act with
      | .st _ _ _ _ => true
      | _ => false)
    | _ => false)
  let st (q : TseOp) : Bool := mine q.tag && (match q.act with
    | .st _ _ _ _ => true
    | _ => false)
  (c.ob ++ c.ct).any acc || p.paths.any (fun r => mine r.tag) || p.cores.any (fun x => x.mq.any fun r => mine r.tag)
    || p.fabric.any (fun e => e.before c.cid o)
    || p.tiles.any (fun t => t.toq.any fun e => e.before c.cid o && (!e.isStore || wide))
    || p.wq.any (fun e => e.before c.cid o && !e.isStore)
    || (far && (p.tseq.any st || p.waiting.any st || p.away.any fun x => !x.load && mine x.tag))
    || (decide (sc = .system) && (p.link ++ p.park).any fun x => match x with
        | .mem e => e.before c.cid o
        | .hq _ t _ => mine t
        | _ => false)
    || (decide (sc = .system) && p.hqIn.any fun x => mine x.2.1)

/-! Launches and run queues. -/

/-- The launch of a plot. -/
def Plot.launch? (p : Plot) (l : Lid) : Option Launch := p.launches.find? fun x => x.lid == l
/-- Changes a launch. -/
def Plot.modLaunch (p : Plot) (l : Lid) (f : Launch → Launch) : Plot :=
  { p with launches := p.launches.map fun x => if x.lid = l then f x else x }
/-- Energy that a unit other than a core counts for a launch (R47). -/
def Plot.spend (p : Plot) (l : Lid) (pj : Nat) : Plot := p.modLaunch l fun x => { x with pj := x.pj + pj }
/-- The same for the launch of an operation; what a service core causes counts for none. -/
def Plot.spendFor (p : Plot) (t : Tag) (pj : Nat) : Plot := if isSvcCid t.cid then p else p.spend t.lid pj
/-- The tile of a core (R15), or of a service core (log 23). -/
def tileOf (c : CoreId) : Nat := if c.toNat < 0x3000 then c.toNat / 32 else c.toNat - 0x3000
/-- The cluster of a core, counted over the plot; a service core is in none, and has a number of its own. -/
def clusterOf (c : CoreId) : Nat := if c.toNat < 0x3000 then c.toNat / 8 else c.toNat
/-- A core of a plot by its number: a compute core, or a service core (log 23). -/
def Plot.ctx? (p : Plot) (c : CoreId) : Option Core :=
  match p.cores[c.toNat]? with
  | some x => some x
  | none => if isSvcCid c then (p.tiles[tileOf c]?).map (·.svc.ctx) else none
/-- Changes a core of either kind. -/
def Plot.modCtx (p : Plot) (c : CoreId) (f : Core → Core) : Plot :=
  if c.toNat < p.cores.length then p.modCore c.toNat f
  else if isSvcCid c then p.modTile (tileOf c) fun t => t.modSvc fun v => { v with ctx := f v.ctx } else p
/-- The agent of a core of either kind. -/
def Plot.agentOf (p : Plot) (c : CoreId) : Agent :=
  if c.toNat < p.cores.length then ⟨p.pid, false, c.toNat⟩ else ⟨p.pid, true, tileOf c⟩
/-- A number names a core of the plot (R15). -/
def Plot.hasCore (p : Plot) (c : Nat) : Bool := decide (c < p.cores.length)
/-- The loaded code object of an id. -/
def Plot.obj? (p : Plot) (i : Nat) : Option CodeObj := p.objs.find? fun o => o.id == i
/-- A handler's offset in the table of a code object, unless the index is beyond it or empty (R195). -/
def Plot.handler (p : Plot) (obj h : Nat) : Option (BitVec 32) :=
  match p.obj? obj with
  | none => none
  | some o => match o.handlers[h]? with
    | none => none
    | some x => if x = 0xFFFFFFFF then none else some x
/-- The PC of a handler in a code object. -/
def pcOf (obj off : Nat) : Word := BitVec.ofNat 64 (off % 2 ^ 32 + 2 ^ 32 * (obj % 2 ^ 16))
/-- The narrowest scope that covers two cores of a plot (R170). -/
def Plot.pairScope (p : Plot) (a b : CoreId) : Scope :=
  let dieOf (c : CoreId) : Nat := ((p.tiles[tileOf c]?).map (·.num / 48)).getD 99
  if a = b then .core else if clusterOf a = clusterOf b then .cluster else if tileOf a = tileOf b then .tile
  else if dieOf a = dieOf b then .die else .package

/-- Spill units that a message uses (R43). -/
def Msg.units (m : Msg) : Nat :=
  match m.body with
  | .runner _ => 3
  | _ => 1
/-- The run queue cannot take the message (R43). -/
def Core.queueFull (c : Core) (m : Msg) : Bool :=
  decide (c.runq.length ≥ 64 ∧ ((c.runq.drop 64).map Msg.units).sum + m.units > 88)
/-- A message enters the run queue and counts as received (R44, R49). -/
def Core.enqueue (c : Core) (now no : Nat) (m : Msg) : Core :=
  let c := { c with runq := c.runq ++ [{ m with enq := (now : Int), enqNo := no, pay := [] }] }
  c.modCount m.lid fun x => { x with recv := x.recv + 1 }
/-- A resume of the core's own enters its run queue; one that finds it full, or another such resume waiting, is tried again later
(R43, R355). -/
def Core.takeMsg (c : Core) (now no : Nat) (m : Msg) : Core :=
  if c.queueFull m || !c.late.isEmpty then { c with late := c.late ++ [{ dst := c.cid, msg := m }] } else c.enqueue now no m
/-- A message of a DET launch parks (R45); it counts as received (R52). -/
def Core.park (c : Core) (m : Msg) : Core :=
  { c.modCount m.lid fun x => { x with recv := x.recv + 1 } with parked := c.parked ++ [m] }
/-- Puts a resume into the run queue of its own core of the plot, or parks it for a DET launch. -/
def Plot.give (p : Plot) (dst : Nat) (m : Msg) : Plot :=
  let det := ((p.launch? m.lid).map (·.det)).getD false
  { p.modCore dst fun c => if det then c.park m else c.takeMsg c.cyc.toNat p.enqs m with enqs := p.enqs + 1 }
/-- The core's own message counts as sent when it is made (R49). -/
def Core.sentOne (c : Core) (l : Lid) : Core := c.modCount l fun x => { x with sent := x.sent + 1 }

/-- Changes a slot. -/
def Core.modSlot (c : Core) (i : Nat) (f : Slot → Slot) : Core := { c with slab := c.slab.modify i f }

/-- The resume message of a parked slot (R132, R133, R136): it carries the parking instruction's MSGSEQ and class ST.PRI as
saved, and acquires what a satisfied `sleep.ge` acquires; that of `mx.wait`, every write of the job (R242, R258). -/
def resumeMsg (c : Core) (slot : Nat) (x : Slot) : Msg :=
  let wid := (x.rcd.map (·.wid)).getD 0
  { src := c.cid, seq := x.seq, lid := x.lid, cls := BitVec.ofNat 2 (max 1 (fld ((x.rcd.map (·.st)).getD 0) 36 35)),
    tag := ⟨c.cid, x.lid, x.seq, c.ord, wid⟩, body := .resume slot x.gen 3 x.how,
    acq := match x.how, x.sleep with
      | .mxStatus _ _, _ => some .system
      | _, some (.glob _ _) => some .system
      | _, some _ => some .core
      | _, none => none }

/-- The runner of a slot belongs to a DET launch (R137). -/
def Slot.det (x : Slot) : Bool := fld ((x.rcd.map (·.st)).getD 0) 33 33 == 1

/-- The waits of a core that an event can end: the resume of each slot whose condition `holds` is enqueued and its wait ends
(R133); runners of a DET launch wait for the phase (R137). -/
def Core.wake (c : Core) (no : Nat) (holds : Core → Sleep → Bool) : Core :=
  (List.range 32).foldl (fun c i =>
    match c.slab[i]? with
    | none => c
    | some x => match x.sleep with
      | none => c
      | some cond =>
        if x.state == 1 && !x.det && holds c cond then
          ((c.modSlot i fun y => { y with sleep := none }).sentOne x.lid).takeMsg c.cyc.toNat no (resumeMsg c i x)
        else c) c

/-! Reports and posting (R345, R348, R352, R353). -/

/-- A report's 64 bytes (R348). -/
def Report.words (r : Report) : List Word :=
  r.raw.getD [BitVec.ofNat 64 (r.cause.toNat + 2 ^ 8 * r.kind.toNat + 2 ^ 10 * boolNat r.part + 2 ^ 11 * boolNat r.efx
      + 2 ^ 12 * boolNat r.ret + 2 ^ 16 * min r.commits 0xFFFF + 2 ^ 32 * r.cid.toNat + 2 ^ 48 * r.lid.toNat),
   r.pc, r.msgid, r.addr, r.info, r.wid, r.time, BitVec.ofNat 64 (r.pid % 16)]
/-- Words as bytes. -/
def wordsBytes (ws : List Word) : List Byte := ws.flatMap fun w => leBytes 8 w.toNat

/-- The report ring of a service core is full (R360). -/
def SvcCore.ringFull (v : SvcCore) : Bool := decide ((v.rphead - v.rptail).toNat ≥ 2 ^ v.rplog.toNat)
/-- The hardware writes a report into the ring (R348, R360). -/
def SvcCore.report (v : SvcCore) (r : Report) : SvcCore :=
  let a := 64 * v.rpbase.toNat + 64 * (v.rphead.toNat % 2 ^ v.rplog.toNat)
  { v with ctx := { v.ctx with lm := v.ctx.lm.write a (wordsBytes r.words) }, rphead := v.rphead + 1 }
/-- A posted report, lost when the ring is full (R360). -/
def SvcCore.post (v : SvcCore) (r : Report) : SvcCore :=
  if v.ringFull then { v with rplost := v.rplost + 1 } else v.report r
/-- A posted machine check goes to the die's event ring (R353, R354). -/
def Device.event (d : Device) (die : Nat) (r : Report) : Device :=
  { d with pfMsix := 0 :: d.pfMsix, mboxes := d.mboxes.modify die fun m =>
      if (m.head - m.tail).toNat ≥ 256 then { m with lost := m.lost + 1 }
      else { m with head := m.head + 1, events := (r :: m.events).take 256 } }
/-- The die of a plot tile. -/
def Plot.dieOf (p : Plot) (t : Nat) : Nat := ((p.tiles[t]?).map (·.num / 48)).getD 0

/-- A lifetime counter is raised; it is written to non-volatile storage later (R398). -/
def Device.counts (d : Device) (name : Nat) : Device :=
  { d with lifeNew := (name, (d.lifeNew.lookup name).getD 0 + 1) :: d.lifeNew.filter fun x => x.1 != name }
/-- The same, n times. -/
def Device.countsN (d : Device) (name n : Nat) : Device :=
  if n = 0 then d else { d with lifeNew := (name, (d.lifeNew.lookup name).getD 0 + n) :: d.lifeNew.filter fun x => x.1 != name }
/-- The counters that the root-of-trust core itself measures (R398): kind 0 powered hours; 1 and 2 spares of a die or a stack; 3 an hour at
a temperature of a die, in 16 bins of 8 degrees from 0; 4 a service time of a tile, in 16 bins by powers of two from 1 us. -/
def lifeMeasured (kind unit v : Nat) : Nat :=
  let bin := match kind with
    | 3 => min 15 (v / 8)
    | 4 => min 15 (Nat.log2 v)
    | _ => 0
  2 ^ 42 + 2 ^ 20 * kind + 16 * unit + bin
/-- The lifetime counter of a corrected or uncorrected error, by array class and unit (R398): bit 32 set for an uncorrectable one. -/
def errorCounter (corr : Bool) (arr unit : Nat) : Nat := 2 ^ 40 + (if corr then 0 else 2 ^ 32) + 2 ^ 16 * arr + unit
/-- The armed injection concerns an error at a place of an array (R395, R397). -/
def Device.injected (d : Device) (arr unit : Nat) (addr : Word) : Bool :=
  d.inj.getLsbD 6 && d.inj.toNat % 16 == arr
    && (if arr = 0 then fld addr 17 3 == fld d.injAddr 17 3 && unit == fld d.injAddr 31 18 else fld addr 63 6 == fld d.injAddr 63 6)
/-- A parked entry takes 64 bytes of the 16 MiB park area (R231, R392). -/
def parkLimit : Nat := 262144
/-- The entry belongs to a host queue. -/
def LinkAct.isHq (x : LinkAct) : Bool :=
  match x with
  | .hq _ _ _ => true
  | _ => false
/-- The park area holds entries of a lost host, which leave ahead of later ones (R393). -/
def Plot.lossParked (p : Plot) : Bool := p.park.any fun x => !x.isHq
/-- Host-bound entries park: the host is lost, as `lost` says, or earlier ones wait (R392, R393). -/
def Plot.parks (p : Plot) (lost : Bool) : Bool := lost || decide (p.parkHold ≠ 0) || p.lossParked
/-- A host-bound entry other than a host-queue entry goes onto the link, or parks; a full park area discards and counts it (R392). -/
def Plot.offer (p : Plot) (lost : Bool) (x : LinkAct) : Plot :=
  if !p.parks lost then { p with link := p.link ++ [x] }
  else if p.park.length ≥ parkLimit then { p with parkLost := p.parkLost + 1 }
  else { p with park := p.park ++ [x] }

/-- An entry sets out on a fabric port: it takes its place in the order of all that the device sends (R385). -/
def State.toFabric (s : State) (pid : Nat) (e : HEntry) : State :=
  (s.modPlot pid fun p => { p with fabric := p.fabric ++ [{ e with fabNo := s.dev.fabNext }] }).modDev fun d => { d with fabNext := d.fabNext + 1 }
/-- No packet that the device has sent to a peer before one is still under way (R385). -/
def State.fabClear (s : State) (peer no : Nat) : Bool := s.plots.all fun p => p.fabric.all fun e => e.peer != peer || decide (no ≤ e.fabNo)

/-- Two entries are the same but for their REPEAT and TIME (R396). -/
def sameEntry (x y : List Word) : Bool := fld (x.getD 0 0) 47 0 == fld (y.getD 0 0) 47 0 && (x.drop 1).take 2 == (y.drop 1).take 2
/-- An entry with one repeat more, saturating (R396). -/
def oneMore (x : List Word) : List Word :=
  (x.getD 0 0 + (if fld (x.getD 0 0) 63 48 = 0xFFFF then 0 else 0x1000000000000)) :: x.drop 1
/-- An entry joins the device's error log, or is merged into the last one, and the window of its plot holds a copy (R396). An error that
the armed injection made carries INJ, and ARM is cleared (R397). `corr` says of an error of an array whether it was corrected, for the
lifetime counters (R398); an entry of another kind counts there as none. -/
def State.logAs (s : State) (corr : Option Bool) (pid : Option Nat) (cause arr unit lid : Nat) (addr syn : Word) : State :=
  let inj := s.dev.injected arr unit addr
  let w0 := BitVec.ofNat 64 (cause + 2 ^ 8 * arr + 2 ^ 12 * boolNat inj + 2 ^ 13 * boolNat pid.isNone
    + 2 ^ 14 * (pid.getD 0 % 16) + 2 ^ 18 * (unit % 2 ^ 14) + 2 ^ 32 * lid)
  let e : List Word := [w0, addr, syn, BitVec.ofNat 64 s.dev.time]
  let old := s.dev.errlog.head?.filter fun x => sameEntry x e
  let s := s.modDev fun d =>
    let d : Device := { corr.elim d fun b => d.counts (errorCounter b arr unit) with inj := if inj then d.inj &&& 0x3F else d.inj }
    match old with
    | some x => { d with errlog := oneMore x :: d.errlog.drop 1 }
    | none => { d with errlog := (e :: d.errlog).take 4096, errCount := d.errCount + 1, pfMsix := 1 :: d.pfMsix }
  match pid with
  | none => s
  | some p => s.modPlot p fun x =>
    match old, x.errlog with
    | some y, z :: rest => if sameEntry z e then { x with errlog := oneMore z :: rest }
      else ({ x with errlog := (oneMore y :: z :: rest).take 4096, errs := x.errs + 1 } : Plot).offer s.dev.hostlost (.msix 17)
    | some y, [] => ({ x with errlog := [oneMore y], errs := x.errs + 1 } : Plot).offer s.dev.hostlost (.msix 17)
    | none, l => ({ x with errlog := (e :: l).take 4096, errs := x.errs + 1 } : Plot).offer s.dev.hostlost (.msix 17)
/-- The codes of errors of an array: whether the error was corrected (R368). -/
def arrayError (cause : Nat) : Option Bool :=
  if cause = 0x25 ∨ cause = 0xB5 then some true
  else if cause ∈ [0x03, 0x23, 0x34, 0xB1, 0xB2] then some false else none
/-- An entry with a cause of the code table (R356). -/
def State.log (s : State) (pid : Option Nat) (cause arr unit lid : Nat) (addr syn : Word) : State :=
  s.logAs (arrayError cause) pid cause arr unit lid addr syn
/-- An entry that tells of no error, with a cause that the manual does not give. -/
def State.logNote (s : State) (pid : Option Nat) (arr unit lid : Nat) (addr syn : Word) : State :=
  { s.logAs none pid ((Config.freeWord s.fresh 3).toNat % 256) arr unit lid addr syn with fresh := s.fresh + 1 }
/-- An entry whose array and unit the manual does not give: free values. -/
def State.logOpen (s : State) (pid : Option Nat) (cause lid : Nat) (addr syn : Word) : State :=
  { s.log pid cause ((Config.freeWord s.fresh 2).toNat % 16) ((Config.freeWord s.fresh 4).toNat % 2 ^ 14) lid addr syn with fresh := s.fresh + 1 }

/-- Posts a report about an operation of a plot (R345): by its class to the tile's report ring or to the die's event ring. -/
def State.post (s : State) (pid tile : Nat) (r : Report) : State :=
  let r := { r with kind := 1, pid := pid, time := BitVec.ofNat 64 s.dev.time }
  match s.plot? pid with
  | none => s
  | some p =>
    if r.cause.cls = .m then s.modDev fun d => d.event (p.dieOf tile) r
    else s.modPlot pid fun p => p.modTile tile fun t => t.modSvc fun v => v.post r
/-- Posts a cause for an operation with a tag. -/
def State.postTag (s : State) (pid : Nat) (t : Tag) (cause : Cause) (addr info : Word) : State :=
  s.post pid (tileOf t.cid) { cause := cause, kind := 1, cid := t.cid, lid := t.lid, msgid := t.ident, addr := addr,
                              info := info, wid := t.wid }
/-- Posts a cause for a message, under the message's own identifier (R30), at the tile of the core that caused it. -/
def State.postMsg (s : State) (pid : Nat) (m : Msg) (cause : Cause) (addr info : Word) : State :=
  s.post pid (tileOf m.tag.cid) { cause := cause, kind := 1, cid := m.tag.cid, lid := m.tag.lid, msgid := m.ident, addr := addr,
                                  info := info, wid := m.tag.wid }
/-- An operation that a unit discards counts as received (R50). -/
def Plot.discard (p : Plot) (t : Tag) : Plot := p.modLaunch t.lid fun l => { l with recv := l.recv + 1 }

/-- A message that is discarded counts as received (R43, R50); a claim notice, which counts at its enqueue alone, does not (R330). -/
def Plot.dropMsg (p : Plot) (m : Msg) : Plot :=
  match m.body with
  | .notice _ _ _ _ _ _ _ _ => p
  | _ => p.discard m.tag

/-! Records (R19) and the slab (R267, R268). -/

/-- The runner record of the core; extended when asked. -/
def Core.record (c : Core) (ext : Bool) : Rec :=
  { g := c.g, pc := c.pc, st := c.st, wid := c.wid, htop := c.htop,
    vec := if ext then some ⟨c.v, c.k.set 0 0xFFFFFFFFFFFFFFFF⟩ else none }
/-- Takes a record into the registers. -/
def Core.restore (c : Core) (r : Rec) : Core :=
  let c := { c with g := r.g, obj := BitVec.ofNat 16 (fld r.pc 47 32), off := BitVec.ofNat 32 (fld r.pc 31 0), st := r.st,
                    wid := r.wid, htop := r.htop }
  match r.vec with
  | none => c
  | some x => { c with v := x.v, k := x.k }
/-- The LM words of a slot with a record: the record's (R19) and the three that follow it (R267). What a slot's filling or emptying reads and
writes of them is each of them once (log 24). -/
def Rec.slotWords (r : Rec) : Nat := (if r.vec.isSome then 88 else 20) + 3
/-- The lowest-numbered free slot (R268). -/
def Core.freeSlot (c : Core) : Option Nat := c.slab.findIdx? fun x => x.state == 0
/-- A slot becomes free: GEN moves (R267). -/
def Slot.release (x : Slot) : Slot := { gen := x.gen + 1 }

/-! Going idle (R34, R35). -/

/-- The banks of a live hand-off (R129). -/
def Core.keptBanks (c : Core) : BitVec 8 := (c.retain.map (·.2)).getD 0
/-- The bank of an LM offset: bits [5:3]. -/
def bankOf (off : Nat) : Nat := off / 8 % 8
/-- The core has just become idle (R34): no stint, and its run queue is empty. -/
def Core.isIdle (c : Core) : Bool := c.stint.isNone && c.runq.isEmpty && c.back.isNone
/-- A core that goes idle powers down each bank that LMRET does not retain, unless a continuation lives, a runner sleeps, or an
overflow place is in use (R35); a live hand-off keeps its banks (R129). A bank that was powered down reads as zero. -/
def Core.goIdle (c : Core) : Core :=
  if c.isIdle ∧ c.slab.all (·.state == 0) ∧ c.placesUsed = 0 then
    let off := ~~~(c.lmret ||| c.keptBanks)
    { c with lm := c.lm.filter fun x => !off.getLsbD (bankOf x.1), lmErr := c.lmErr.filter fun w => !off.getLsbD (bankOf w),
             bankOff := c.bankOff ||| off }
  else c

/-! The end of a stint by an abort (R28, R29, R347, R352, R353). -/

/-- The core holds a status word of its last 64 copies of a launch (R222). -/
def LCount.addX (x : LCount) (id : BitVec 16) (w : Word) : LCount :=
  { x with xdone := ((id, w) :: x.xdone.filter fun y => y.1 != id).take 64 }
/-- The core holds a status word of its last 64 jobs of a launch (R237). -/
def LCount.addJ (x : LCount) (id : BitVec 16) (w : Word) : LCount :=
  { x with jdone := ((id, w) :: x.jdone.filter fun y => y.1 != id).take 64 }

/-- Copies and jobs still buffered are discarded: their ids cease to be outstanding with status 0xFF (R347). -/
def Core.dropCommands (c : Core) : Core :=
  c.ob.foldl (fun c e => match e.body with
    | .copy j => { c.modCount j.tag.lid (·.addX j.id 0xFF) with xout := c.xout.filter fun y => y != (j.tag.lid, j.id) }
    | .mx j => { c.modCount j.tag.lid (·.addJ j.id 0xFF) with jout := c.jout.filter fun y => y != (j.tag.lid, j.id) }
    | _ => c) c

/-- The abort on the core itself: what is discarded, and what message returns to the head. -/
def Core.aborted (c : Core) (h : Hold) : Core :=
  let back := match c.stint with
    | none => none
    | some x => if x.commits = 0 then x.trig else none
  let c := c.dropCommands
  { c with ob := [], job := none, wait := .none, stint := none, back := back, hold := h,
           returned := match back with
             | none => c.returned
             | some m => some (m.ident, match c.returned with
               | some (w, n) => if w = m.ident then n + 1 else 1
               | none => 1) }.goIdle
/-- The same message has been returned three times in a row, so that its release drops it (R352, R353): its identifier. -/
def Core.thrice (c : Core) : Option Word :=
  match c.back, c.returned with
  | some m, some (w, n) => if w = m.ident ∧ n ≥ 3 then some w else none
  | _, _ => none

/-- The report of an abort (R348). -/
def Core.abortReport (c : Core) (cause : Cause) (kind : BitVec 2) (efx : Bool) (pc addr info : Word) : Report :=
  match c.stint with
  | none => { cause := cause, kind := kind, cid := c.cid, pc := pc, addr := addr, info := info, wid := c.wid }
  | some x =>
    { cause := cause, kind := kind, part := decide (x.commits > 0), efx := efx,
      ret := decide (x.commits = 0) && x.trig.isSome, commits := x.commits, cid := c.cid, lid := x.lid, pc := pc,
      msgid := (match x.trig with
        | some m => m.ident
        | none => x.token),
      addr := addr, info := info, wid := c.wid }

/-- A core of a plot: `i` is its number. -/
def Plot.core? (p : Plot) (i : Nat) : Option Core := p.cores[i]?

/-- Aborts the stint of a compute core (R28, R29): the report goes to the tile's report ring, or waits at the core while the
ring is full (R352); a machine check, as `mc` says, goes to the die's mailbox (R353). -/
def State.abortAs (s : State) (mc : Bool) (pid i : Nat) (cause : Cause) (efx : Bool) (pc addr info : Word) : State :=
  match s.plot? pid with
  | none => s
  | some p => match p.core? i with
    | none => s
    | some c =>
      let r := { c.abortReport cause (if mc then 2 else 0) efx pc addr info with
                 time := BitVec.ofNat 64 s.dev.time, pid := pid }
      let s := s.modPlot pid fun p => p.modLaunch c.lid fun l => { l with aborted := l.aborted + boolNat c.stint.isSome }
      let s := s.modPlot pid fun p => p.modCore i fun c => c.aborted (if mc then .mbrel else .svrel)
      let t := i / 32
      if mc then
        s.modDev fun d => { d with mboxes := d.mboxes.modify (p.dieOf t) fun m =>
          { m with slots := (32 * (((p.tiles[t]?).map (·.num % 48)).getD 0) + i % 32, r) :: m.slots } }
      else if ((p.tiles[t]?).map (·.svc.ringFull)).getD true then
        s.modPlot pid fun p => p.modCore i fun c => { c with report := some r }
      else s.modPlot pid fun p => p.modTile t fun t => t.modSvc fun v => v.report r

/-- An abort whose report goes where the cause's class sends it. -/
def State.abortCore (s : State) (pid i : Nat) (cause : Cause) (efx : Bool) (pc addr info : Word) : State :=
  s.abortAs (decide (cause.cls = .m)) pid i cause efx pc addr info

/-! Service traps (R349). -/

/-- The record of a compute core goes to its tile's service core and joins SVQ; the core keeps its context with ST.SVC set. -/
def State.toService (s : State) (pid i : Nat) (cause : Cause) (addr info : Word) : State :=
  s.modPlot pid fun p =>
    match p.core? i with
    | none => p
    | some c =>
      -- the cycle of the trapping instruction counts (R31)
      let c := { (c.charge 1 0).setSt 38 1 1 with hold := .service }
      let r : SvRec := { rcd := c.record c.vd, cause := cause, addr := addr, info := info, taken := none }
      (p.modCore i fun _ => c).modTile (i / 32) fun t => t.modSvc fun v =>
        { v with slots := v.slots.set (i % 32) (some r), svq := v.svq ++ [i % 32] }

/-- The way back from service (R349 step 5): the record, as the service core has changed it, returns to the core and ST.SVC is
cleared. -/
def Core.fromService (c : Core) (r : Rec) : Core := { (c.restore r).setSt 38 1 0 with hold := .free, wait := .none }

/-! Frames (R264, R265). -/

/-- The four words of a frame, as read. -/
structure Frame where
  w0 : Word
  w1 : Word
  saved : Word
  link : Word
  deriving DecidableEq, Repr

/-- The frame of four words. -/
def Frame.of (ws : List Word) : Frame := ⟨ws.getD 0 0, ws.getD 1 0, ws.getD 2 0, ws.getD 3 0⟩
/-- The identifier that a frame matches. -/
def Frame.e (f : Frame) : Nat := fld f.w0 11 0
/-- Its kind: 0 ONCE, 1 MANY, 2 NONE. -/
def Frame.kind (f : Frame) : Nat := fld f.w0 13 12
/-- HTOP.OFF (R263). -/
def hoff (h : Word) : Nat := fld h 17 0
/-- HTOP.CID (R263). -/
def hcid (h : Word) : Nat := fld h 31 18
/-- The frame at (c, F) is well formed (R265). -/
def Frame.ok (f : Frame) (c off : Nat) : Bool :=
  off != 0 && off % 8 == 0 && decide (off + 32 ≤ 0x38000) && !(decide (0xC0 ≤ f.e) && decide (f.e ≤ 0xFF)) && f.kind != 3
    && fld f.w0 15 14 == 0 && fld f.w0 63 48 == 0 && fld f.w1 63 32 == 0 && f.saved.toNat == off
    && (hoff f.link == 0 || (fld f.link 63 32 == 0 && (hcid f.link != c || decide (hoff f.link > off))))

/-! The effect: search, continuation, handler (R266 to R269). -/

/-- What a walk along the trellis comes to. -/
inductive Walk where
  | found (p : Word) (f : Frame)
  | none
  /-- a frame is not well formed: where, and the underlying cause (R266) -/
  | corrupt (p : Word) (under : Cause)
  /-- the walk reaches a frame of another core after n frames -/
  | remote (p : Word) (n : Nat)
  deriving DecidableEq, Repr

/-- The fault that reading the four words at an offset meets, word by word in ascending order (R139, R143); `bad` holds the words with an
uncorrectable error that the reader knows. -/
def frameFault (bad : List Nat) (off : Nat) : Option Cause :=
  (List.range 4).findSome? fun j =>
    let a := off + 8 * j
    if a + 8 > 0x38000 then some 0x21 else if a % 8 ≠ 0 then some 0x20 else if bad.contains a then some 0x23 else none
/-- Where a walk goes after a frame: found there, or on to its link. -/
def Frame.hit (f : Frame) (x : Nat) : Bool := f.e == x || f.e == 0xFFF

/-- The walk over frames of the core itself, from p, with n frames passed and fuel to 1,024 (R266). -/
def walk (lm : Memory) (bad : List Nat) (me : Nat) (x : Nat) : Nat → Word → Nat → Walk
  | 0, p, _ => if hoff p = 0 then .none else .corrupt p 0
  | fuel + 1, p, n =>
    if hoff p = 0 then .none
    else if hcid p ≠ me then .remote p n
    else
      match frameFault bad (hoff p) with
      | some u => .corrupt p u
      | none =>
        let f := Frame.of ((List.range 4).map fun i => lm.word (hoff p + 8 * i))
        if !f.ok me (hoff p) then .corrupt p 0
        else if f.hit x then .found p f
        else walk lm bad me x fuel f.link (n + 1)

/-- The frames that a walk reads. -/
def walkLen (lm : Memory) (bad : List Nat) (me : Nat) (x : Nat) : Nat → Word → Nat
  | 0, _ => 0
  | fuel + 1, p =>
    if hoff p = 0 ∨ hcid p ≠ me then 0
    else
      let f := Frame.of ((List.range 4).map fun i => lm.word (hoff p + 8 * i))
      if (frameFault bad (hoff p)).isSome || !f.ok me (hoff p) || f.hit x then 1
      else walkLen lm bad me x fuel f.link + 1
/-- The four words of each of n frames are read in own LM (R47). -/
def Core.readFrames (c : Core) (n : Nat) : Core := if c.stint.isNone then c else c.modCount c.lid fun x => { x with pj := x.pj + 20 * n }

/-- The token of a continuation (R270). -/
def tokenOf (cid : CoreId) (slot kind : Nat) (gen : BitVec 16) (l : Lid) : Word :=
  BitVec.ofNat 64 (cid.toNat + 2 ^ 14 * slot + 2 ^ 19 * kind + 2 ^ 24 * gen.toNat + 2 ^ 40 * l.toNat)

/-- The stint budget of a launch (R31, R37). -/
def Plot.budgetOf (p : Plot) (l : Lid) : BitVec 25 :=
  match p.launch? l with
  | some x => BitVec.ofNat 25 (if x.sbud = 0 then 100000 else x.sbud)
  | none => 100000

/-- The words M and I of the draw of R103 for the instruction that executes. The message of a completion launch is not a sown one,
and counts with its identifier. An access that executes again after an implicit migration keeps the words that it had; what the
stint executes after it counts in that stint (log 62). -/
def Plot.drawMI (p : Plot) (c : Core) : Word × Nat :=
  match c.stint with
  | none => (0, 0)
  | some x => match x.trig with
    | none => (setFld x.token 40 16 0, x.icount)
    | some g => match (if x.icount = 0 then g.draw else none) with
      | some (i, m) => (m, i)
      | none =>
        (if g.src = 0x3FFF ∧ !((p.launch? x.lid).map (·.compl)).getD false then 0 else setFld g.ident 48 16 0, x.icount)

/-- A stint starts with undefined vector registers and fresh shadow registers (R22, R31, R214, R323), and waits for no earlier result (R163). -/
def Core.fresh (c : Core) (seed : Nat) (budget : BitVec 25) : Core :=
  { c with v := Vector.ofFn fun i => Config.freeVec seed i, k := Vector.ofFn fun i => Config.freeWord seed i.val, budget := budget,
           cpsrc := 0, cpdst := 0, cplen := 0, cpstrs := 0, cpstrd := 0, cpcnt := 0, cphdl := 0, clg := 0, wait := .none, ready := [] }

/-- The handler stint of a frame, started at once (R269): the continuation is written, the buffer commits. Its record is extended when
ST.VD is set, and basic otherwise (R19, R61, R268). -/
def startHandler (p : Plot) (c : Core) (seed : Nat) (r : EffReq) (at_ : Word) (f : Frame) : Core :=
  let l := c.lid
  let c := c.commit
  let slot := c.freeSlot.getD 0
  let made := f.kind != 2
  let gen := ((c.slab[slot]?).map (·.gen)).getD 0
  let tok := if made then tokenOf c.cid slot f.kind gen l else tokenOf c.cid 0 2 0 l
  let c := if made then (c.words l (c.record c.vd).slotWords).modSlot slot fun x =>
      { x with state := 1, kind := BitVec.ofNat 2 f.kind, rcd := some (c.record c.vd), vec := r.vec,
               dreg := r.dreg, dv := r.dv, ltype := r.ltype, lid := l, fgen := BitVec.ofNat 16 (fld f.w0 31 16),
               mask := r.mask, queued := 0, resumes := 0, sleep := none, how := .parked }
    else c
  let g := ((((c.g.set 0 tok).set 1 r.arg).set 2 (BitVec.ofNat 64 r.id.toNat)).set 3 r.mask).set 15 f.saved
  let st := setFld (setFld (setFld (setFld c.st 0 1 0) 11 9 0) 32 1 0) 38 1 0
  let c := c.fresh seed (p.budgetOf l)
  let _ := at_
  { c with g := g, obj := BitVec.ofNat 16 (fld f.w0 47 32), off := BitVec.ofNat 32 (fld f.w1 31 0), htop := f.link &&& 0xFFFFFFFF, st := st,
           stint := some { lid := l, trig := none, token := tok, commits := 0, icount := 0 } }

/-- The core of a service tile stops with a machine check (R345, R353). -/
def State.svcCheck (s : State) (cause : Cause) (addr info : Word) : State :=
  match s.myPlot with
  | none => s
  | some p =>
    match p.tiles[s.cur.idx]? with
    | none => s
    | some t =>
      let r : Report := { cause := cause, kind := 2, cid := t.svc.ctx.cid, pc := t.svc.ctx.pc, addr := addr, info := info, pid := s.cur.pid,
                          time := BitVec.ofNat 64 s.dev.time }
      let s := s.modMine fun p => p.modTile s.cur.idx fun t => t.modSvc fun v => { v with stopped := true }
      s.modDev fun d => { d with mboxes := d.mboxes.modify (t.num / 48) fun m =>
        { m with slots := (1536 + t.num % 48, r) :: m.slots } }

/-- The fault that reading one word of a frame meets at its issue (R139). -/
def wordFault (off : Nat) : Option Cause := if off + 8 > 0x38000 then some 0x21 else if off % 8 ≠ 0 then some 0x20 else none
/-- A search asks for word j of a frame of another core (R266): a remote load, which leaves at once. -/
def Core.readRemote (c : Core) (q : Word) (j : Nat) : Core :=
  let op : RemOp := { tag := c.tag, dst := BitVec.ofNat 14 (hcid q), off := hoff q + 8 * j, act := .load 8, returns := true }
  { c.sentOne c.lid with ct := c.ct ++ [{ tag := c.tag, body := .remote op }], ord := c.ord + 1 }

/-- What becomes of a walk that has ended, for the core that steps (R266, R268, R269, R274). -/
def settle (s : State) (p : Plot) (c : Core) (r : EffReq) (w : Walk) : State :=
  let searching : Bool := match c.wait with
    | .search _ _ _ _ => true
    | _ => false
  -- an instruction that reads a frame of another core has sent; one that faults gives its MSGSEQ back (R194)
  -- on a service core every fault is a machine check (R345)
  let ab (cause : Cause) (efx : Bool) (addr info : Word) : State :=
    let s := if searching then s.modMe Core.unbump else s
    if s.cur.svc then s.svcCheck cause addr info else s.abortCore s.cur.pid s.cur.idx cause efx r.pc addr info
  match w with
  | .found q f =>
    if f.kind ≠ 2 ∧ c.freeSlot.isNone then ab 0x64 false 0 0
    else
      { s.modMe fun _ => startHandler p c s.fresh r q f with fresh := s.fresh + 1 }
  | .none =>
    if r.hw then ab (BitVec.ofNat 8 r.id.toNat) true r.addr r.info
    else if r.id.toNat < 0xC0 ∧ Cause.cls (BitVec.ofNat 8 r.id.toNat) = .e then
      ab (BitVec.ofNat 8 r.id.toNat) true r.addr r.info
    else ab 0x60 false 0 (BitVec.ofNat 64 r.id.toNat)
  | .corrupt q u => ab 0x63 false (BitVec.ofNat 64 (hcid q * 2 ^ 18 + hoff q)) (BitVec.ofNat 64 u.toNat)
  | .remote q n =>
    if c.det then ab 0x42 false (BitVec.ofNat 64 (0xF000000000000000 + hcid q * 2 ^ 18 + hoff q)) 0
    else match (if p.hasCore (hcid q) then wordFault (hoff q) else some 0x41) with
      | some u => ab 0x63 false (BitVec.ofNat 64 (hcid q * 2 ^ 18 + hoff q)) (BitVec.ofNat 64 u.toNat)
      | none =>
        -- the first word of the frame is asked of its core's message context; before the first such read of the search the buffer
        -- commits, and that is its one commit point (R266)
        s.modMe fun _ =>
          let c := if searching then c else c.commit
          let c' := c.readRemote q 0
          { (if searching then c' else c'.bumpSeq) with wait := .search r q [] n }

/-- The core that steps walks its own frames from p on, n having been passed, and what that comes to happens (R266). -/
def walkOn (s : State) (p : Plot) (c : Core) (r : EffReq) (fuel : Nat) (h : Word) (n : Nat) : State :=
  let c' := c.readFrames (walkLen c.lm c.lmErr c.cid.toNat r.id.toNat fuel h)
  settle (s.modMe fun _ => c') p c' r (walk c.lm c.lmErr c.cid.toNat r.id.toNat fuel h n)
/-- Offers an effect to the trellis of the core that steps; the core has already passed the instruction (R272, R278). -/
def offer (s : State) (r : EffReq) : State :=
  match s.myPlot, s.me with
  | some p, some c => walkOn s p c r 1024 c.htop 0
  | _, _ => s

/-- A search goes on when a word of a remote frame has come (R266). -/
def searchOn (s : State) (p : Plot) (c : Core) (r : EffReq) (q : Word) (ws : List Word) (n : Nat) : State :=
  if ws.length < 4 then
    match wordFault (hoff q + 8 * ws.length) with
    | some u => settle s p c r (.corrupt q u)
    | none => s.modMe fun _ => { c.readRemote q ws.length with wait := .search r q ws n }
  else
    let f := Frame.of ws
    if !f.ok (hcid q) (hoff q) then settle s p c r (.corrupt q 0)
    else if f.hit r.id.toNat then settle s p c r (.found q f)
    else if n + 1 ≥ 1024 ∧ hoff f.link ≠ 0 then settle s p c r (.corrupt f.link 0)
    else walkOn s p c r (1024 - (n + 1)) f.link (n + 1)

/-! TAKING AN EXCEPTION. -/

/-- The cause code of an instruction of the core that steps, delivered by its class (R344, R345). `len` is the instruction's
length, which a resumed continuation has passed (R268, R272); `dreg` the general register that it writes, if any. The PC
reported is that of the instruction (R89). A code of class E while a matrix job is open falls back on A (R233). -/
def trap (s : State) (cause : Cause) (addr info : Word) (len : Nat := 4) (dreg : Option Reg := none) : Out :=
  onCore s fun _ c =>
    if s.cur.svc then .next (s.svcCheck cause addr info)
    else
      let failed : Bool := match c.wait with
        | .failed _ _ _ => true
        | _ => false
      -- an uncorrectable word of the core's own LM is also logged (R368)
      let s := if cause = 0x23 ∧ !failed then s.log (some s.cur.pid) 0x23 0 c.cid.toNat c.lid.toNat addr info else s
      match cause.cls with
      | .s => .next (s.toService s.cur.pid s.cur.idx cause addr info)
      | .e =>
        if c.job.isSome then .next (s.abortCore s.cur.pid s.cur.idx cause false c.pc addr info)
        else
          let c' := (c.retire len 1).setSt 0 1 0
          .next (offer (s.modMe fun _ => c')
            { id := BitVec.ofNat 12 cause.toNat, arg := BitVec.ofNat 64 c.off.toNat, dv := dreg.isSome,
              dreg := (dreg.map (·.val)).getD 0, hw := true, pc := c.pc, addr := addr, info := info })
      | _ => .next (s.abortCore s.cur.pid s.cur.idx cause false c.pc addr info)

/-- The stint ends by its own instruction (R23): the buffer commits and the context is free; the core may go idle. -/
def Core.endStint (c : Core) : Core := { c.commit with stint := none }.goIdle

/-- An instruction that would end the stint raises MX_JOB_STATE while a job is open (R233). -/
def endable (s : State) (c : Core) (k : Out) : Out := if c.job.isSome then trap s 0x99 0 0 else k

end Sys2Proof.Machine
end

