-- ==== Sys2Proof/Machine/Flags.lean ====
section
/-! DEFINITION. The flags and fields of ST: the comparisons (R120), the conditions (R77), the sticky exceptions (R108), writes
to ST (R61), and `mx.tst` (R242). -/
namespace Sys2Proof.Machine

/-- Sets Z, N, C and V. -/
def setFlags (st : Word) (z n c v : Bool) : Word :=
  setFld st 20 4 (boolNat z + 2 * boolNat n + 4 * boolNat c + 8 * boolNat v)
/-- ST after `cmp` and `cmpi` of x and y (R120). -/
def cmpFlags (st x y : Word) : Word :=
  let r := x - y
  setFlags st (r == 0) r.msb (decide (y.toNat ≤ x.toNat)) (x.msb != y.msb && r.msb != x.msb)
/-- ST after `tst` (R120). -/
def tstFlags (st x y : Word) : Word :=
  let r := x &&& y
  setFlags st (r == 0) r.msb false false
/-- ST.Z -/
def flagZ (st : Word) : Bool := st.getLsbD 20
/-- ST.N -/
def flagN (st : Word) : Bool := st.getLsbD 21
/-- ST.C -/
def flagC (st : Word) : Bool := st.getLsbD 22
/-- ST.V -/
def flagV (st : Word) : Bool := st.getLsbD 23
/-- The condition holds (R77). -/
def holds (st : Word) : Cond → Bool
  | .eq => flagZ st
  | .ne => !flagZ st
  | .hs => flagC st
  | .lo => !flagC st
  | .mi => flagN st
  | .pl => !flagN st
  | .vs => flagV st
  | .vc => !flagV st
  | .hi => flagC st && !flagZ st
  | .ls => !flagC st || flagZ st
  | .ge => flagN st == flagV st
  | .lt => flagN st != flagV st
  | .gt => !flagZ st && flagN st == flagV st
  | .le => flagZ st || flagN st != flagV st
  | .al => true
/-- ORs exceptions into ST.FX (R60, R108). -/
def orFx (st : Word) (f : Flags) : Word :=
  st ||| BitVec.ofNat 64 (2 ^ 27 * boolNat f.nx + 2 ^ 28 * boolNat f.uf + 2 ^ 29 * boolNat f.of + 2 ^ 30 * boolNat f.dz
    + 2 ^ 31 * boolNat f.nv)
/-- ST after a `wsr` of w (R61): only the RW fields change; a bad RM is stored as RNE, and on a compute core a PRI of 0 as 1. -/
def writeSt (st w : Word) (compute : Bool) : Word :=
  let rm := fld w 26 24
  let pri := fld w 36 35
  let st := setFld st 20 13 (fld w 32 20)
  let st := setFld st 24 3 (if 1 ≤ rm ∧ rm ≤ 5 then rm else 1)
  let st := setFld st 34 1 (fld w 34 34)
  let st := setFld st 35 2 (if compute ∧ pri = 0 then 1 else pri)
  setFld st 37 1 (fld w 37 37)
/-- ST after `rrec.w` (R364): every field but DET, SVC and [63:39]. -/
def writeRecSt (st w : Word) : Word :=
  setFld (setFld (setFld st 0 33 (fld w 32 0)) 34 4 (fld w 37 34)) 24 3
    (if 1 ≤ fld w 26 24 ∧ fld w 26 24 ≤ 5 then fld w 26 24 else 1)
/-- ST after `mx.tst` of the status word w under the mask b (R242). -/
def mxTstFlags (st w b : Word) : Word :=
  setFlags st ((w &&& b) == 0) (decide (fld w 45 38 ≠ 0)) (w.getLsbD 5) (w.getLsbD 4)
/-- ST when a message of kind task, data-arrival, engine completion or claim notice starts a stint (R22). -/
def freshSt (det : Bool) (cls : BitVec 2) : Word :=
  BitVec.ofNat 64 (2 ^ 24 + 2 ^ 33 * boolNat det + 2 ^ 35 * cls.toNat)

end Sys2Proof.Machine
end

