-- ==== Sys2Proof/Machine/Operands.lean ====
section
/-! DEFINITION. Operand forms: LM addresses (R139) and their bytes and bits (R90, R143, R145), rings (R146 to R149), plot virtual
addresses and their translation (R165 to R168), what a load at a home port or in a tile cache sees (R172), acquire (R180). -/
namespace Sys2Proof.Machine

/-- A cause with ADDR and INFO. -/
abbrev Bad := Cause × Word × Word

/-! LM. -/

/-- R139: the core and the offset that an effective address names for an access of `size` bytes. -/
def lmDecode (p : Plot) (me : CoreId) (ea : Word) (size : Nat) : Except Bad (CoreId × Nat) :=
  let check (c : CoreId) (off : Nat) : Except Bad (CoreId × Nat) :=
    if off + size > 0x38000 then .error (0x21, ea, BitVec.ofNat 64 size)
    else if off % size ≠ 0 then .error (0x20, ea, BitVec.ofNat 64 size)
    else .ok (c, off)
  if ea.toNat < 0x40000 then check me ea.toNat
  else if fld ea 63 60 = 15 ∧ fld ea 59 32 = 0 then
    let c := fld ea 31 18
    if p.hasCore c then check (BitVec.ofNat 14 c) (fld ea 17 0) else .error (0x41, ea, 0)
  else .error (0x21, ea, BitVec.ofNat 64 size)
/-- The address names the LM of the core itself, by a plain offset or through its window (R139). -/
def ownLm (me : CoreId) (a : Word) : Bool :=
  decide (a.toNat < 0x40000) || decide (fld a 63 60 = 15 ∧ fld a 59 32 = 0 ∧ fld a 31 18 = me.toNat)
/-- The address has an LM form (R139). -/
def isLmForm (a : Word) : Bool := decide (a.toNat < 0x40000) || decide (fld a 63 60 = 15 ∧ fld a 59 32 = 0)
/-- The 8-byte words that bytes [off, off + n) touch include one with an uncorrectable error (R143). -/
def lmBad (c : Core) (off n : Nat) : Bool := c.lmErr.any fun w => decide (w < off + n ∧ off < w + 8)
/-- 8-byte words touched. -/
def wordsOf (off n : Nat) : Nat := if n = 0 then 0 else (off + n - 1) / 8 - off / 8 + 1
/-- A whole 8-byte word that is written loses its error mark. DESIGN CHOICE (log 99): R143 speaks of loads alone; a store that covers a part of a
word writes its bytes and keeps the mark, and `sbit` always does. -/
def clearErr (es : List Nat) (off n : Nat) : List Nat := es.filter fun w => !(decide (off ≤ w ∧ w + 8 ≤ off + n))
/-- Energy of LM words for the owner's party (R47). -/
def lmPj (off n : Nat) : Nat := 5 * wordsOf off n

/-- The condition of `sleep.ge` (R136). -/
def geHolds (w t : BitVec 32) : Bool := decide ((w - t).toInt ≥ 0)
/-- The words of the `sleep.ge` conditions that a write of LM bytes can meet are read for the sleepers' launches (R47). -/
def Core.looked (c : Core) (off n : Nat) : Core :=
  c.slab.foldl (fun c x => match x.sleep with
    | some (.lm o _) => if !x.det && decide (off < o + 4 ∧ o < off + n) then c.words x.lid 1 else c
    | _ => c) c
/-- Evaluates the sleep conditions that a write of LM bytes can meet (R136). -/
def wakeLm (c : Core) (off n : Nat) : Core :=
  (c.looked off n).wake 0 fun c cond => match cond with
    | .lm o t => decide (off < o + 4 ∧ o < off + n) && geHolds (BitVec.ofNat 32 (c.lm.num o 4)) t
    | _ => false
/-- Writes bytes into own LM as bank steps (R140, R143) and re-evaluates `sleep.ge` (R136). -/
def Core.store (c : Core) (off : Nat) (bs : List Byte) : Core :=
  wakeLm { c with lm := c.lm.write off bs, lmErr := clearErr c.lmErr off bs.length } off bs.length

/-- Bits [b, b + n) of the stream over user LM (R90, R145). -/
def lmBits (m : Memory) (b n : Nat) : Nat := m.num (b / 8) ((b % 8 + n + 7) / 8) / 2 ^ (b % 8) % 2 ^ n
/-- Writes bits of the stream. -/
def lmSetBits (m : Memory) (b n v : Nat) : Memory :=
  let k := (b % 8 + n + 7) / 8
  let old := m.num (b / 8) k
  let keep := old - (old / 2 ^ (b % 8) % 2 ^ n) * 2 ^ (b % 8)
  m.write (b / 8) (leBytes k (keep + v % 2 ^ n * 2 ^ (b % 8)))

/-! Rings (R146, R149). -/

/-- The filled count F (R146). -/
def Ring.fill (q : Ring) : Nat := (q.tail - q.head).toNat
/-- The slot size in bytes. -/
def Ring.bytes (q : Ring) : Nat := 8 * 2 ^ q.sz
/-- The offset of slot j. -/
def Ring.slotAt (q : Ring) (j : Nat) : Nat := q.base + j % 2 ^ q.cnt * q.bytes
/-- The bytes of the slot at HEAD, zero beyond a small slot, to n bytes (R76). -/
def ringHead (m : Memory) (q : Ring) (n : Nat) : List Byte :=
  m.bytes (q.slotAt q.head.toNat) (min n q.bytes) ++ List.replicate (n - min n q.bytes) 0
/-- A descriptor's change in the core. -/
def Core.setRing (c : Core) (i : QReg) (q : Ring) : Core := { c with q := c.q.set i q }
/-- Evaluates `sleep.q` conditions at an advance of a ring's tail (R134). -/
def wakeRing (c : Core) (i : QReg) : Core :=
  c.wake 0 fun c cond => match cond with
    | .ring q n => decide (q = i ∧ c.q[q].fill ≥ n)
    | _ => false
/-- A slot write with its TAIL advance, one step (R149): bytes beyond the slot are dropped, the rest is zero. -/
def Core.ringPush (c : Core) (i : QReg) (bs : List Byte) : Core :=
  let q := c.q[i]
  let n := q.bytes
  let data := bs.take n ++ List.replicate (n - min n bs.length) 0
  wakeRing ((c.store (q.slotAt q.tail.toNat) data).setRing i { q with tail := q.tail + 1 }) i
/-- HEAD advances by one (R149). -/
def Core.ringPop (c : Core) (i : QReg) : Core := c.setRing i { c.q[i] with head := c.q[i].head + 1 }

/-! Atomic functions (R203, R205). -/

/-- One RNE rounding of a sum of f32 or f64 patterns; NaN results are canonical (R205). -/
def faddCode (t : Ty) (a b : Nat) : Nat :=
  let (x, _) := addExt .rne (readTy t a) (readTy t b)
  (roundFp t .rne false 0 x).1
/-- The new value of a word (R203). -/
def aopNew (o : AOp) (wide u : Bool) (old b cmp : Nat) : Nat :=
  let w := if wide then 64 else 32
  let t : Ty := if wide then .i64 else .i32
  let lt (x y : Nat) : Bool := if u then decide (x < y) else decide (intVal t x < intVal t y)
  match o with
  | .add => (old + b) % 2 ^ w
  | .and => old &&& b
  | .or => old ||| b
  | .xor => old ^^^ b
  | .min => if lt b old then b else old
  | .max => if lt old b then b else old
  | .swap => b
  | .fadd => faddCode (if wide then .f64 else .f32) old b
  | .cas => if old = cmp then b else old
/-- The size in bytes of an atomic's word. -/
def aopSize (wide : Bool) : Nat := if wide then 8 else 4
/-- The operand as read from a register. -/
def aopArg (wide : Bool) (w : Word) : Nat := w.toNat % 2 ^ (8 * aopSize wide)
/-- The value that gd receives (R203). -/
def aopOut (o : AOp) (wide u : Bool) (old : Nat) : Word :=
  if (o = .min ∨ o = .max) ∧ !u then sextN old (8 * aopSize wide) else BitVec.ofNat 64 old

/-- The parts of an atomic's energy and line are the same for all. -/
def lineOf (a : Nat) : Nat := a / 64

/-- A home entry applied to an array: the array and the old value that a returning atomic gives (R172, R184). -/
def applyAct (m : Memory) (a : HAct) : Memory × Nat :=
  match a with
  | .store bs => (bs.foldl (fun m x => m.setMasked x.1 x.2.1 x.2.2) m, 0)
  | .atom o wide u a b cmp _ =>
    let n := aopSize wide
    let old := m.num a n
    (m.write a (leBytes n (aopNew o wide u old (aopArg wide b) (aopArg wide cmp))), old)
  | .red o wide u a b =>
    let n := aopSize wide
    (m.write a (leBytes n (aopNew o wide u (m.num a n) (aopArg wide b) 0)), 0)
  | .reds rs => (rs.foldl (fun m r => m.write r.a (leBytes (aopSize r.wide)
      (aopNew r.o r.wide r.u (m.num r.a (aopSize r.wide)) (aopArg r.wide r.b) 0))) m, 0)
  | .read _ _ => (m, 0)
/-- The array as a load at home sees it: with every WQ entry applied in order (R172). -/
def Plot.home (p : Plot) : Memory := p.wq.foldl (fun m e => (applyAct m e.act).1) p.mem

/-! Translation (R166 to R168, R373 to R375). -/

/-- The page sizes of the levels (R166). -/
def pageSize : Nat → Nat
  | 2 => 2 ^ 30
  | 3 => 2 ^ 21
  | _ => 2 ^ 16
/-- The index of a level (R166). -/
def vaIndex (va : Nat) : Nat → Nat
  | 1 => va / 2 ^ 39 % 512
  | 2 => va / 2 ^ 30 % 512
  | 3 => va / 2 ^ 21 % 512
  | _ => va / 2 ^ 16 % 32
/-- The walk from a level's table: the translation, or the level where it stopped; a stop at level 16 + l marks a home error at
level l, with the entry's address (R168). -/
def walkFrom (m : Memory) (err : Nat → Bool) (memsz va : Nat) : Nat → Nat → Nat → Except (Nat × Nat) TlbEntry
  | 0, level, tbl => .error (level, tbl)
  | fuel + 1, level, tbl =>
    let a := tbl + 8 * vaIndex va level
    if a + 8 > memsz then .error (level, a)
    else if err (lineOf a) then .error (16 + level, a)
    else
      let e := m.word a
      let leaf := fld e 1 1 = 1
      let addr := fld e 44 8 * 256
      let kind := fld e 5 4
      if fld e 0 0 = 0 ∨ fld e 7 7 ≠ 0 then .error (level, a)
      else if leaf then
        let sz := pageSize level
        let hi := fld e 63 45
        let base := if kind = 1 then addr % 2 ^ 45 + hi * 2 ^ 45 else addr
        if level = 1 ∨ addr % sz ≠ 0 ∨ kind = 3 ∨ (fld e 3 3 = 1 ∧ fld e 2 2 = 0) ∨ (kind = 0 ∧ hi ≠ 0)
            ∨ (kind = 0 ∧ base ≥ memsz) then .error (level, a)
        else .ok { page := va / sz * sz, size := sz, base := base, kind := BitVec.ofNat 2 kind, r := fld e 2 2 = 1,
                   w := fld e 3 3 = 1, nc := fld e 6 6 = 1, hi := hi }
      else if level = 4 ∨ fld e 6 2 ≠ 0 ∨ fld e 63 45 ≠ 0 ∨ addr % (if level = 3 then 256 else 4096) ≠ 0 then .error (level, a)
      else walkFrom m err memsz va fuel (level + 1) addr

/-- The level of the leaf that maps a page of a size (R166). -/
def leafLevel (size : Nat) : Nat := if size = 2 ^ 30 then 2 else if size = 2 ^ 21 then 3 else 4
/-- A line has an error that a read meets (R358, R384). -/
def Plot.lineErr (p : Plot) (l : Nat) : Option Cause := (p.memErr.find? fun e => e.1 == l).map (·.2)

/-- Two translations map an address in common. -/
def TlbEntry.meets (x e : TlbEntry) : Bool := decide (x.page < e.page + e.size ∧ e.page < x.page + x.size)
/-- Translates a virtual address through the router of a tile (R168): `acc` is 0 for a load, 1 for a store, 2 for an atomic that
returns. The router keeps at most 2,048 translations (R12); a new one takes the place of those that it overlaps, so that no old one is
used after it. DESIGN CHOICE (log 99): a router that is full gives up the translation that it has held longest, since the manual names no
replacement. -/
def translate (p : Plot) (tile va acc : Nat) : Except Bad (Loc × TlbEntry) × Plot :=
  let use (e : TlbEntry) : Except Bad (Loc × TlbEntry) :=
    let pa := e.base + (va - e.page)
    if (acc ≠ 1 ∧ !e.r) ∨ (acc ≠ 0 ∧ !e.w) then .error (0x31, BitVec.ofNat 64 va, BitVec.ofNat 64 acc)
    else if e.kind = 0 then (if pa ≥ p.memsz then .error (0x30, BitVec.ofNat 64 va, BitVec.ofNat 64 (leafLevel e.size)) else .ok (.dev pa, e))
    else if e.kind = 1 then .ok (.host pa, e) else .ok (.peer e.hi pa, e)
  let held := (p.tiles[tile]?).bind fun t => t.tlb.find? fun e => decide (e.page ≤ va ∧ va < e.page + e.size)
  match held with
  | some e => (use e, p)
  | none =>
    if fld p.ptrootEff 0 0 = 0 then (.error (0x30, BitVec.ofNat 64 va, 1), p)
    else
      match walkFrom p.home (fun l => (p.lineErr l).isSome) p.memsz va 4 1 (fld p.ptrootEff 39 12 * 4096) with
      | .error (l, a) =>
        (.error (if l ≥ 16 then (0x34, BitVec.ofNat 64 a, BitVec.ofNat 64 (l - 16)) else (0x30, BitVec.ofNat 64 va, BitVec.ofNat 64 l)), p)
      | .ok e => (use e, p.modTile tile fun t => { t with tlb := (e :: t.tlb.filter fun x => !x.meets e).take 2048 })
/-- The lines of page tables that walks have read at home, from plot p to plot q of a translation: one a level (R166, R168). -/
def walkedLines (p q : Plot) (tile : Nat) : Nat :=
  let held : List TlbEntry := ((p.tiles[tile]?).map (·.tlb)).getD []
  (((((q.tiles[tile]?).map (·.tlb)).getD []).filter fun e => !held.contains e).map fun e => leafLevel e.size).sum
/-- The lines that a failed walk has read (R168): none when a held translation gave the fault. -/
def failedLines (q : Plot) (tile : Nat) (b : Bad) : Nat :=
  let held := ((q.tiles[tile]?).map fun t => t.tlb.any fun e => decide (e.page ≤ b.2.1.toNat ∧ b.2.1.toNat < e.page + e.size)).getD false
  if fld q.ptrootEff 0 0 = 1 ∧ (b.1 = 0x34 ∨ b.1 = 0x30 ∧ !held) then b.2.2.toNat else 0
/-- The energy of what the walks of an access have read (R47), from plot p on: it counts for the launch of the access. -/
def walked {α : Type} (p : Plot) (t : Tag) (r : Except Bad α × Plot) : Except Bad α × Plot :=
  let tile := tileOf t.cid
  let n := walkedLines p r.2 tile + (match r.1 with
    | .error b => failedLines r.2 tile b
    | .ok _ => 0)
  (r.1, r.2.spendFor t (780 * n))

/-- Translates each byte of a span, page by page in ascending address; the first failure stands (R193). -/
def translateAll (p : Plot) (tile acc : Nat) : List Nat → Except Bad (List (Nat × Loc × Bool)) × Plot
  | [] => (.ok [], p)
  | va :: rest =>
    match translate p tile va acc with
    | (.error b, p) => (.error b, p)
    | (.ok (l, e), p) =>
      match translateAll p tile acc rest with
      | (.error b, p) => (.error b, p)
      | (.ok xs, p) => (.ok ((va, l, e.nc) :: xs), p)

/-! Loads (R25, R172, R200). -/

/-- An atomic or reduction covers a byte (R25). -/
def covers (o : Nat) (wide : Bool) (a : Nat) : Bool := decide (o ≤ a ∧ a < o + aopSize wide)
/-- The atomics of CT and TOQ that keep a load of a byte waiting (R25, R172); on the way to the host, everything of the core ahead of it, parked
entries among it (R187, R393). -/
def blocked (p : Plot) (c : Core) (va : Nat) (l : Loc) : Bool :=
  (c.ct.any fun e => match e.body with
    | .atom _ wide _ v _ _ _ _ => covers v wide va
    | _ => false)
  || (match l with
    | .dev a => ((p.tiles[tileOf c.cid]?).map fun t => t.toq.any fun e => match e.act with
        | .atom _ wide _ x _ _ _ => covers x wide a
        | .red _ wide _ x _ => covers x wide a
        | _ => false).getD false
    | .host _ => (p.link ++ p.park).any fun x => match x with
        | .mem e => e.before c.cid c.ord
        | _ => false
    | .peer _ _ => false)
/-- A byte with the buffered stores of OB and CT to its virtual address laid over it (R25). -/
def overlay (c : Core) (va : Nat) (b : Byte) : Byte :=
  (c.ct ++ c.ob).foldl (fun b e => match e.body with
    | .store bs => bs.foldl (fun b x => if x.va = va then (b &&& ~~~x.mask) ||| (x.val &&& x.mask) else b) b
    | _ => b) b
/-- A byte with the TOQ stores of a tile to its address laid over it (R172). -/
def overToq (t : Tile) (a : Nat) (b : Byte) : Byte :=
  t.toq.foldl (fun b e => match e.act with
    | .store bs => bs.foldl (fun b x => if x.1 = a then (b &&& ~~~x.2.2) ||| (x.2.1 &&& x.2.2) else b) b
    | _ => b) b
/-- The bits of a byte that the buffered stores of OB and CT hold (R25). -/
def heldBits (c : Core) (va : Nat) : Byte :=
  (c.ct ++ c.ob).foldl (fun m e => match e.body with
    | .store bs => bs.foldl (fun m x => if x.va = va then m ||| x.mask else m) m
    | _ => m) 0
/-- The bits of a byte that the TOQ stores of a tile hold (R172). -/
def toqBits (t : Tile) (a : Nat) : Byte :=
  t.toq.foldl (fun m e => match e.act with
    | .store bs => bs.foldl (fun m x => if x.1 = a then m ||| x.2.2 else m) m
    | _ => m) 0
/-- A byte that OB, CT and TOQ hold whole: a load of it reads nothing at home (R172). -/
def forwarded (p : Plot) (c : Core) (va : Nat) (l : Loc) : Bool :=
  (heldBits c va ||| (match l with
    | .dev a => ((p.tiles[tileOf c.cid]?).map fun t => toqBits t a).getD 0
    | _ => 0)) == 0xFF
/-- The tile cache holds a copy of the line that is in the core's view (R172). -/
def inView (p : Plot) (c : Core) (line : Nat) : Bool :=
  line ∈ c.view && ((p.tiles[tileOf c.cid]?).map fun t => t.tc.any fun x => x.1 == line).getD false
/-- A load of a byte goes to its home, or over a link: neither buffers nor a copy in view give it (R172). -/
def readsHome (p : Plot) (c : Core) (x : Nat × Loc × Bool) : Bool :=
  !forwarded p c x.1 x.2.1 && (match x.2.1 with
    | .dev a => x.2.2 || !inView p c (lineOf a)
    | _ => true)
/-- The lines that a tile cache holds: 2 MiB (R3, R12). -/
def tcLines : Nat := 32768
/-- Changes the views of a tile's cores, its service core among them (R171). -/
def Plot.modViews (p : Plot) (tile : Nat) (f : List Nat → List Nat) : Plot :=
  let look (c : Core) : Core := { c with view := f c.view }
  { p.modTile tile fun t => t.modSvc fun v => { v with ctx := look v.ctx } with
    cores := p.cores.map fun x => if tileOf x.cid = tile then look x else x }
/-- A home read of a line for a tile: its copy is installed or refreshed and joins the views of the tile's cores (R172). A full cache
gives up the copy that it has held longest, which leaves the views (DESIGN CHOICE, log 93: R172 lets any be evicted). -/
def installLine (p : Plot) (tile line : Nat) : Plot :=
  let bytes := p.home.bytes (64 * line) 64
  let rest := (((p.tiles[tile]?).map (·.tc)).getD []).filter fun x => x.1 != line
  let out := (rest.drop (tcLines - 1)).map (·.1)
  let p := p.modTile tile fun t => { t with tc := (line, bytes) :: rest.take (tcLines - 1) }
  p.modViews tile fun v => (if line ∉ v then line :: v else v).filter fun y => !out.contains y
/-- A byte that a fabric peer has given a waiting load. -/
def Core.fetched (c : Core) (va : Nat) : Option Byte :=
  match c.wait with
  | .fetch got _ _ => got.lookup va
  | _ => none
/-- What a load reads at one byte, and the plot after it (R172): `none` when the load must wait. -/
def loadByte (s : State) (p : Plot) (c : Core) (va : Nat) (l : Loc) (nc : Bool) : Option (Byte × Plot) :=
  if blocked p c va l then none
  else
    match l with
    | .dev a =>
      let tile := tileOf c.cid
      let line := lineOf a
      let fwd := forwarded p c va l
      let p' := if fwd || nc || inView p c line then p else installLine p tile line
      let raw : Byte :=
        if fwd then 0 else if nc then p.home.get a
        else ((p'.tiles[tile]?).bind fun t => (t.tc.find? fun x => x.1 == line).bind fun x => x.2[a % 64]?).getD 0
      some (overlay c va (((p'.tiles[tile]?).map fun t => overToq t a raw).getD raw), p')
    | .host a => some (overlay c va (s.dev.host.get a), p)
    | .peer _ _ => (if forwarded p c va l then some 0 else c.fetched va).map fun b => (overlay c va b, p)
/-- The bytes of a load, in order. -/
def loadBytes (s : State) (c : Core) : Plot → List (Nat × Loc × Bool) → Option (List Byte × Plot)
  | p, [] => some ([], p)
  | p, (va, l, nc) :: rest =>
    let c' := ((p.ctx? c.cid).map (·.view)).getD c.view
    match loadByte s p { c with view := c' } va l nc with
    | none => none
    | some (b, p) => (loadBytes s c p rest).map fun r => (b :: r.1, r.2)
/-- A peer refuses an access to its memory (R387). -/
def peerRefuses (s : State) (job : BitVec 32) (d a : Nat) : Bool :=
  match s.dev.peers.find? fun x => x.dev == d with
  | none => true
  | some x => x.job != job || decide (a ≥ x.memsz)
/-- The fault that a load meets at home before it takes a value (R200): a bad line. The syndrome of an ECC error is free. -/
def loadFault (p : Plot) (c : Core) (xs : List (Nat × Loc × Bool)) : Option Bad :=
  xs.findSome? fun x => match x.2.1 with
    | .dev a => if readsHome p c x then
        (p.lineErr (lineOf a)).map fun e => (e, BitVec.ofNat 64 x.1, if e = 0xB2 then Config.freeWord a 0 else 0) else none
    | _ => none
/-- The host is lost, and answers a load that reaches it with receiver-not-ready (R392). -/
def hostAway (s : State) (p : Plot) (c : Core) (xs : List (Nat × Loc × Bool)) : Bool :=
  s.dev.hostlost && xs.any fun x => match x.2.1 with
    | .host _ => readsHome p c x
    | _ => false
/-- The wait in ns after try n (R355). -/
def rnrWait (n : Nat) : Nat := min (200 * 2 ^ (n - 1)) 100000
/-- An acquire at a scope empties the view when the scope is wider than tile (R180). -/
def Core.acquire (c : Core) (sc : Scope) : Core :=
  match sc with
  | .die => { c with view := [] }
  | .package => { c with view := [] }
  | .system => { c with view := [] }
  | _ => c

/-- Puts a changed plot in place, with the core that steps as given. -/
def putPlot (s : State) (p : Plot) (c : Core) : State := (s.modMine fun _ => p).modMe fun _ => c
/-- The core that steps, as the plot now holds it. -/
def coreIn (p : Plot) (c : Core) : Core := (p.ctx? c.cid).getD c

/-- The first byte of a load that a fabric peer has still to give: its address, the peer and the place there. -/
def nextFetch (p : Plot) (c : Core) (xs : List (Nat × Loc × Bool)) : Option (Nat × Nat × Nat) :=
  xs.findSome? fun x => match x.2.1 with
    | .peer d a => if forwarded p c x.1 x.2.1 || (c.fetched x.1).isSome then none else some (x.1, d, a)
    | _ => none
/-- A load asks a peer for the 8-byte word that holds a byte (R177, R385): a packet sets out, and the stint waits for the bytes from
virtual address `v` on. What the core's buffers hold of them now is kept with it. -/
def State.fetchWord (s : State) (c : Core) (va d a : Nat) : State :=
  let v := va - a % 8
  let got := match c.wait with
    | .fetch g _ _ => g
    | _ => []
  let e : HEntry := { tags := [c.tag], line := lineOf a, va := va, act := .read (a / 8 * 8) 8, tile := tileOf c.cid, peer := d }
  (s.toFabric s.cur.pid e).modMe fun c =>
    { c with wait := .fetch got (some v) ((List.range 8).map fun i => (heldBits c (v + i), overlay c (v + i) 0)), ord := c.ord + 1 }

/-- A load of translated bytes: the value goes to `k`, or the stint stalls (R200), is retried (R355), asks a peer (R385), or traps. -/
def loadThen (s : State) (p : Plot) (c : Core) (xs : List (Nat × Loc × Bool)) (len : Nat)
    (k : Plot → Core → List Byte → Out) : Out :=
  let s1 := s.modMine fun _ => p
  match (match c.wait with
    | .failed cause a i => some (cause, a, i)
    | _ => loadFault p c xs) with
  | some (cause, a, i) => trap s1 cause a i len
  | none =>
    let (tries, next) := match c.wait with
      | .retry n t => (n, t)
      | _ => (0, 0)
    if s.dev.time < next then .next s1
    else if hostAway s p c xs then
      if tries + 1 ≥ p.rtries then
        trap (s1.modMe fun c => c.setSt 38 1 0) 0x40 (BitVec.ofNat 64 ((xs.head?.map (·.1)).getD 0)) (BitVec.ofNat 64 (tries + 1)) len
      else .next (s1.modMe fun c => { c.setSt 38 1 1 with wait := .retry (tries + 1) (s.dev.time + rnrWait (tries + 1)) })
    else
      let c := match c.wait with
        | .retry _ _ => { c.setSt 38 1 0 with wait := .none }
        | _ => c
      match loadBytes s c p xs with
      | some (bs, p) => k p { c with view := (coreIn p c).view } bs
      | none =>
        let out : Bool := match c.wait with
          | .fetch _ o _ => o.isSome
          | _ => false
        match (if out || xs.any fun x => blocked p c x.1 x.2.1 then none else nextFetch p c xs) with
        | some (va, d, a) => .next ((s1.modMe fun _ => c.stall).fetchWord c va d a)
        | none => .next (s1.modMe fun _ => c.stall)

end Sys2Proof.Machine
end

