-- ==== Sys2Proof/Machine/Prefix.lean ====
section
/-! DEFINITION. The two forms that change the next instruction, and the checks before an instruction executes: fetching (R64,
R117), the order of decode faults (R89), the pending format (R78 to R81), the repeat (R82 to R86). -/
namespace Sys2Proof.Machine

/-- The number in a vb field and the last number of the file that it names (R84). -/
def VSrc.field : VSrc → Nat × Nat
  | .reg b => (b.val, 7)
  | .ring q _ => (q.val, 7)
/-- A vb field that has advanced. -/
def VSrc.plus (x : VSrc) (k : Nat) : VSrc :=
  match x with
  | .reg b => .reg (Fin.ofNat 8 (b + k))
  | .ring q w => .ring (Fin.ofNat 8 (q + k)) w

/-- For an instruction that accepts a repeat (R84): the number in each of the fields d, a and b that names a register, and the
last number of its file. A compact op has the fields of its own word (log 14). -/
def rptFields : Instr → Option (Option (Nat × Nat) × Option (Nat × Nat) × Option (Nat × Nat))
  | .add d a b => some (some (d.val, 15), some (a.val, 15), some (b.val, 15))
  | .sub d a b => some (some (d.val, 15), some (a.val, 15), some (b.val, 15))
  | .and d a b => some (some (d.val, 15), some (a.val, 15), some (b.val, 15))
  | .or d a b => some (some (d.val, 15), some (a.val, 15), some (b.val, 15))
  | .xor d a b => some (some (d.val, 15), some (a.val, 15), some (b.val, 15))
  | .andn d a b => some (some (d.val, 15), some (a.val, 15), some (b.val, 15))
  | .shl d a b => some (some (d.val, 15), some (a.val, 15), some (b.val, 15))
  | .shr d a b => some (some (d.val, 15), some (a.val, 15), some (b.val, 15))
  | .sra d a b => some (some (d.val, 15), some (a.val, 15), some (b.val, 15))
  | .rotl d a b => some (some (d.val, 15), some (a.val, 15), some (b.val, 15))
  | .minI64 d a b => some (some (d.val, 15), some (a.val, 15), some (b.val, 15))
  | .maxI64 d a b => some (some (d.val, 15), some (a.val, 15), some (b.val, 15))
  | .minN64 d a b => some (some (d.val, 15), some (a.val, 15), some (b.val, 15))
  | .maxN64 d a b => some (some (d.val, 15), some (a.val, 15), some (b.val, 15))
  | .mov d a => some (some (d.val, 15), some (a.val, 15), none)
  | .cmp a b => some (none, some (a.val, 15), some (b.val, 15))
  | .tst a b => some (none, some (a.val, 15), some (b.val, 15))
  | .mul d a b => some (some (d.val, 15), some (a.val, 15), some (b.val, 15))
  | .mulhI64 d a b => some (some (d.val, 15), some (a.val, 15), some (b.val, 15))
  | .mulhN64 d a b => some (some (d.val, 15), some (a.val, 15), some (b.val, 15))
  | .divI64 d a b => some (some (d.val, 15), some (a.val, 15), some (b.val, 15))
  | .divN64 d a b => some (some (d.val, 15), some (a.val, 15), some (b.val, 15))
  | .remI64 d a b => some (some (d.val, 15), some (a.val, 15), some (b.val, 15))
  | .remN64 d a b => some (some (d.val, 15), some (a.val, 15), some (b.val, 15))
  | .clz d a => some (some (d.val, 15), some (a.val, 15), none)
  | .ctz d a => some (some (d.val, 15), some (a.val, 15), none)
  | .pop d a => some (some (d.val, 15), some (a.val, 15), none)
  | .bext d a b => some (some (d.val, 15), some (a.val, 15), some (b.val, 15))
  | .bexts d a b => some (some (d.val, 15), some (a.val, 15), some (b.val, 15))
  | .bins d a b => some (some (d.val, 15), some (a.val, 15), some (b.val, 15))
  | .sel _ d a b => some (some (d.val, 15), some (a.val, 15), some (b.val, 15))
  | .addi d a _ => some (some (d.val, 15), some (a.val, 15), none)
  | .li d _ => some (some (d.val, 15), none, none)
  | .lhi d _ _ => some (some (d.val, 15), none, none)
  | .cmpi d _ => some (some (d.val, 15), none, none)
  | .shli d a _ => some (some (d.val, 15), some (a.val, 15), none)
  | .shri d a _ => some (some (d.val, 15), some (a.val, 15), none)
  | .srai d a _ => some (some (d.val, 15), some (a.val, 15), none)
  | .rotli d a _ => some (some (d.val, 15), some (a.val, 15), none)
  | .ld _ _ _ a d => some (some (d.val, 15), some (a.val, 15), none)
  | .st _ _ _ a d => some (some (d.val, 15), some (a.val, 15), none)
  | .lbit _ _ _ _ d => some (some (d.val, 15), none, none)
  | .sbit _ _ _ d => some (some (d.val, 15), none, none)
  | .baSet _ a b => some (none, some (a.val, 15), some (b.val, 15))
  | .vadd _ _ b a d _ => some (some (d.val, 7), some (a.val, 7), some (VSrc.field b))
  | .vsub _ _ b a d _ => some (some (d.val, 7), some (a.val, 7), some (VSrc.field b))
  | .vmul _ _ b a d _ => some (some (d.val, 7), some (a.val, 7), some (VSrc.field b))
  | .vfma _ _ b a d _ => some (some (d.val, 7), some (a.val, 7), some (VSrc.field b))
  | .vdiv _ _ b a d _ => some (some (d.val, 7), some (a.val, 7), some (VSrc.field b))
  | .vsqrt _ _ a d _ => some (some (d.val, 7), some (a.val, 7), none)
  | .vrcp _ _ a d _ => some (some (d.val, 7), some (a.val, 7), none)
  | .vrsq _ _ a d _ => some (some (d.val, 7), some (a.val, 7), none)
  | .vmin _ _ b a d _ => some (some (d.val, 7), some (a.val, 7), some (VSrc.field b))
  | .vmax _ _ b a d _ => some (some (d.val, 7), some (a.val, 7), some (VSrc.field b))
  | .vcmp _ _ _ b a c => some (some (c.val, 3), some (a.val, 7), some (VSrc.field b))
  | .vsel _ _ b a d => some (some (d.val, 7), some (a.val, 7), some (VSrc.field b))
  | .vand _ _ b a d => some (some (d.val, 7), some (a.val, 7), some (VSrc.field b))
  | .vor _ _ b a d => some (some (d.val, 7), some (a.val, 7), some (VSrc.field b))
  | .vxor _ _ b a d => some (some (d.val, 7), some (a.val, 7), some (VSrc.field b))
  | .vshl _ _ b a d => some (some (d.val, 7), some (a.val, 7), some (VSrc.field b))
  | .vshr _ _ b a d => some (some (d.val, 7), some (a.val, 7), some (VSrc.field b))
  | .vred _ _ _ a d _ => some (some (d.val, 7), some (a.val, 7), none)
  | .vperm _ _ b a d => some (some (d.val, 7), some (a.val, 7), some (b.val, 7))
  | .vbcast _ _ a d => some (some (d.val, 7), some (a.val, 7), none)
  | .vcvt _ _ _ _ a d _ => some (some (d.val, 7), some (a.val, 7), none)
  | .vsumQ _ _ q d _ => some (some (d.val, 7), none, some (q.val, 7))
  | .vld _ _ a d _ => some (some (d.val, 7), some (a.val, 7), none)
  | .vst _ _ _ a d _ => some (some (d.val, 7), some (a.val, 7), none)
  | .vlds _ _ n a d _ => some (some (d.val, 7), some (a.val, 7), some (n.val, 7))
  | .vsts _ _ n a d _ => some (some (d.val, 7), some (a.val, 7), some (n.val, 7))
  | .vgat _ _ b a d _ => some (some (d.val, 7), some (a.val, 7), some (b.val, 7))
  | .vsct _ _ b a d _ => some (some (d.val, 7), some (a.val, 7), some (b.val, 7))
  | .vlbit _ _ _ d _ => some (some (d.val, 7), none, none)
  | .movCompact a d => some (some (d.val, 15), some (a.val, 15), none)
  | .addCompact a d => some (some (d.val, 15), some (a.val, 15), none)
  | .subCompact a d => some (some (d.val, 15), some (a.val, 15), none)
  | .andCompact a d => some (some (d.val, 15), some (a.val, 15), none)
  | .orCompact a d => some (some (d.val, 15), some (a.val, 15), none)
  | .xorCompact a d => some (some (d.val, 15), some (a.val, 15), none)
  | .addiCompact _ d => some (some (d.val, 15), none, none)
  | .liCompact _ d => some (some (d.val, 15), none, none)
  | .shliCompact _ d => some (some (d.val, 15), none, none)
  | .shriCompact _ d => some (some (d.val, 15), none, none)
  | .sraiCompact _ d => some (some (d.val, 15), none, none)
  | .cmpCompact a d => some (some (d.val, 15), some (a.val, 15), none)
  | .cmpiCompact _ d => some (some (d.val, 15), none, none)
  | .ldN64Compact _ a d => some (some (d.val, 15), some (a.val, 15), none)
  | .stN64Compact _ a d => some (some (d.val, 15), some (a.val, 15), none)
  | .ldN32Compact _ a d => some (some (d.val, 15), some (a.val, 15), none)
  | .stN32Compact _ a d => some (some (d.val, 15), some (a.val, 15), none)
  | .tstCompact a d => some (some (d.val, 15), some (a.val, 15), none)
  | .andnCompact a d => some (some (d.val, 15), some (a.val, 15), none)
  | _ => none

/-- The repeated instruction with its fields advanced by kd, ka and kb (R83). -/
def rptAdvance (i : Instr) (kd ka kb : Nat) : Instr :=
  match i with
  | .add d a b => .add (Fin.ofNat 16 (d + kd)) (Fin.ofNat 16 (a + ka)) (Fin.ofNat 16 (b + kb))
  | .sub d a b => .sub (Fin.ofNat 16 (d + kd)) (Fin.ofNat 16 (a + ka)) (Fin.ofNat 16 (b + kb))
  | .and d a b => .and (Fin.ofNat 16 (d + kd)) (Fin.ofNat 16 (a + ka)) (Fin.ofNat 16 (b + kb))
  | .or d a b => .or (Fin.ofNat 16 (d + kd)) (Fin.ofNat 16 (a + ka)) (Fin.ofNat 16 (b + kb))
  | .xor d a b => .xor (Fin.ofNat 16 (d + kd)) (Fin.ofNat 16 (a + ka)) (Fin.ofNat 16 (b + kb))
  | .andn d a b => .andn (Fin.ofNat 16 (d + kd)) (Fin.ofNat 16 (a + ka)) (Fin.ofNat 16 (b + kb))
  | .shl d a b => .shl (Fin.ofNat 16 (d + kd)) (Fin.ofNat 16 (a + ka)) (Fin.ofNat 16 (b + kb))
  | .shr d a b => .shr (Fin.ofNat 16 (d + kd)) (Fin.ofNat 16 (a + ka)) (Fin.ofNat 16 (b + kb))
  | .sra d a b => .sra (Fin.ofNat 16 (d + kd)) (Fin.ofNat 16 (a + ka)) (Fin.ofNat 16 (b + kb))
  | .rotl d a b => .rotl (Fin.ofNat 16 (d + kd)) (Fin.ofNat 16 (a + ka)) (Fin.ofNat 16 (b + kb))
  | .minI64 d a b => .minI64 (Fin.ofNat 16 (d + kd)) (Fin.ofNat 16 (a + ka)) (Fin.ofNat 16 (b + kb))
  | .maxI64 d a b => .maxI64 (Fin.ofNat 16 (d + kd)) (Fin.ofNat 16 (a + ka)) (Fin.ofNat 16 (b + kb))
  | .minN64 d a b => .minN64 (Fin.ofNat 16 (d + kd)) (Fin.ofNat 16 (a + ka)) (Fin.ofNat 16 (b + kb))
  | .maxN64 d a b => .maxN64 (Fin.ofNat 16 (d + kd)) (Fin.ofNat 16 (a + ka)) (Fin.ofNat 16 (b + kb))
  | .mov d a => .mov (Fin.ofNat 16 (d + kd)) (Fin.ofNat 16 (a + ka))
  | .cmp a b => .cmp (Fin.ofNat 16 (a + ka)) (Fin.ofNat 16 (b + kb))
  | .tst a b => .tst (Fin.ofNat 16 (a + ka)) (Fin.ofNat 16 (b + kb))
  | .mul d a b => .mul (Fin.ofNat 16 (d + kd)) (Fin.ofNat 16 (a + ka)) (Fin.ofNat 16 (b + kb))
  | .mulhI64 d a b => .mulhI64 (Fin.ofNat 16 (d + kd)) (Fin.ofNat 16 (a + ka)) (Fin.ofNat 16 (b + kb))
  | .mulhN64 d a b => .mulhN64 (Fin.ofNat 16 (d + kd)) (Fin.ofNat 16 (a + ka)) (Fin.ofNat 16 (b + kb))
  | .divI64 d a b => .divI64 (Fin.ofNat 16 (d + kd)) (Fin.ofNat 16 (a + ka)) (Fin.ofNat 16 (b + kb))
  | .divN64 d a b => .divN64 (Fin.ofNat 16 (d + kd)) (Fin.ofNat 16 (a + ka)) (Fin.ofNat 16 (b + kb))
  | .remI64 d a b => .remI64 (Fin.ofNat 16 (d + kd)) (Fin.ofNat 16 (a + ka)) (Fin.ofNat 16 (b + kb))
  | .remN64 d a b => .remN64 (Fin.ofNat 16 (d + kd)) (Fin.ofNat 16 (a + ka)) (Fin.ofNat 16 (b + kb))
  | .clz d a => .clz (Fin.ofNat 16 (d + kd)) (Fin.ofNat 16 (a + ka))
  | .ctz d a => .ctz (Fin.ofNat 16 (d + kd)) (Fin.ofNat 16 (a + ka))
  | .pop d a => .pop (Fin.ofNat 16 (d + kd)) (Fin.ofNat 16 (a + ka))
  | .bext d a b => .bext (Fin.ofNat 16 (d + kd)) (Fin.ofNat 16 (a + ka)) (Fin.ofNat 16 (b + kb))
  | .bexts d a b => .bexts (Fin.ofNat 16 (d + kd)) (Fin.ofNat 16 (a + ka)) (Fin.ofNat 16 (b + kb))
  | .bins d a b => .bins (Fin.ofNat 16 (d + kd)) (Fin.ofNat 16 (a + ka)) (Fin.ofNat 16 (b + kb))
  | .sel c d a b => .sel c (Fin.ofNat 16 (d + kd)) (Fin.ofNat 16 (a + ka)) (Fin.ofNat 16 (b + kb))
  | .addi d a i => .addi (Fin.ofNat 16 (d + kd)) (Fin.ofNat 16 (a + ka)) i
  | .li d i => .li (Fin.ofNat 16 (d + kd)) i
  | .lhi d i h => .lhi (Fin.ofNat 16 (d + kd)) i h
  | .cmpi d i => .cmpi (Fin.ofNat 16 (d + kd)) i
  | .shli d a n => .shli (Fin.ofNat 16 (d + kd)) (Fin.ofNat 16 (a + ka)) n
  | .shri d a n => .shri (Fin.ofNat 16 (d + kd)) (Fin.ofNat 16 (a + ka)) n
  | .srai d a n => .srai (Fin.ofNat 16 (d + kd)) (Fin.ofNat 16 (a + ka)) n
  | .rotli d a n => .rotli (Fin.ofNat 16 (d + kd)) (Fin.ofNat 16 (a + ka)) n
  | .ld k p o a d => .ld k p o (Fin.ofNat 16 (a + ka)) (Fin.ofNat 16 (d + kd))
  | .st k p o a d => .st k p o (Fin.ofNat 16 (a + ka)) (Fin.ofNat 16 (d + kd))
  | .lbit x p sg w d => .lbit x p sg w (Fin.ofNat 16 (d + kd))
  | .sbit x p w d => .sbit x p w (Fin.ofNat 16 (d + kd))
  | .baSet x a b => .baSet x (Fin.ofNat 16 (a + ka)) (Fin.ofNat 16 (b + kb))
  | .vadd t k b a d m => .vadd t k (VSrc.plus b kb) (Fin.ofNat 8 (a + ka)) (Fin.ofNat 8 (d + kd)) m
  | .vsub t k b a d m => .vsub t k (VSrc.plus b kb) (Fin.ofNat 8 (a + ka)) (Fin.ofNat 8 (d + kd)) m
  | .vmul t k b a d m => .vmul t k (VSrc.plus b kb) (Fin.ofNat 8 (a + ka)) (Fin.ofNat 8 (d + kd)) m
  | .vfma t k b a d m => .vfma t k (VSrc.plus b kb) (Fin.ofNat 8 (a + ka)) (Fin.ofNat 8 (d + kd)) m
  | .vdiv t k b a d m => .vdiv t k (VSrc.plus b kb) (Fin.ofNat 8 (a + ka)) (Fin.ofNat 8 (d + kd)) m
  | .vsqrt t k a d m => .vsqrt t k (Fin.ofNat 8 (a + ka)) (Fin.ofNat 8 (d + kd)) m
  | .vrcp t k a d m => .vrcp t k (Fin.ofNat 8 (a + ka)) (Fin.ofNat 8 (d + kd)) m
  | .vrsq t k a d m => .vrsq t k (Fin.ofNat 8 (a + ka)) (Fin.ofNat 8 (d + kd)) m
  | .vmin t k b a d m => .vmin t k (VSrc.plus b kb) (Fin.ofNat 8 (a + ka)) (Fin.ofNat 8 (d + kd)) m
  | .vmax t k b a d m => .vmax t k (VSrc.plus b kb) (Fin.ofNat 8 (a + ka)) (Fin.ofNat 8 (d + kd)) m
  | .vcmp p t k b a c => .vcmp p t k (VSrc.plus b kb) (Fin.ofNat 8 (a + ka)) (Fin.ofNat 4 (c + kd))
  | .vsel t k b a d => .vsel t k (VSrc.plus b kb) (Fin.ofNat 8 (a + ka)) (Fin.ofNat 8 (d + kd))
  | .vand t k b a d => .vand t k (VSrc.plus b kb) (Fin.ofNat 8 (a + ka)) (Fin.ofNat 8 (d + kd))
  | .vor t k b a d => .vor t k (VSrc.plus b kb) (Fin.ofNat 8 (a + ka)) (Fin.ofNat 8 (d + kd))
  | .vxor t k b a d => .vxor t k (VSrc.plus b kb) (Fin.ofNat 8 (a + ka)) (Fin.ofNat 8 (d + kd))
  | .vshl t k b a d => .vshl t k (VSrc.plus b kb) (Fin.ofNat 8 (a + ka)) (Fin.ofNat 8 (d + kd))
  | .vshr t k b a d => .vshr t k (VSrc.plus b kb) (Fin.ofNat 8 (a + ka)) (Fin.ofNat 8 (d + kd))
  | .vred o t k a d m => .vred o t k (Fin.ofNat 8 (a + ka)) (Fin.ofNat 8 (d + kd)) m
  | .vperm t k b a d => .vperm t k (Fin.ofNat 8 (b + kb)) (Fin.ofNat 8 (a + ka)) (Fin.ofNat 8 (d + kd))
  | .vbcast t k a d => .vbcast t k (Fin.ofNat 8 (a + ka)) (Fin.ofNat 8 (d + kd))
  | .vcvt src t k p a d m => .vcvt src t k p (Fin.ofNat 8 (a + ka)) (Fin.ofNat 8 (d + kd)) m
  | .vsumQ t k q d m => .vsumQ t k (Fin.ofNat 8 (q + kb)) (Fin.ofNat 8 (d + kd)) m
  | .vld t k a d m => .vld t k (Fin.ofNat 8 (a + ka)) (Fin.ofNat 8 (d + kd)) m
  | .vst t k y a d m => .vst t k y (Fin.ofNat 8 (a + ka)) (Fin.ofNat 8 (d + kd)) m
  | .vlds t k n a d m => .vlds t k (Fin.ofNat 8 (n + kb)) (Fin.ofNat 8 (a + ka)) (Fin.ofNat 8 (d + kd)) m
  | .vsts t k n a d m => .vsts t k (Fin.ofNat 8 (n + kb)) (Fin.ofNat 8 (a + ka)) (Fin.ofNat 8 (d + kd)) m
  | .vgat t k b a d m => .vgat t k (Fin.ofNat 8 (b + kb)) (Fin.ofNat 8 (a + ka)) (Fin.ofNat 8 (d + kd)) m
  | .vsct t k b a d m => .vsct t k (Fin.ofNat 8 (b + kb)) (Fin.ofNat 8 (a + ka)) (Fin.ofNat 8 (d + kd)) m
  | .vlbit t k x d m => .vlbit t k x (Fin.ofNat 8 (d + kd)) m
  | .movCompact a d => .movCompact (Fin.ofNat 16 (a + ka)) (Fin.ofNat 16 (d + kd))
  | .addCompact a d => .addCompact (Fin.ofNat 16 (a + ka)) (Fin.ofNat 16 (d + kd))
  | .subCompact a d => .subCompact (Fin.ofNat 16 (a + ka)) (Fin.ofNat 16 (d + kd))
  | .andCompact a d => .andCompact (Fin.ofNat 16 (a + ka)) (Fin.ofNat 16 (d + kd))
  | .orCompact a d => .orCompact (Fin.ofNat 16 (a + ka)) (Fin.ofNat 16 (d + kd))
  | .xorCompact a d => .xorCompact (Fin.ofNat 16 (a + ka)) (Fin.ofNat 16 (d + kd))
  | .addiCompact i d => .addiCompact i (Fin.ofNat 16 (d + kd))
  | .liCompact i d => .liCompact i (Fin.ofNat 16 (d + kd))
  | .shliCompact u d => .shliCompact u (Fin.ofNat 16 (d + kd))
  | .shriCompact u d => .shriCompact u (Fin.ofNat 16 (d + kd))
  | .sraiCompact u d => .sraiCompact u (Fin.ofNat 16 (d + kd))
  | .cmpCompact a d => .cmpCompact (Fin.ofNat 16 (a + ka)) (Fin.ofNat 16 (d + kd))
  | .cmpiCompact i d => .cmpiCompact i (Fin.ofNat 16 (d + kd))
  | .ldN64Compact p a d => .ldN64Compact p (Fin.ofNat 16 (a + ka)) (Fin.ofNat 16 (d + kd))
  | .stN64Compact p a d => .stN64Compact p (Fin.ofNat 16 (a + ka)) (Fin.ofNat 16 (d + kd))
  | .ldN32Compact p a d => .ldN32Compact p (Fin.ofNat 16 (a + ka)) (Fin.ofNat 16 (d + kd))
  | .stN32Compact p a d => .stN32Compact p (Fin.ofNat 16 (a + ka)) (Fin.ofNat 16 (d + kd))
  | .tstCompact a d => .tstCompact (Fin.ofNat 16 (a + ka)) (Fin.ofNat 16 (d + kd))
  | .andnCompact a d => .andnCompact (Fin.ofNat 16 (a + ka)) (Fin.ofNat 16 (d + kd))
  | i => i

/-- The step of a repeat (R82). -/
def rptStep (c : Core) : Nat := 2 ^ c.stBits 16 15
/-- The latched source format (R81). -/
def Core.pf (c : Core) : Ty := (Ty.ofFmt (c.stBits 4 1)).getD .f64
/-- The latched destination format. -/
def Core.pd (c : Core) : Ty := (Ty.ofFmt (c.stBits 8 5)).getD .f64
/-- The latched scale source. -/
def Core.ps (c : Core) : ScaleSrc := (ScaleSrc.of (c.stBits 10 9)).getD .none

/-- The lane types that a memory format may be converted to and from (R160). -/
def memLane (t : Ty) : Bool :=
  match t with
  | .f64 => true | .f32 => true | .f16 => true | .bf16 => true | .i8 => true | .i16 => true | .i32 => true
  | .n8 => true | .n16 => true
  | _ => false
/-- The pair of a plain vector load or store: memory format m, lane type l, the type field t (R160). -/
def pairPlain (m l t : Ty) : Bool := l == t && memLane l && (m != .blk4 || l == .f16 || l == .bf16)
/-- The pair of a strided or indexed form: whole bytes only (R161). -/
def pairBytes (m l t : Ty) : Bool := l == t && memLane l && m.width ≥ 8
/-- The formats of `vcvt` under a format form (R157). -/
def cvtFmt (t : Ty) : Bool := (memLane t) || t == .e4m3 || t == .e5m2
/-- A format pair of R240 that a compute operation may name. -/
def mxPair (a b : Ty) : Bool :=
  let h (t : Ty) : Bool := t == .f16 || t == .bf16
  let i16 (t : Ty) : Bool := t == .i16 || t == .n16 || t == .i8 || t == .n8
  let small (t : Ty) : Bool := t == .e4m3 || t == .e5m2 || t == .e3m2 || t == .e2m3 || t == .blk4
  (a == .f64 && b == .f64) || (a == .f32 && b == .f32) || (h a && h b) || (i16 a && i16 b) || (small a && small b)
    || (a == .i4 && b == .i4)
/-- The destination formats of `mx.st` (R253). -/
def mxStFmt (t : Ty) : Bool :=
  match t with
  | .f64 => true | .f32 => true | .f16 => true | .bf16 => true | .e4m3 => true | .e5m2 => true | .e3m2 => true | .e2m3 => true
  | .i8 => true | .i16 => true | .i32 => true | .n8 => true | .n16 => true
  | _ => false

/-- The instruction accepts the latched pair (R80, R81 and the entries). -/
def acceptsFmt (i : Instr) (pf pd : Ty) (ps : ScaleSrc) : Bool :=
  let noblk := ps == .none || pf == .blk4 || pd == .blk4
  match i with
  | .vld t _ _ _ _ => noblk && pairPlain pf pd t
  | .vst t _ _ _ _ _ => noblk && pairPlain pd pf t
  | .vlds t _ _ _ _ _ => noblk && pairBytes pf pd t
  | .vsts t _ _ _ _ _ => noblk && pairBytes pd pf t
  | .vgat t _ _ _ _ _ => noblk && pairBytes pf pd t
  | .vsct t _ _ _ _ _ => noblk && pairBytes pd pf t
  | .vlbit t _ _ _ _ => noblk && pf != .blk4 && pd == t && memLane pd
  | .vcvt s t _ _ _ _ _ => noblk && s == .f64 && t == .f64 && cvtFmt pf && cvtFmt pd
  | .gvld t _ _ _ _ => noblk && pairPlain pf pd t
  | .gvst t _ _ _ _ => noblk && pairPlain pd pf t
  | .gvgat t _ _ _ _ => noblk && pairBytes pf pd t
  | .gvsct t _ _ _ _ => noblk && pairBytes pd pf t
  | .mxLda _ _ _ => noblk && pf == pd && pf != .i32
  | .mxLdb _ _ _ => noblk && pf == pd && pf != .i32
  | .mxMma _ => noblk && mxPair pf pd
  | .mxMmas _ => noblk && mxPair pf pd
  | .mxMrot _ _ => noblk && mxPair pf pd
  | .mxSt _ _ _ _ _ _ => noblk && (pf == .f32 || pf == .f64) && mxStFmt pd
  | .mxQnt _ _ _ _ => (pf == .f32 || pf == .f64) && (pd == .blk4 || pd == .e4m3 || pd == .e5m2) && (pd != .blk4 || ps != .none)
  | _ => false

/-- The instruction may be executed only by a service core (R63, R361). -/
def serviceOnly : Instr → Bool
  | .sret _ _ => true
  | .rrec _ _ _ => true
  | .rrecW _ _ _ => true
  | .tlbi _ => true
  | .tlbiVa _ _ => true
  | .mbox _ _ => true
  | .rsr _ n => 0x800 ≤ n.toNat
  | .wsr n _ => 0x800 ≤ n.toNat
  | _ => false

/-- The modifier that an instruction carries, and the destination that R72 judges, when a format form may change it. -/
def dynMod (i : Instr) (pp : Bool) (pd : Ty) : Option (Modifier × Bool × Ty) :=
  let load (t : Ty) (m : Option Modifier) : Option (Modifier × Bool × Ty) := m.map fun x => (x, true, t)
  match i with
  | .vld t _ _ _ m => load t m
  | .vst _ _ _ _ _ m => load pd m
  | .vlds t _ _ _ _ m => load t m
  | .vsts _ _ _ _ _ m => load pd m
  | .vgat t _ _ _ _ m => load t m
  | .vsct _ _ _ _ _ m => load pd m
  | .vlbit t _ _ _ m => load t m
  | .vcvt _ t _ _ _ _ m => m.map fun x => (x, false, if pp then pd else t)
  | .mxSt _ _ _ _ _ m => m.map fun x => (x, false, if pp then pd else .f32)
  | .mxQnt _ _ _ m => m.map fun x => (x, false, if pp then pd else .e4m3)
  | _ => none

/-- RESERVED_FIELD of the instruction word that depends on the pending format: a modifier without one (R116), the part of `vcvt`
(R157), the bits of T (R160). -/
def reservedWord (i : Instr) (pp : Bool) (pf pd : Ty) : Bool :=
  (match dynMod i pp pd with
   | some (_, needs, _) => needs && !pp
   | none => false)
  || (match i with
      | .vcvt s t _ p _ _ _ => s == .f64 && t == .f64 && (if pp
          then cvtFmt pf && cvtFmt pd && decide (p.val * min (512 / pf.width) (512 / pd.width) ≥ max (512 / pf.width) (512 / pd.width))
          else p != 0)
      | .vst _ _ y _ _ _ => y != 0 && !(pp && pd == .blk4)
      | _ => false)
/-- RESERVED_FIELD of the modifier word that depends on the pending format: stochastic rounding (R72). -/
def reservedMod (i : Instr) (pp : Bool) (pd : Ty) : Bool :=
  match dynMod i pp pd with
  | some (m, _, t) => m.rmo == 5 && !t.srLegal
  | none => false

/-- RESERVED_FIELD that depends on the pending format. -/
def reservedHere (i : Instr) (pp : Bool) (pf pd : Ty) : Bool := reservedWord i pp pf pd || reservedMod i pp pd

/-- The repetitions that the `rpt` before the instruction asks for: n of the halfword at PC - 2 (R83). -/
def rptCount (code : List Byte) (off : Nat) : Nat :=
  bits (leNat ((code.drop (off - 2)).take 2)) 9 6

/-- The repetition that is next, or the fault of the repeat (R83, R84). -/
def repeated (c : Core) (code : List Byte) (i : Instr) : Except Cause Instr :=
  let ra := c.stBits 19 17
  let step := rptStep c
  let n := rptCount code c.off.toNat
  match rptFields i with
  | none => .error 0x02
  | some (d, a, b) =>
    let lack (on : Bool) (f : Option (Nat × Nat)) : Bool := on && f.isNone
    let past (on : Bool) (f : Option (Nat × Nat)) : Bool := on && ((f.map fun x => decide (x.1 + (n - 1) * step > x.2)).getD false)
    let nd := ra % 2 = 1
    let na := ra / 2 % 2 = 1
    let nb := ra / 4 % 2 = 1
    if lack nd d || lack na a || lack nb b then .error 0x02
    else if past nd d || past na a || past nb b then .error 0x04
    else
      let k := (n - c.rc) * step
      .ok (rptAdvance i (if nd then k else 0) (if na then k else 0) (if nb then k else 0))

/-- Every check before an instruction executes, in R89's order from PRIV on: the instruction to run, or its fault. -/
def precheck (svc : Bool) (c : Core) (code : List Byte) (i : Instr) : Except Cause Instr :=
  if serviceOnly i && !svc then .error 0x09
  else if reservedHere i c.pp c.pf c.pd then .error 0x01
  else if c.pp && !acceptsFmt i c.pf c.pd c.ps && !(match i with
      | .rpt _ _ _ => c.rc = 0
      | _ => false) then .error 0x02
  else if c.rc ≠ 0 then repeated c code i
  else .ok i

/-- The code that a core fetches: its code object, or for a service core its own memory (log 15). -/
def codeOf (s : State) (p : Plot) (c : Core) : List Byte :=
  if s.cur.svc then c.lm.bytes 0 (c.off.toNat + 8) else ((p.obj? c.obj.toNat).map (·.code)).getD []

/-- The bytes at the PC, eight at most (R64). -/
def fetch (code : List Byte) (off : Nat) : List Byte := (code.drop off).take 8

/-- The instruction word at the PC, for the codes whose report carries it (R368). -/
def wordHere (s : State) (p : Plot) (c : Core) : Word := BitVec.ofNat 64 (leNat ((fetch (codeOf s p c) c.off.toNat).take 4))
/-- An instruction that only a service core may execute: PRIV elsewhere (R63, R361). -/
def serviceCore (s : State) (k : Out) : Out :=
  if s.cur.svc then k else onCore s fun p c => trap s 0x09 0 (wordHere s p c)
/-- A decode fault takes its exception (R88, R89): the reported word is the instruction word, or the modifier for its tag; a
repeat is given up (R84). -/
def decodeTrap (s : State) (c : Core) (code : List Byte) (cause : Cause) : Out :=
  let w := leNat ((fetch code c.off.toNat).take (if leNat ((fetch code c.off.toNat).take 1) % 2 = 0 then 2 else 4))
  let info := if cause = 0x05 then leNat ((fetch code c.off.toNat).drop 4)
    else if cause = 0x04 then leNat ((code.drop (c.off.toNat - 2)).take 2) else w
  trap (s.modMe fun _ => c.setSt 11 4 0) cause 0 (BitVec.ofNat 64 info)

/-- `fmt` (R78, R81): latches the pair and sets ST.PP. -/
def execFmt (src dst : Ty) (sc : ScaleSrc) (s : State) : Out :=
  upd s fun c => (((((c.retire 2 1).setSt 0 1 1).setSt 1 4 src.fmtCode).setSt 5 4 dst.fmtCode).setSt 9 2 sc.code)

/-- `rpt` (R82, R83): with n = 0 the next instruction is skipped and ST.PP is cleared; else RC, RS and RA are set. A pending
format stays pending for the repeated instruction (R86). -/
def execRpt (n : Fin 16) (f : Fin 8) (st : Fin 3) (s : State) : Out :=
  onCore s fun p c =>
    let code := codeOf s p c
    let c1 := (c.retire 2 1).setSt 0 1 (c.stBits 0 0)
    if n = 0 then
      let k := skipLen (leNat (fetch code (c.off.toNat + 2)))
      put s ({ c1 with off := c1.off + BitVec.ofNat 32 k }.setSt 0 1 0)
    else put s (((c1.setSt 11 4 n).setSt 15 2 st).setSt 17 3 f)

end Sys2Proof.Machine
end

