-- ==== Sys2Proof/Machine/Integer.lean ====
section
/-! DEFINITION. Majors 0x00 to 0x07: integer arithmetic, multiplication and division, bit fields, immediates (R118 to R123). -/
namespace Sys2Proof.Machine

/-! What each operation computes. -/

/-- The shift count of a register operand (R119). -/
def shiftBy (w : Word) : Nat := w.toNat % 64
/-- The lesser, read as signed. -/
def minI (x y : Word) : Word := if x.toInt ≤ y.toInt then x else y
/-- The greater, read as signed. -/
def maxI (x y : Word) : Word := if x.toInt ≤ y.toInt then y else x
/-- The lesser, read as unsigned. -/
def minN (x y : Word) : Word := if x.toNat ≤ y.toNat then x else y
/-- The greater, read as unsigned. -/
def maxN (x y : Word) : Word := if x.toNat ≤ y.toNat then y else x
/-- The high half of the signed product (R121). -/
def mulhI (x y : Word) : Word := BitVec.ofInt 64 (x.toInt * y.toInt / 2 ^ 64)
/-- The high half of the unsigned product (R121). -/
def mulhN (x y : Word) : Word := BitVec.ofNat 64 (x.toNat * y.toNat / 2 ^ 64)
/-- The signed quotient rounded toward zero (R121). -/
def divI (x y : Word) : Word := BitVec.ofInt 64 (x.toInt.tdiv y.toInt)
/-- The signed remainder (R121). -/
def remI (x y : Word) : Word := BitVec.ofInt 64 (x.toInt.tmod y.toInt)
/-- The unsigned quotient. -/
def divN (x y : Word) : Word := BitVec.ofNat 64 (x.toNat / y.toNat)
/-- The unsigned remainder. -/
def remN (x y : Word) : Word := BitVec.ofNat 64 (x.toNat % y.toNat)
/-- Leading zero bits: the lowest n with no one bit above 63 - n, searched down from bit n - 1 (R122). -/
def clzFrom (x : Nat) : Nat → Nat
  | 0 => 64
  | n + 1 => if x / 2 ^ n % 2 = 1 then 63 - n else clzFrom x n
/-- The number of leading zero bits (R122). -/
def clzOf (w : Word) : Word := BitVec.ofNat 64 (clzFrom w.toNat 64)
/-- Trailing zero bits, with fuel (R122). -/
def ctzFrom (x : Nat) : Nat → Nat → Nat
  | 0, k => k
  | n + 1, k => if x % 2 = 1 then k else ctzFrom (x / 2) n (k + 1)
/-- The number of trailing zero bits (R122). -/
def ctzOf (w : Word) : Word := BitVec.ofNat 64 (ctzFrom w.toNat 64 0)
/-- One bits, with fuel. -/
def popFrom : Nat → Nat → Nat
  | 0, _ => 0
  | n + 1, x => x % 2 + popFrom n (x / 2)
/-- The number of one bits (R122). -/
def popOf (w : Word) : Word := BitVec.ofNat 64 (popFrom 64 w.toNat)
/-- The position of a bit-field operand (R122). -/
def bfPos (b : Word) : Nat := fld b 5 0
/-- The length of a bit-field operand (R122). -/
def bfLen (b : Word) : Nat := fld b 13 8 + 1
/-- `bext` (R122). -/
def bextOf (a b : Word) : Word := BitVec.ofNat 64 (a.toNat / 2 ^ bfPos b % 2 ^ bfLen b)
/-- `bexts` (R122). -/
def bextsOf (a b : Word) : Word := sextN (a.toNat / 2 ^ bfPos b) (bfLen b)
/-- `bins` (R122): bits past 63 are dropped. -/
def binsOf (d a b : Word) : Word :=
  let m : Word := BitVec.ofNat 64 ((2 ^ bfLen b - 1) * 2 ^ bfPos b)
  (d &&& ~~~m) ||| (BitVec.ofNat 64 (a.toNat % 2 ^ bfLen b * 2 ^ bfPos b) &&& m)
/-- An immediate of 17 bits (R123). -/
def imm17 (i : BitVec 17) : Word := i.signExtend 64
/-- `lhi` (R123). -/
def lhiOf (d : Word) (i : BitVec 16) (h : Fin 4) : Word := setFld d (16 * h) 16 i.toNat

/-! Shapes. -/

/-- Writes one register from the registers of the core and retires. -/
def alu (s : State) (len cyc : Nat) (d : Reg) (f : Core → Word) : Out :=
  upd s fun c => (c.setG d (f c)).retire len cyc
/-- Writes ST from the registers of the core and retires. -/
def aluSt (s : State) (len : Nat) (f : Core → Word) : Out := upd s fun c => ({ c with st := f c } : Core).retire len 1
/-- A division or remainder, which a zero divisor stops (R121). -/
def divide (s : State) (d a b : Reg) (f : Word → Word → Word) : Out :=
  onCore s fun _ c => if c.r b = 0 then trap s 0x10 0 0 4 (some d) else put s ((c.setG d (f (c.r a) (c.r b))).retire 4 24)

/-- `add` (R119). -/
def execAdd (d a b : Reg) (s : State) : Out :=
  alu s 4 1 d fun c => c.r a + c.r b

/-- `sub` (R119). -/
def execSub (d a b : Reg) (s : State) : Out :=
  alu s 4 1 d fun c => c.r a - c.r b

/-- `and` (R119). -/
def execAnd (d a b : Reg) (s : State) : Out :=
  alu s 4 1 d fun c => c.r a &&& c.r b

/-- `or` (R119). -/
def execOr (d a b : Reg) (s : State) : Out :=
  alu s 4 1 d fun c => c.r a ||| c.r b

/-- `xor` (R119). -/
def execXor (d a b : Reg) (s : State) : Out :=
  alu s 4 1 d fun c => c.r a ^^^ c.r b

/-- `andn` (R119). -/
def execAndn (d a b : Reg) (s : State) : Out :=
  alu s 4 1 d fun c => c.r a &&& ~~~c.r b

/-- `shl` (R119). -/
def execShl (d a b : Reg) (s : State) : Out :=
  alu s 4 1 d fun c => c.r a <<< shiftBy (c.r b)

/-- `shr` (R119). -/
def execShr (d a b : Reg) (s : State) : Out :=
  alu s 4 1 d fun c => c.r a >>> shiftBy (c.r b)

/-- `sra` (R119). -/
def execSra (d a b : Reg) (s : State) : Out :=
  alu s 4 1 d fun c => (c.r a).sshiftRight (shiftBy (c.r b))

/-- `rotl` (R119). -/
def execRotl (d a b : Reg) (s : State) : Out :=
  alu s 4 1 d fun c => (c.r a).rotateLeft (shiftBy (c.r b))

/-- `mini64` (R119). -/
def execMinI64 (d a b : Reg) (s : State) : Out :=
  alu s 4 1 d fun c => minI (c.r a) (c.r b)

/-- `maxi64` (R119). -/
def execMaxI64 (d a b : Reg) (s : State) : Out :=
  alu s 4 1 d fun c => maxI (c.r a) (c.r b)

/-- `minn64` (R119). -/
def execMinN64 (d a b : Reg) (s : State) : Out :=
  alu s 4 1 d fun c => minN (c.r a) (c.r b)

/-- `maxn64` (R119). -/
def execMaxN64 (d a b : Reg) (s : State) : Out :=
  alu s 4 1 d fun c => maxN (c.r a) (c.r b)

/-- `mov` (R119). -/
def execMov (d a : Reg) (s : State) : Out :=
  alu s 4 1 d fun c => c.r a

/-- `cmp` (R120). -/
def execCmp (a b : Reg) (s : State) : Out :=
  aluSt s 4 fun c => cmpFlags c.st (c.r a) (c.r b)

/-- `tst` (R120). -/
def execTst (a b : Reg) (s : State) : Out :=
  aluSt s 4 fun c => tstFlags c.st (c.r a) (c.r b)

/-- `mul` (R121). -/
def execMul (d a b : Reg) (s : State) : Out :=
  alu s 4 1 d fun c => c.r a * c.r b

/-- `mulh.i64` (R121). -/
def execMulhI64 (d a b : Reg) (s : State) : Out :=
  alu s 4 1 d fun c => mulhI (c.r a) (c.r b)

/-- `mulh.n64` (R121). -/
def execMulhN64 (d a b : Reg) (s : State) : Out :=
  alu s 4 1 d fun c => mulhN (c.r a) (c.r b)

/-- `divi64` (R121). -/
def execDivI64 (d a b : Reg) (s : State) : Out :=
  divide s d a b divI

/-- `divn64` (R121). -/
def execDivN64 (d a b : Reg) (s : State) : Out :=
  divide s d a b divN

/-- `remi64` (R121). -/
def execRemI64 (d a b : Reg) (s : State) : Out :=
  divide s d a b remI

/-- `remn64` (R121). -/
def execRemN64 (d a b : Reg) (s : State) : Out :=
  divide s d a b remN

/-- `clz` (R122). -/
def execClz (d a : Reg) (s : State) : Out :=
  alu s 4 1 d fun c => clzOf (c.r a)

/-- `ctz` (R122). -/
def execCtz (d a : Reg) (s : State) : Out :=
  alu s 4 1 d fun c => ctzOf (c.r a)

/-- `pop` (R122). -/
def execPop (d a : Reg) (s : State) : Out :=
  alu s 4 1 d fun c => popOf (c.r a)

/-- `bext` (R122). -/
def execBext (d a b : Reg) (s : State) : Out :=
  alu s 4 1 d fun c => bextOf (c.r a) (c.r b)

/-- `bexts` (R122). -/
def execBexts (d a b : Reg) (s : State) : Out :=
  alu s 4 1 d fun c => bextsOf (c.r a) (c.r b)

/-- `bins` (R122). -/
def execBins (d a b : Reg) (s : State) : Out :=
  alu s 4 1 d fun c => binsOf (c.r d) (c.r a) (c.r b)

/-- `sel` (R122). -/
def execSel (cc : Cond) (d a b : Reg) (s : State) : Out :=
  alu s 4 1 d fun c => if holds c.st cc then c.r a else c.r b

/-- `addi` (R123). -/
def execAddi (d a : Reg) (i : BitVec 17) (s : State) : Out :=
  alu s 4 1 d fun c => c.r a + imm17 i

/-- `li` (R123). -/
def execLi (d : Reg) (i : BitVec 17) (s : State) : Out :=
  alu s 4 1 d fun _ => imm17 i

/-- `lhi` (R123). -/
def execLhi (d : Reg) (i : BitVec 16) (h : Fin 4) (s : State) : Out :=
  alu s 4 1 d fun c => lhiOf (c.r d) i h

/-- `cmpi` (R120, R123). -/
def execCmpi (d : Reg) (i : BitVec 17) (s : State) : Out :=
  aluSt s 4 fun c => cmpFlags c.st (c.r d) (imm17 i)

/-- `shli` (R123). -/
def execShli (d a : Reg) (n : Fin 64) (s : State) : Out :=
  alu s 4 1 d fun c => c.r a <<< n.val

/-- `shri` (R123). -/
def execShri (d a : Reg) (n : Fin 64) (s : State) : Out :=
  alu s 4 1 d fun c => c.r a >>> n.val

/-- `srai` (R123). -/
def execSrai (d a : Reg) (n : Fin 64) (s : State) : Out :=
  alu s 4 1 d fun c => (c.r a).sshiftRight n.val

/-- `rotli` (R123). -/
def execRotli (d a : Reg) (n : Fin 64) (s : State) : Out :=
  alu s 4 1 d fun c => (c.r a).rotateLeft n.val

/-! The compact forms (R68): the same effect with a length of 2. -/

/-- Compact `mov` (R68, R119). -/
def execMovCompact (a d : Reg) (s : State) : Out :=
  alu s 2 1 d fun c => c.r a

/-- Compact `add` (R68, R119). -/
def execAddCompact (a d : Reg) (s : State) : Out :=
  alu s 2 1 d fun c => c.r d + c.r a

/-- Compact `sub` (R68, R119). -/
def execSubCompact (a d : Reg) (s : State) : Out :=
  alu s 2 1 d fun c => c.r d - c.r a

/-- Compact `and` (R68, R119). -/
def execAndCompact (a d : Reg) (s : State) : Out :=
  alu s 2 1 d fun c => c.r d &&& c.r a

/-- Compact `or` (R68, R119). -/
def execOrCompact (a d : Reg) (s : State) : Out :=
  alu s 2 1 d fun c => c.r d ||| c.r a

/-- Compact `xor` (R68, R119). -/
def execXorCompact (a d : Reg) (s : State) : Out :=
  alu s 2 1 d fun c => c.r d ^^^ c.r a

/-- Compact `andn` (R68, R119). -/
def execAndnCompact (a d : Reg) (s : State) : Out :=
  alu s 2 1 d fun c => c.r d &&& ~~~c.r a

/-- Compact `addi` (R68, R123). -/
def execAddiCompact (i : BitVec 6) (d : Reg) (s : State) : Out :=
  alu s 2 1 d fun c => c.r d + i.signExtend 64

/-- Compact `li` (R68, R123). -/
def execLiCompact (i : BitVec 6) (d : Reg) (s : State) : Out :=
  alu s 2 1 d fun _ => i.signExtend 64

/-- Compact `shli` (R68, R123). -/
def execShliCompact (u : Fin 64) (d : Reg) (s : State) : Out :=
  alu s 2 1 d fun c => c.r d <<< u.val

/-- Compact `shri` (R68, R123). -/
def execShriCompact (u : Fin 64) (d : Reg) (s : State) : Out :=
  alu s 2 1 d fun c => c.r d >>> u.val

/-- Compact `srai` (R68, R123). -/
def execSraiCompact (u : Fin 64) (d : Reg) (s : State) : Out :=
  alu s 2 1 d fun c => (c.r d).sshiftRight u.val

/-- Compact `cmp` (R68, R120): rd plays the part of ga. -/
def execCmpCompact (a d : Reg) (s : State) : Out :=
  aluSt s 2 fun c => cmpFlags c.st (c.r d) (c.r a)

/-- Compact `cmpi` (R68, R120). -/
def execCmpiCompact (i : BitVec 6) (d : Reg) (s : State) : Out :=
  aluSt s 2 fun c => cmpFlags c.st (c.r d) (i.signExtend 64)

/-- Compact `tst` (R68, R120). -/
def execTstCompact (a d : Reg) (s : State) : Out :=
  aluSt s 2 fun c => tstFlags c.st (c.r d) (c.r a)

end Sys2Proof.Machine
end

