-- ==== Sys2Proof/Machine/Control.lean ====
section
/-! DEFINITION. Majors 0x08 to 0x0A: branches and calls (R124 to R127), and the instructions that end or park a stint
(R128 to R137). -/
namespace Sys2Proof.Machine

/-- A branch target: the address of the instruction plus an offset in halfwords (R65, R124, R127). -/
def relTarget (c : Core) (o : BitVec 32) : BitVec 32 := c.off + 2 * o
/-- A branch that is taken under a condition on the core; taken costs 2 cycles (R163). -/
def branch (s : State) (len : Nat) (o : BitVec 32) (taken : Core → Bool) : Out :=
  onCore s fun _ c => put s (if taken c then c.jump (relTarget c o) 2 else c.retire len 1)
/-- A jump to a register's low half with bit 0 cleared (R64, R127). -/
def jumpTo (s : State) (d : Reg) : Out :=
  onCore s fun _ c => put s (c.jump ((c.r d).setWidth 32 &&& 0xFFFFFFFE) 2)

/-- `bc` (R124). -/
def execBc (cc : Cond) (o : BitVec 21) (s : State) : Out := branch s 4 (o.signExtend 32) fun c => holds c.st cc
/-- `call` (R125): g14 receives the address of the next instruction, as PC[31:0] (log 16). -/
def execCall (o : BitVec 25) (s : State) : Out :=
  onCore s fun _ c =>
    put s ((c.setG 14 ((c.off + 4).setWidth 64)).jump (relTarget c (o.signExtend 32)) 2)
/-- `cbz` (R127). -/
def execCbz (d : Reg) (o : BitVec 17) (s : State) : Out := branch s 4 (o.signExtend 32) fun c => c.r d == 0
/-- `cbnz` (R127). -/
def execCbnz (d : Reg) (o : BitVec 17) (s : State) : Out := branch s 4 (o.signExtend 32) fun c => c.r d != 0
/-- `jr` (R127). -/
def execJr (d : Reg) (s : State) : Out := jumpTo s d
/-- `nop` (R127). -/
def execNop (s : State) : Out := upd s fun c => c.retire 4 1
/-- Compact `cbz` (R68). -/
def execCbzCompact (o : BitVec 6) (d : Reg) (s : State) : Out := branch s 2 (o.signExtend 32) fun c => c.r d == 0
/-- Compact `cbnz` (R68). -/
def execCbnzCompact (o : BitVec 6) (d : Reg) (s : State) : Out := branch s 2 (o.signExtend 32) fun c => c.r d != 0
/-- Compact `b` (R68). -/
def execBCompact (o : BitVec 10) (s : State) : Out := branch s 2 (o.signExtend 32) fun _ => true
/-- Compact `ret` (R68). -/
def execRetCompact (s : State) : Out := jumpTo s 14
/-- Compact `jr` (R68). -/
def execJrCompact (a : Reg) (s : State) : Out := jumpTo s a
/-- Compact `nop` (R68). -/
def execNopCompact (s : State) : Out := upd s fun c => c.retire 2 1

/-! Ends of a stint. -/

/-- `halt` of a length (R128). -/
def haltOp (s : State) (len : Nat) : Out := onCore s fun _ c => endable s c (put s (c.retire len 1).endStint)
/-- `halt` (R128). -/
def execHalt (s : State) : Out := haltOp s 4
/-- Compact `halt` (R68). -/
def execHaltCompact (s : State) : Out := haltOp s 2
/-- An operand that must name a core of the plot (R129, R131). -/
def coreArg (p : Plot) (w : Word) : Bool := fld w 63 14 == 0 && p.hasCore w.toNat
/-- `halt.r` (R129): the hand-off records the successor and the banks that LMRET keeps. -/
def execHaltR (d : Reg) (s : State) : Out :=
  onCore s fun p c =>
    if !coreArg p (c.r d) then trap s 0x51 0 (c.r d)
    else endable s c (put s { c.retire 4 1 with retain := some (BitVec.ofNat 14 (c.r d).toNat, c.lmret) }.endStint)

/-- The runner message that a core sends to another (R32): after every entry that the stint buffered (R131). Its 160 bytes take
three overflow places (R24, log 17). -/
def Core.sendRunner (c : Core) (p : Plot) (dst : CoreId) (draw : Option (Nat × Word)) : Core :=
  let t := c.tag
  let m : Msg := { src := c.cid, seq := t.seq, lid := c.lid, cls := c.sendCls, tag := t, body := .runner (c.record false),
                   acq := some (p.pairScope c.cid dst), draw := draw }
  ((c.enter (.msg dst m) none 3).bumpSeq).endStint
/-- Sends a runner, or commits and stalls until its places are free (R197). -/
def sendOff (s : State) (p : Plot) (c c1 : Core) (dst : CoreId) (draw : Option (Nat × Word) := none) : Out :=
  endable s c
    (if c.noPlace 3 then put s (if c.ob.isEmpty then c.stall else c.commit.stall) else put s (c1.sendRunner p dst draw))
/-- `go` (R32, R131). -/
def execGo (d : Reg) (s : State) : Out :=
  onCore s fun p c =>
    if !coreArg p (c.r d) then trap s 0x51 0 (c.r d)
    else sendOff s p c (c.retire 4 1) (BitVec.ofNat 14 (c.r d).toNat)
/-- The implicit `go` of an access to another core's window (R33): the record's PC is the access itself, which draws as here (R103). -/
def migrate (s : State) (p : Plot) (c : Core) (dst : CoreId) : Out := sendOff s p c c dst (some ((p.drawMI c).2, (p.drawMI c).1))

/-- The energy of the LM words that a runner which parks writes, 20 of its record and three of its slot (R19, R267), and of the word of its
condition (R47). -/
def parkPj (sleep : Option Sleep) : Nat := 5 * (23 + match sleep with
  | some (.lm _ _) => 1
  | _ => 0)
/-- Parks the runner in a slot: the basic record with ST.VD clear, PC at the next instruction (R132, R133). -/
def Core.parkIn (c : Core) (len slot : Nat) (sleep : Option Sleep) (how : ResumeHow) : Core :=
  let l := c.lid
  let seq := (c.count l).seq
  let c := (c.retire len 1 (parkPj sleep)).setSt 32 1 0
  ((c.modSlot slot fun x => { x with state := 1, kind := 3, rcd := some (c.record false), vec := false, dv := false, lid := l,
                                     sleep := sleep, how := how, seq := seq }).bumpSeq).endStint
/-- The resume of a slot is enqueued on its own core, or parked for a DET launch (R132, R137). -/
def Plot.resumeSlot (p : Plot) (i slot : Nat) : Plot :=
  match p.core? i with
  | none => p
  | some c =>
    match c.slab[slot]? with
    | none => p
    | some x =>
      if x.det then p
      else (p.modCore i fun c => (c.modSlot slot fun y => { y with sleep := none }).sentOne x.lid).give i (resumeMsg c slot x)
/-- The common part of `yield` and the sleeps: a slot or SLAB_FULL, then the runner parks, and it resumes at once when `now`
says so (R132, R133). A DET launch's resumes come with the phase (R137). -/
def parkOp (s : State) (len : Nat) (sleep : Option Sleep) (how : ResumeHow) (now : Bool) : Out :=
  onCore s fun _ c =>
    endable s c
      (match c.freeSlot with
       | none => trap s 0x64 0 0
       | some slot =>
         let s := s.modMe fun _ => c.parkIn len slot sleep how
         .next (if now then s.modMine fun p => p.resumeSlot s.cur.idx slot else s))
/-- `yield` (R132). -/
def execYield (s : State) : Out := parkOp s 4 none .parked true
/-- Compact `yield` (R68). -/
def execYieldCompact (s : State) : Out := parkOp s 2 none .parked true
/-- `sleep.q` (R134). -/
def execSleepQ (q : QReg) (n : BitVec 13) (s : State) : Out :=
  onCore s fun _ c =>
    if !c.q[q].v then trap s 0x55 0 (BitVec.ofNat 64 q.val)
    else if n.toNat > 2 ^ c.q[q].cnt then trap s 0x56 0 (BitVec.ofNat 64 q.val)
    else parkOp s 4 (some (.ring q n.toNat)) .parked (decide (c.q[q].fill ≥ n.toNat))
/-- No job of a kind and id of the launch is outstanding on the core (R135). -/
def jobDone (c : Core) (mx : Bool) (l : Lid) (id : BitVec 16) : Bool := !((if mx then c.jout else c.xout).contains (l, id))
/-- `sleep.job` (R135). -/
def execSleepJob (d : Reg) (s : State) : Out :=
  onCore s fun _ c =>
    let mx := (c.r d).getLsbD 16
    let id := (c.r d).setWidth 16
    parkOp s 4 (some (.job mx c.lid id)) .parked (jobDone c mx c.lid id)
/-- `sleep.ge` (R136): an address that is not the core's own LM is LM_RANGE, before its alignment is looked at. DESIGN CHOICE (log 99): a word
under an uncorrectable error is compared as it stands and raises nothing, here and in `sleep.ge.g`, since R136 names no such end. -/
def execSleepGe (d t : Reg) (s : State) : Out :=
  onCore s fun p c =>
    if !ownLm c.cid (c.r d) then trap s 0x21 (c.r d) 4
    else match lmDecode p c.cid (c.r d) 4 with
    | .error (cause, a, i) => trap s cause a i
    | .ok (_, off) =>
        let w := (c.r t).setWidth 32
        parkOp s 4 (some (.lm off w)) .parked (geHolds (BitVec.ofNat 32 (c.lm.num off 4)) w)
/-- The 4-byte word at a global place as its home memory port holds it (R136). -/
def homeWord (s : State) (p : Plot) (l : Loc) : BitVec 32 :=
  BitVec.ofNat 32 (match l with
    | .dev a => p.home.num a 4
    | .host a => s.dev.host.num a 4
    | .peer d a => ((s.dev.peers.find? fun x => x.dev == d).map fun x => x.mem.num a 4).getD 0)
/-- `sleep.ge.g` (R136). -/
def execSleepGeG (d t : Reg) (s : State) : Out :=
  onCore s fun p c =>
    let a := c.r d
    if fld a 63 48 ≠ 0 then trap s 0x32 a 0
    else if a.toNat % 4 ≠ 0 then trap s 0x35 a 4
    else
      match walked p c.tag (translate p (tileOf c.cid) a.toNat 0) with
      | (.error (cause, x, i), p) => trap (s.modMine fun _ => p) cause x i
      | (.ok (l, _), p) =>
        let s := s.modMine fun _ => p
        let w := (c.r t).setWidth 32
        parkOp s 4 (some (.glob l w)) .parked (geHolds (homeWord s p l) w)

end Sys2Proof.Machine
end

