-- ==== Sys2Proof/Machine/LocalMem.lean ====
section
/-! DEFINITION. Majors 0x0C to 0x0F: scalar LM loads and stores (R141 to R143), remote ones through the owner's message context
(R140), bit-granular access (R144, R145), rings (R146 to R149). -/
namespace Sys2Proof.Machine

/-- The address decoding of the core that steps: R139, or for a service core its own memory of 1 MiB (R12, log 15). -/
def myDecode (s : State) (p : Plot) (c : Core) (ea : Word) (size : Nat) : Except Bad (CoreId × Nat) :=
  if s.cur.svc then
    if ea.toNat + size > 0x100000 then .error (0x21, ea, BitVec.ofNat 64 size)
    else if ea.toNat % size ≠ 0 then .error (0x20, ea, BitVec.ofNat 64 size)
    else .ok (c.cid, ea.toNat)
  else lmDecode p c.cid ea size

/-- The value of a scalar load (R142). -/
def ldValue (k : LdKind) (v : Nat) : Word := if k.signed then sextN v (8 * k.size) else BitVec.ofNat 64 v
/-- The base and the effective address of a scalar LM access (R142). -/
def ldAddr (c : Core) (p : Bool) (o : BitVec 13) (a : Reg) : Word := if p then c.r a else c.r a + o.signExtend 64
/-- The post-increment (R142). -/
def postInc (c : Core) (p : Bool) (o : BitVec 13) (a : Reg) : Core := if p then c.setG a (c.r a + o.signExtend 64) else c
/-- The energy of LM words that a stint touches (R47). -/
def opPj (off n : Nat) : Nat := 5 * wordsOf off n

/-- A scalar load of a length (R140, R142). One of another core's LM advances MSGSEQ when it is issued (R194). -/
def ldOp (s : State) (len : Nat) (k : LdKind) (pi : Bool) (o : BitVec 13) (a d : Reg) : Out :=
  onCore s fun p c =>
    match c.wait with
    | .got ws => put s ((c.setG d (ldValue k ((ws.getD 0 0).toNat % 2 ^ (8 * k.size)))).retire len 1)
    | .failed cause x i => trap (s.modMe Core.unbump) cause x i len
    | .reply => put s c.stall
    | _ =>
      match myDecode s p c (ldAddr c pi o a) k.size with
      | .error (cause, x, i) => trap s cause x i len
      | .ok (w, off) =>
        if w = c.cid then
          if lmBad c off k.size then trap s 0x23 (ldAddr c pi o a) (Config.freeWord off 0) len
          else put s (((postInc c pi o a).setG d (ldValue k (c.lm.num off k.size))).retire len 1 (opPj off k.size))
        else if c.mig then migrate s p c w
        else if c.det then trap s 0x42 (ldAddr c pi o a) 0 len
        else
          let r : RemOp := { tag := c.tag, dst := w, off := off, act := .load k.size, returns := true }
          put s { ((postInc c pi o a).enterRet (.remote r)).bumpSeq.stall with wait := .reply }

/-- A scalar store of a length (R140, R142): it stores what the register held before the increment. -/
def stOp (s : State) (len : Nat) (k : LdKind) (pi : Bool) (o : BitVec 13) (a d : Reg) : Out :=
  onCore s fun p c =>
    match myDecode s p c (ldAddr c pi o a) k.size with
    | .error (cause, x, i) => trap s cause x i len
    | .ok (w, off) =>
      let bs := leBytes k.size (c.r d).toNat
      if w = c.cid then put s (((postInc c pi o a).store off bs).retire len 1 (opPj off k.size))
      else if c.mig then migrate s p c w
      else
        let r : RemOp := { tag := c.tag, dst := w, off := off, act := .store bs, returns := false }
        put s ((((postInc c pi o a).enter (.remote r)).bumpSeq).retire len 1)

/-- `ld` (R142). -/
def execLd (k : LdKind) (p : Bool) (o : BitVec 13) (a d : Reg) (s : State) : Out := ldOp s 4 k p o a d
/-- `st` (R142). -/
def execSt (k : LdKind) (p : Bool) (o : BitVec 13) (a d : Reg) (s : State) : Out := stOp s 4 k p o a d
/-- The offset of a compact form: its size after the access, or none (R68). -/
def compactInc (p : Bool) (n : Nat) : BitVec 13 := if p then BitVec.ofNat 13 n else 0
/-- Compact `ld.n64` (R68). -/
def execLdN64Compact (p : Bool) (a d : Reg) (s : State) : Out := ldOp s 2 .n64 p (compactInc p 8) a d
/-- Compact `st.n64` (R68). -/
def execStN64Compact (p : Bool) (a d : Reg) (s : State) : Out := stOp s 2 .n64 p (compactInc p 8) a d
/-- Compact `ld.n32` (R68). -/
def execLdN32Compact (p : Bool) (a d : Reg) (s : State) : Out := ldOp s 2 .n32 p (compactInc p 4) a d
/-- Compact `st.n32` (R68). -/
def execStN32Compact (p : Bool) (a d : Reg) (s : State) : Out := stOp s 2 .n32 p (compactInc p 4) a d

/-! Bit-granular access (R145). -/

/-- BA0 or BA1. -/
def Core.ba (c : Core) (x : Bool) : Nat := if x then c.ba1.toNat else c.ba0.toNat
/-- Writes BA0 or BA1 modulo 2^21. -/
def Core.setBa (c : Core) (x : Bool) (n : Nat) : Core :=
  if x then { c with ba1 := BitVec.ofNat 21 n } else { c with ba0 := BitVec.ofNat 21 n }
/-- The first bit address past user LM (R145). -/
def lmBitEnd : Nat := 0x1C0000
/-- One cycle more when a field lies in two 8-byte words (R163). -/
def splitCost (b n : Nat) : Nat := if b / 64 = (b + n - 1) / 64 then 0 else 1

/-- The bits of a field that lie in its first 8-byte word (R145). -/
def headBits (b n : Nat) : Nat := min n (64 - b % 64)
/-- `lbit` (R145): a field in two 8-byte words takes two steps, between which the message context may act. -/
def execLbit (x p sg : Bool) (w : Fin 64) (d : Reg) (s : State) : Out :=
  onCore s fun _ c =>
    let b := c.ba x
    let n := w.val + 1
    let h := headBits b n
    -- the part of this step: its first bit, its width, and the value before it
    let (a, k, low) := match c.wait with
      | .half lo => (b + h, n - h, lo.toNat)
      | _ => (b, h, 0)
    if b + n > lmBitEnd then trap s 0x22 (BitVec.ofNat 64 b) (BitVec.ofNat 64 n)
    else if lmBad c (a / 8) ((a % 8 + k + 7) / 8) then trap s 0x23 (BitVec.ofNat 64 (a / 8)) (Config.freeWord (a / 8) 0)
    else
      let v := low + lmBits c.lm a k * 2 ^ (a - b)
      let pj := opPj (a / 8) ((a % 8 + k + 7) / 8)
      if a + k < b + n then put s { c.charge 1 pj with wait := .half (BitVec.ofNat 64 v) }
      else
        let c := c.setG d (if sg then sextN v n else BitVec.ofNat 64 v)
        put s ((if p then c.setBa x (b + n) else c).retire 4 1 pj)
/-- `sbit` (R145): a field in two 8-byte words takes two steps, between which the message context may act. -/
def execSbit (x p : Bool) (w : Fin 64) (d : Reg) (s : State) : Out :=
  onCore s fun _ c =>
    let b := c.ba x
    let n := w.val + 1
    let h := headBits b n
    let (a, k) := match c.wait with
      | .half _ => (b + h, n - h)
      | _ => (b, h)
    if b + n > lmBitEnd then trap s 0x22 (BitVec.ofNat 64 b) (BitVec.ofNat 64 n)
    else
      let m := (a % 8 + k + 7) / 8
      let c := wakeLm { c with lm := lmSetBits c.lm a k ((c.r d).toNat / 2 ^ (a - b)) } (a / 8) m
      if a + k < b + n then put s { c.charge 1 (opPj (a / 8) m) with wait := .half 0 }
      else put s ((if p then c.setBa x (b + n) else c).retire 4 1 (opPj (a / 8) m))
/-- `ba.set` (R145). -/
def execBaSet (x : Bool) (a b : Reg) (s : State) : Out :=
  upd s fun c => (c.setBa x (8 * c.r a + c.r b).toNat).retire 4 1

/-! Rings (R148). -/

/-- The descriptor of an image's words, or the fault of a bad one (R146, R148). -/
def ringOf (w0 w1 : Word) : Except Cause Ring :=
  let sz := fld w0 20 18
  let cnt := fld w0 24 21
  let q : Ring := { base := fld w0 17 0, sz := sz, cnt := cnt, v := true, head := w1.setWidth 32,
                    tail := (w1 >>> 32).setWidth 32 }
  if !w0.getLsbD 63 then .ok {}
  else if sz > 5 ∨ cnt > 12 ∨ fld w0 62 25 ≠ 0 ∨ q.base % q.bytes ≠ 0 ∨ q.fill > 2 ^ cnt then .error 0x01
  else if q.base + 2 ^ cnt * q.bytes > 0x38000 then .error 0x21
  else .ok q
/-- An own-LM offset operand of a structure of n bytes, aligned to 8 (R147, R213, R310): its offset or its fault. -/
def ownOffset (a : Word) (n : Nat) : Except Bad Nat :=
  if a.toNat + n > 0x38000 then .error (0x21, a, BitVec.ofNat 64 n)
  else if a.toNat % 8 ≠ 0 then .error (0x20, a, BitVec.ofNat 64 n)
  else .ok a.toNat
/-- `q.set` (R148). -/
def execQSet (q : QReg) (a : Reg) (s : State) : Out :=
  onCore s fun p c =>
    match ownOffset (c.r a) 16 with
    | .error (cause, x, i) => trap s cause x i
    | .ok o =>
      if lmBad c o 16 then trap s 0x23 (c.r a) (Config.freeWord o 0)
      else match ringOf (c.lm.word o) (c.lm.word (o + 8)) with
        | .error cause => trap s cause (if cause = 0x21 then c.r a else 0) (if cause = 0x21 then 16 else wordHere s p c)
        | .ok r => put s ((c.setRing q r).retire 4 1 10)
/-- A ring instruction on a descriptor that is set (R148). -/
def onRing (s : State) (q : QReg) (k : Core → Ring → Out) : Out :=
  onCore s fun _ c => if c.q[q].v then k c c.q[q] else trap s 0x55 0 (BitVec.ofNat 64 q.val)
/-- RING_OVERRUN (R148). -/
def overrun (s : State) (q : QReg) : Out := trap s 0x56 0 (BitVec.ofNat 64 q.val)
/-- `q.adv.p` (R148). -/
def execQAdvP (q : QReg) (a : Reg) (s : State) : Out :=
  onRing s q fun c r =>
    let t := (c.r a).setWidth 32
    if r.fill + t.toNat > 2 ^ r.cnt then overrun s q
    else put s ((wakeRing (c.setRing q { r with tail := r.tail + t }) q).retire 4 1)
/-- `q.adv.c` (R148). -/
def execQAdvC (q : QReg) (a : Reg) (s : State) : Out :=
  onRing s q fun c r =>
    let t := (c.r a).setWidth 32
    if t.toNat > r.fill then overrun s q else put s ((c.setRing q { r with head := r.head + t }).retire 4 1)
/-- `q.ld` (R148): it waits until n slots are filled. -/
def execQLd (d : Reg) (q : QReg) (n : Fin 4) (s : State) : Out :=
  onRing s q fun c r =>
    if r.fill < n.val + 1 then put s c.stall
    else put s (((c.setG d (c.lm.word (r.slotAt r.head.toNat))).ringPop q).retire 4 1 5)
/-- `q.st` from a general register (R148). -/
def execQSt (q : QReg) (a : Reg) (s : State) : Out :=
  onRing s q fun c r =>
    if r.fill = 2 ^ r.cnt then overrun s q
    else put s ((c.ringPush q (leBytes 8 (c.r a).toNat)).retire 4 1 (opPj (r.slotAt r.tail.toNat) r.bytes))
/-- `q.st` from a vector register (R148). -/
def execQStV (q : QReg) (v : VReg) (s : State) : Out :=
  onRing s q fun c r =>
    if r.fill = 2 ^ r.cnt then overrun s q
    else put s ((c.ringPush q (leBytes 64 c.v[v].toNat)).retire 4 1 (opPj (r.slotAt r.tail.toNat) r.bytes))
/-- `q.get` (R148). -/
def execQGet (d : Reg) (q : QReg) (s : State) : Out :=
  onRing s q fun c r => put s ((c.setG d (BitVec.ofNat 64 (r.head.toNat + 2 ^ 32 * r.tail.toNat))).retire 4 1)

end Sys2Proof.Machine
end

