-- ==== Sys2Proof/Machine/Vector.lean ====
section
/-! DEFINITION. Vector arithmetic, majors 0x10 to 0x13 (R150 to R158), lanes (R74), masks (R75), ring operands (R76), and how a
vector instruction records and raises its exceptions (R108, R109). -/
namespace Sys2Proof.Machine

/-- Lane i of a register (R74). -/
def lane (v : BitVec 512) (w i : Nat) : Nat := v.toNat / 2 ^ (w * i) % 2 ^ w
/-- A lane result: none leaves the lane. -/
abbrev LaneRes := Option (Nat × Flags)
/-- A register with lanes replaced, lane 0 first. -/
def packLanes (w : Nat) (old : BitVec 512) : Nat → List (Option Nat) → Nat
  | _, [] => 0
  | i, x :: xs => (x.getD (lane old w i)) % 2 ^ w + 2 ^ w * packLanes w old (i + 1) xs
/-- A register whose first lanes are replaced; lanes past the list keep their value. -/
def setLanes (w : Nat) (old : BitVec 512) (xs : List (Option Nat)) : BitVec 512 :=
  BitVec.ofNat 512 (packLanes w old 0 xs + old.toNat / 2 ^ (w * xs.length) * 2 ^ (w * xs.length))
/-- The mask register that kmask names; k0 reads all ones (R59, R75). -/
def Core.mask (c : Core) (k : KReg) : Word := if k = 0 then 0xFFFFFFFFFFFFFFFF else c.k[k]
/-- Writes a vector register and sets ST.VD (R59). -/
def Core.setV (c : Core) (d : VReg) (v : BitVec 512) : Core := { (c.setSt 32 1 1) with v := c.v.set d v }
/-- Writes a mask register; a write to k0 is discarded and does not set ST.VD (R59). -/
def Core.setK (c : Core) (k : KReg) (w : Word) : Core :=
  if k = 0 then c else { (c.setSt 32 1 1) with k := c.k.set k w }
/-- The lanes of R109's choice: the code, and the lanes that recorded it. -/
def pickEffect (rs : List LaneRes) : Option (Cause × Word) :=
  let lanes (f : Flags → Bool) : Nat :=
    ((rs.zip (List.range rs.length)).map fun x => match x.1 with
      | some (_, g) => if f g then 2 ^ x.2 else 0
      | none => 0).sum
  let try_ (code : Cause) (f : Flags → Bool) (rest : Option (Cause × Word)) : Option (Cause × Word) :=
    if lanes f = 0 then rest else some (code, BitVec.ofNat 64 (lanes f))
  try_ 0x17 (fun f => f.blk) (try_ 0x12 (fun f => f.nv) (try_ 0x13 (fun f => f.dz) (try_ 0x14 (fun f => f.of) none)))
/-- Every exception of the computed lanes (R108). -/
def allFlags (rs : List LaneRes) : Flags := rs.foldl (fun f r => match r with
  | some (_, g) => orFlags f g
  | none => f) {}
/-- Lanes with those of a mask taken out. -/
def without (rs : List LaneRes) (m : Word) : List LaneRes :=
  (rs.zip (List.range rs.length)).map fun x => if m.getLsbD x.2 then none else x.1
/-- A vector instruction completes (R108, R109): the lanes are delivered by `write`, which gets those that are not suspended;
with ST.EFX set and an exception that counts, it performs its effect after that, which on a service core is a machine check (R345).
With a matrix job open the code is not offered (R233), and the report of its abort has EFX 0 (DEDUCED, log 70). `lt` is the type of the
lanes of a form without a vector destination (R267). -/
def finishVec (s : State) (c : Core) (len cyc pj : Nat) (rs : List LaneRes) (dest : Option (VReg × Nat))
    (write : Core → List LaneRes → Word → Core) (lt : Nat := 15) : Out :=
  let eff := if c.stBits 37 37 = 1 then pickEffect rs else none
  let c0 := { c with st := orFx c.st (allFlags rs) }
  match eff with
  | none => put s ((write c0 rs 0).retire len cyc pj)
  | some (code, m) =>
    let c1 := write c0 (without rs m) m
    if s.cur.svc then .next ((s.modMe fun _ => c1).svcCheck code 0 m)
    else if c.job.isSome then .next ((s.modMe fun _ => c1).abortCore s.cur.pid s.cur.idx code false c.pc 0 m)
    else
      .next (offer (s.modMe fun _ => (c1.retire len cyc pj).setSt 0 1 0)
        { id := BitVec.ofNat 12 code.toNat, arg := BitVec.ofNat 64 c.off.toNat, dv := dest.isSome,
          dreg := (dest.map (·.1.val)).getD 0, vec := true, mask := m, ltype := (dest.map (·.2)).getD lt, hw := true,
          pc := c.pc, info := m })
/-- The codes of lane results. -/
def codes (rs : List LaneRes) : List (Option Nat) := rs.map (·.map (·.1))
/-- The usual destination: the lanes of vd. -/
def intoV (d : VReg) (w : Nat) (c : Core) (rs : List LaneRes) (_ : Word) : Core := c.setV d (setLanes w c.v[d] (codes rs))
/-- A marker of a bad mask: lane i is computed. -/
def on (m : Word) (i : Nat) : Bool := m.getLsbD i

/-- The vb operand (R76): its value and the core after it was read; an unset ring traps, a ring that is not filled stalls. -/
def withB (s : State) (c : Core) (b : VSrc) (len : Nat) (k : Core → BitVec 512 → Out) : Out :=
  match b with
  | .reg b => k c c.v[b]
  | .ring q wc =>
    if !c.q[q].v then trap s 0x55 0 (BitVec.ofNat 64 q.val) len
    else if c.q[q].fill < wc.val + 1 then put s c.stall
    else k (c.ringPop q) (BitVec.ofNat 512 (leNat (ringHead c.lm c.q[q] 64)))

/-- The length of a form with an optional modifier (R64). -/
def mlen (m : Option Modifier) : Nat := if m.isSome then 8 else 4
/-- The modifier in force. -/
def modOr (m : Option Modifier) : Modifier := m.getD Modifier.none
/-- The words of the stint for the draw of R103: seed, WID, message, instruction count. A service core runs no stint of a launch: there
message and count are 0, and the seed is that of the plot's launch with the LID that its records carry, or 0 (DESIGN CHOICE, log 99). -/
def drawWords (s : State) (c : Core) : Word × Word × Word × Word :=
  let seed := ((s.myPlot.bind fun p => p.launch? c.lid).map fun l => seedOf l.args).getD 0
  let (m, i) := (s.myPlot.map (·.drawMI c)).getD (0, 0)
  (seed, c.wid, m, BitVec.ofNat 64 i)
/-- The draw of element e of the instruction that executes (R103). -/
def drawFor (s : State) (c : Core) (e : Nat) : Nat :=
  let (a, w, m, i) := drawWords s c
  drawOf a w m i (BitVec.ofNat 64 e)

/-- One lane through R71. -/
def deliverLane (s : State) (c : Core) (m : Modifier) (t : Ty) (conv : Bool) (e : Nat) (x : Ext) (f : Flags) : Nat × Flags :=
  let rm := modeFor m (c.stBits 26 24) t
  let d := if rm = .sr then drawFor s c e else 0
  let (code, g) := deliver m rm t conv d x
  (code, orFlags f g)

/-- The energy of a vector instruction (R47). -/
def vPj : Nat := 60

/-- Lane-wise arithmetic of major 0x10 (R152): `f` gets the operands after ABS and NEG and the old destination lane. -/
def vArith (s : State) (t : Ty) (k : KReg) (b : VSrc) (a d : VReg) (m : Option Modifier) (cyc pj : Nat)
    (f : RMode → Ext → Ext → Ext → Ext × Flags) : Out :=
  onCore s fun _ c =>
    withB s c b (mlen m) fun c vb =>
      let w := t.width
      let mk := c.mask k
      let md := modOr m
      let rs : List LaneRes := (List.range t.lanes).map fun i =>
        if on mk i then
          let (x, g) := f (modeFor md (c.stBits 26 24) t) (srcA md (readTy t (lane c.v[a] w i)))
            (srcB md (readTy t (lane vb w i))) (readTy t (lane c.v[d] w i))
          some (deliverLane s c md t false i x g)
        else none
      finishVec s c (mlen m) cyc pj rs (some (d, t.laneCode)) (intoV d w)
/-- The interval of `vdiv` and `vsqrt` (R163). -/
def divCyc (t : Ty) : Nat := if t = .f64 then 28 else 16
/-- The interval of `vrcp` and `vrsq` (R163). -/
def rcpCyc (t : Ty) : Nat := if t = .f64 then 14 else 8

/-- `vadd` (R152). -/
def execVadd (t : Ty) (k : KReg) (b : VSrc) (a d : VReg) (m : Option Modifier) (s : State) : Out :=
  vArith s t k b a d m 1 vPj fun rm x y _ => addExt rm x y
/-- `vsub` (R152). -/
def execVsub (t : Ty) (k : KReg) (b : VSrc) (a d : VReg) (m : Option Modifier) (s : State) : Out :=
  vArith s t k b a d m 1 vPj fun rm x y _ => addExt rm x (negExt y)
/-- `vmul` (R152). -/
def execVmul (t : Ty) (k : KReg) (b : VSrc) (a d : VReg) (m : Option Modifier) (s : State) : Out :=
  vArith s t k b a d m 1 vPj fun _ x y _ => mulExt x y
/-- `vfma` (R152). -/
def execVfma (t : Ty) (k : KReg) (b : VSrc) (a d : VReg) (m : Option Modifier) (s : State) : Out :=
  vArith s t k b a d m 1 vPj fun rm x y z => fmaExt rm x y z
/-- `vdiv` (R152). -/
def execVdiv (t : Ty) (k : KReg) (b : VSrc) (a d : VReg) (m : Option Modifier) (s : State) : Out :=
  vArith s t k b a d m (divCyc t) (vPj + 300) fun _ x y _ => divExt x y
/-- `vsqrt` (R152). -/
def execVsqrt (t : Ty) (k : KReg) (a d : VReg) (m : Option Modifier) (s : State) : Out :=
  vArith s t k (.reg 0) a d m (divCyc t) (vPj + 300) fun _ x _ _ => sqrtExt x
/-- `vrcp` (R152). -/
def execVrcp (t : Ty) (k : KReg) (a d : VReg) (m : Option Modifier) (s : State) : Out :=
  vArith s t k (.reg 0) a d m (rcpCyc t) (vPj + 300) fun _ x _ _ => divExt (extInt 1) x
/-- `vrsq` (R152). -/
def execVrsq (t : Ty) (k : KReg) (a d : VReg) (m : Option Modifier) (s : State) : Out :=
  vArith s t k (.reg 0) a d m (rcpCyc t) (vPj + 300) fun _ x _ _ => rsqExt x
/-- `vmin` (R152, R104). -/
def execVmin (t : Ty) (k : KReg) (b : VSrc) (a d : VReg) (m : Option Modifier) (s : State) : Out :=
  vArith s t k b a d m 1 vPj fun _ x y _ => minExt x y
/-- `vmax` (R152, R104). -/
def execVmax (t : Ty) (k : KReg) (b : VSrc) (a d : VReg) (m : Option Modifier) (s : State) : Out :=
  vArith s t k b a d m 1 vPj fun _ x y _ => maxExt x y

/-- A predicate on two values, with its exceptions (R153). -/
def cmpLane (p : CmpPred) (x y : Ext) : Bool × Flags :=
  let nan := isNan x || isNan y
  let sig : Flags := { nv := isSig x || isSig y }
  let quiet (b : Bool) : Bool × Flags := (b, sig)
  let order (b : Bool) : Bool × Flags := if nan then (false, { nv := true }) else (b, {})
  match p with
  | .eq => quiet (!nan && eqExt x y)
  | .ne => quiet (nan || !eqExt x y)
  | .un => quiet nan
  | .lt => order (decide (ltExt x y ∧ !eqExt x y))
  | .le => order (ltExt x y || eqExt x y)
  | .gt => order (decide (ltExt y x ∧ !eqExt x y))
  | .ge => order (ltExt y x || eqExt x y)
/-- The word with the bits of a list, bit 0 first. -/
def bitsWord (bs : List Bool) : Word := BitVec.ofNat 64 (((bs.zip (List.range bs.length)).map fun x => if x.1 then 2 ^ x.2 else 0).sum)
/-- `vcmp` (R153). -/
def execVcmp (p : CmpPred) (t : Ty) (k : KReg) (b : VSrc) (a : VReg) (kd : KReg) (s : State) : Out :=
  onCore s fun _ c =>
    withB s c b 4 fun c vb =>
      let mk := c.mask k
      let rs : List LaneRes := (List.range t.lanes).map fun i =>
        if on mk i then
          let (r, f) := cmpLane p (readTy t (lane c.v[a] t.width i)) (readTy t (lane vb t.width i))
          some (boolNat r, f)
        else none
      let write (c' : Core) (rs' : List LaneRes) (m : Word) : Core :=
        c'.setK kd (bitsWord (rs'.map fun x => match x with
          | some (1, _) => true
          | _ => false) ||| (c.mask kd &&& m))
      finishVec s c 4 1 vPj rs none write t.laneCode

/-- A lane-wise act on bits without exceptions (R154, R156): `f` gets a, b and the old lane; the lanes of a mask are written. -/
def vBits (s : State) (t : Ty) (mk : Core → Word) (b : VSrc) (a d : VReg) (f : Core → Nat → Nat → Nat → Nat) : Out :=
  onCore s fun _ c =>
    withB s c b 4 fun c vb =>
      let rs := (List.range t.lanes).map fun i =>
        if on (mk c) i then some (f c i (lane c.v[a] t.width i) (lane vb t.width i)) else none
      put s ((c.setV d (setLanes t.width c.v[d] rs)).retire 4 1 vPj)
/-- `vsel` (R154): the mask selects and every lane is written. -/
def execVsel (t : Ty) (k : KReg) (b : VSrc) (a d : VReg) (s : State) : Out :=
  vBits s t (fun _ => 0xFFFFFFFFFFFFFFFF) b a d fun c i x y => if on (c.mask k) i then x else y
/-- `vand` (R154). -/
def execVand (t : Ty) (k : KReg) (b : VSrc) (a d : VReg) (s : State) : Out :=
  vBits s t (·.mask k) b a d fun _ _ x y => x &&& y
/-- `vor` (R154). -/
def execVor (t : Ty) (k : KReg) (b : VSrc) (a d : VReg) (s : State) : Out :=
  vBits s t (·.mask k) b a d fun _ _ x y => x ||| y
/-- `vxor` (R154). -/
def execVxor (t : Ty) (k : KReg) (b : VSrc) (a d : VReg) (s : State) : Out :=
  vBits s t (·.mask k) b a d fun _ _ x y => x ^^^ y
/-- `vshl` (R154). -/
def execVshl (t : Ty) (k : KReg) (b : VSrc) (a d : VReg) (s : State) : Out :=
  vBits s t (·.mask k) b a d fun _ _ x y => x * 2 ^ (y % t.width) % 2 ^ t.width
/-- `vshr` (R154). -/
def execVshr (t : Ty) (k : KReg) (b : VSrc) (a d : VReg) (s : State) : Out :=
  vBits s t (·.mask k) b a d fun _ _ x y => intCode t (intVal t x / (2 ^ (y % t.width) : Nat))

/-- The result of a reduction without lanes (R155). -/
def redEmpty (o : RedOp) (t : Ty) : Nat :=
  match o with
  | .sum => 0
  | .prod => if t.isInt then 1 else (roundFp t .rne false 0 (extInt 1)).1
  | .min => if t.isInt then intCode t (intMax t) else maxCode t + 1
  | .max => if t.isInt then intCode t (intMin t) else signed t true (maxCode t + 1)
/-- One combine of the tree (R110, R155). -/
def redStep (o : RedOp) (t : Ty) (rm : RMode) (x y : Nat) : Nat × Flags :=
  let a := readTy t x
  let b := readTy t y
  let (v, f) := match o with
    | .sum => addExt rm a b
    | .prod => mulExt a b
    | .min => minExt a b
    | .max => maxExt a b
  let (r, g) := if t.isInt then roundInt t rm false 0 v else roundFp t rm false 0 v
  (r, orFlags f g)
/-- A value of a type as its own pattern, for the leaves of the tree. A leaf that ABSA or NEGA takes out of an integer type's range, as
|-128| of i8, enters the tree wrapped to its lane, and the wrap records nothing (DESIGN CHOICE, log 93: R155 does not say whether the
tree sees the exact value, nor whether such a leaf is inexact). -/
def leafCode (t : Ty) (x : Ext) : Nat × Flags := if t.isInt then roundInt t .rne false 0 x else roundFp t .rne false 0 x
/-- `vred` (R155): the tree of R110 over the lanes of the mask; lane 0 takes the result and the others zero. -/
def execVred (o : RedOp) (t : Ty) (k : KReg) (a d : VReg) (m : Option Modifier) (s : State) : Out :=
  onCore s fun _ c =>
    let md := modOr m
    let rm := modeFor md (c.stBits 26 24) t
    let mk := c.mask k
    let ls : List (Option Nat) := (List.range t.lanes).map fun i =>
      if on mk i then
        (let code := lane c.v[a] t.width i
         -- ABSA and NEGA act on the sign alone, so that a NaN stays as it is until it is combined
         some (if md.absa || md.nega then (match readTy t code with
           | .nan _ _ => code
           | x => (leafCode t (srcA md x)).1) else code))
      else none
    let sig : Flags := { nv := t.isFloat && decide ((ls.filterMap id).length = 1) && (ls.filterMap id).any fun x => isSig (readTy t x) }
    let (r, f) := tree (redStep o t rm) 7 ls
    let res : Nat := match r with
      | none => redEmpty o t
      | some x => if isNan (readTy t x) then (nanCode t).getD x else x
    finishVec s c (mlen m) 1 vPj [some (res, orFlags f sig)] (some (d, t.laneCode)) fun c rs _ =>
      c.setV d (setLanes t.width c.v[d] (codes rs ++ List.replicate (t.lanes - 1) (some 0)))

/-- `vperm` (R156). -/
def execVperm (t : Ty) (k : KReg) (b a d : VReg) (s : State) : Out :=
  vBits s t (·.mask k) (.reg b) a d fun c _ _ y => lane c.v[a] t.width (y % t.lanes)
/-- `vbcast` (R156). -/
def execVbcast (t : Ty) (k : KReg) (a : Fin 8) (d : VReg) (s : State) : Out :=
  vBits s t (·.mask k) (.reg 0) 0 d fun c _ _ _ => (c.rn a).toNat % 2 ^ t.width
/-- `vcvt` (R157): between lane types, or between the formats of a pending pair. -/
def execVcvt (src t : Ty) (k : KReg) (p : Fin 8) (a d : VReg) (m : Option Modifier) (s : State) : Out :=
  onCore s fun pl c =>
    let ty := if c.pp then c.pf else src
    let td := if c.pp then c.pd else t
    let ls := 512 / ty.width
    let ld := 512 / td.width
    let e := min ls ld
    let md := modOr m
    let mk := c.mask k
    if p.val * e ≥ max ls ld then trap s 0x01 0 (wordHere s pl c) (mlen m)
    else
      let rs : List LaneRes := (List.range e).map fun i =>
        if on mk i then
          let x := readTy ty (lane c.v[a] ty.width (if ls ≥ ld then p.val * e + i else i))
          some (deliverLane s c md td (!ty.isInt) i (srcA md x) {})
        else none
      -- the lanes of vd: those below the part are left
      let base := if ls ≥ ld then 0 else p.val * e
      finishVec s c (mlen m) 1 vPj (List.replicate base none ++ rs) (some (d, if td.laneCode < 16 then td.laneCode else 15))
        (intoV d td.width)

/-- `vsum.q` (R158, R111): each turn takes one slot, until a control word stands at the head; the exception of a slot under
ST.EFX performs its effect with HEAD past that slot. -/
def execVsumQ (t : Ty) (k : KReg) (q : QReg) (d : VReg) (m : Option Modifier) (s : State) : Out :=
  onRing s q fun c r =>
    let acc := match c.wait with
      | .accum a => a
      | _ => c.v[d]
    if r.fill < 1 then put s { c.stall with wait := .accum acc }
    else
      let slot := BitVec.ofNat 512 (leNat (ringHead c.lm r 64))
      if slot.getLsbD 63 then put s ((c.setV d acc).retire (mlen m) 1)
      else
        let md := modOr m
        let mk := c.mask k
        let rs : List LaneRes := (List.range t.lanes).map fun i =>
          if on mk i then
            let (x, f) := addExt (modeFor md (c.stBits 26 24) t) (readTy t (lane acc t.width i)) (readTy t (lane slot t.width i))
            some (deliverLane s c md t false i x f)
          else none
        let c := c.ringPop q
        let w := t.width
        if c.stBits 37 37 = 1 ∧ (pickEffect rs).isSome then
          finishVec s c (mlen m) 1 vPj rs (some (d, t.laneCode)) fun c rs _ => c.setV d (setLanes w acc (codes rs))
        else
          let c := ({ c with st := orFx c.st (allFlags rs) } : Core).charge 1 vPj
          put s { c with wait := .accum (setLanes w acc (codes rs)) }

end Sys2Proof.Machine
end

