-- ==== Sys2Proof/Machine/VectorMem.lean ====
section
/-! DEFINITION. Major 0x14: vector loads and stores of own LM (R159 to R162), and the conversions that they share with the global
vector forms (R201): the memory format, blk4 scales inline or at BA1 (R79), elements under the mask. -/
namespace Sys2Proof.Machine

/-- The memory format of a load or a store of a lane type: the prefix's, or the lane type itself (R160). -/
def memFmt (c : Core) (load : Bool) (t : Ty) : Ty := if c.pp then (if load then c.pf else c.pd) else t
/-- The bytes of the whole span, the inline scale included (R79, R160). -/
def spanOf (c : Core) (mf t : Ty) : Nat :=
  if mf = .blk4 then (if c.ps = .inline then 17 else 16) else (t.lanes * mf.width + 7) / 8
/-- An element of memory as it is read: a code and, for blk4, its scale (R97). -/
def memExt (mf : Ty) (scale code : Nat) : Ext := if mf = .blk4 then readBlk scale code else readTy mf code
/-- An element loaded into lane i: a copy without a prefix, a conversion with one (R104, R160). -/
def loadLane (s : State) (c : Core) (m : Modifier) (mf t : Ty) (i scale code : Nat) : Nat × Flags :=
  if c.pp then deliverLane s c m t (!mf.isInt) i (srcA m (memExt mf scale code)) {} else (code, {})
/-- The lanes of the type that the mask computes. -/
def computed (c : Core) (k : KReg) (t : Ty) : List Nat := (List.range t.lanes).filter fun i => on (c.mask k) i
/-- The elements of a register as a store writes them: the scale byte of a block, and each lane's code and flags
(R71, R99). The e of a random mode is the lane's index also where the addresses do not ascend in lane order (DESIGN CHOICE, log 96:
R103 does not say which order counts). -/
def storeLanes (s : State) (c : Core) (m : Modifier) (mf t : Ty) (bt : Nat) (k : KReg) (v : BitVec 512) : Nat × List LaneRes :=
  let xs (i : Nat) : Ext := srcA m (readTy t (lane v t.width i))
  if !c.pp then (0, (List.range t.lanes).map fun i => if on (c.mask k) i then some (lane v t.width i, {}) else none)
  else if mf = .blk4 then
    let rm := modeFor m (c.stBits 26 24) .blk4
    writeBlk bt m rm (fun e => if rm = .sr then drawFor s c e else 0)
      ((List.range t.lanes).map fun i => if on (c.mask k) i then some (xs i) else none)
  else (0, (List.range t.lanes).map fun i =>
    if on (c.mask k) i then some (deliverLane s c m mf (!t.isInt) i (xs i) {}) else none)

/-- The own-LM offset of a vector access of n bytes with an alignment (R159). -/
def vecOwn (s : State) (p : Plot) (c : Core) (ea : Word) (n al : Nat) : Except Bad Nat :=
  match myDecode s p c ea 1 with
  | .error (0x21, a, _) => .error (0x21, a, BitVec.ofNat 64 n)
  | .error b => .error b
  | .ok (w, off) =>
    if w ≠ c.cid ∨ off + n > (if s.cur.svc then 0x100000 else 0x38000) then .error (0x21, ea, BitVec.ofNat 64 n)
    else if off % al ≠ 0 then .error (0x20, ea, BitVec.ofNat 64 al)
    else .ok off
/-- The alignment of an element of a memory format: its size in whole bytes, else none (R159). -/
def memAlign (mf : Ty) : Nat := if mf.width % 8 = 0 then mf.width / 8 else 1
/-- The block uses the scale at BA1 (R79). -/
def splitScale (c : Core) (mf : Ty) : Bool := c.pp && mf == .blk4 && c.ps == .split
/-- BA1 moves past a split scale (R79). -/
def Core.stepBa1 (c : Core) (mf : Ty) : Core := if splitScale c mf then c.setBa true (c.ba true + 8) else c
/-- The fault of a split scale: past user LM, LM_BIT_RANGE as for any bit field at BA1 (DESIGN CHOICE, log 93: neither R160 nor R368
names a fault for it); or for a load an uncorrectable error, looked for at BA1 also where no lane is computed, and at an inline
scale only where one is (DESIGN CHOICE, log 96: R159 does not say whether a load without a computed lane reads its scale). -/
def scaleBad (c : Core) (mf : Ty) (load : Bool) : Option Bad :=
  let b := c.ba true
  if !splitScale c mf then none
  else if b + 8 > lmBitEnd then some (0x22, BitVec.ofNat 64 b, 8)
  else if load && lmBad c (b / 8) ((b % 8 + 15) / 8) then some (0x23, BitVec.ofNat 64 (b / 8), Config.freeWord (b / 8) 0)
  else none
/-- The scale byte that a load reads: inline at a byte address given by its reader, or at BA1. -/
def scaleByte (c : Core) (mf : Ty) (inline : Nat) : Nat := if splitScale c mf then lmBits c.lm (c.ba true) 8 else inline
/-- Cycles for fields that lie in two words (R163). -/
def splitCosts (bs : List (Nat × Nat)) : Nat := (bs.map fun x => splitCost x.1 x.2).sum
/-- Distinct 8-byte words that bit fields touch. -/
def wordsTouched (bs : List (Nat × Nat)) : List Nat :=
  (bs.flatMap fun x => [x.1 / 64, (x.1 + x.2 - 1) / 64]).eraseDups
/-- Steps of a strided access: the most words in one bank, bits [5:3] of the address (R163). -/
def bankSteps (bs : List (Nat × Nat)) : Nat :=
  ((List.range 8).map fun b => ((wordsTouched bs).filter fun w => w % 8 = b).length).foldl max 1
/-- The bit fields at which a block's scale stands too. -/
def withScale (c : Core) (mf : Ty) (off : Nat) (bs : List (Nat × Nat)) : List (Nat × Nat) :=
  if mf ≠ .blk4 ∨ !c.pp then bs else if splitScale c mf then (c.ba true, 8) :: bs else (8 * (off + 16), 8) :: bs

/-- Fields of LM that are written: their first bits, widths and values. -/
abbrev BitWrites := List (Nat × Nat × Nat)
/-- Writes bit fields in order; words wholly written lose their error mark, and sleepers look again (R136, R143). -/
def Core.storeBits (c : Core) (ws : BitWrites) : Core :=
  let lm := ws.foldl (fun m x => lmSetBits m x.1 x.2.1 x.2.2) c.lm
  let whole (w : Nat) : Bool := (List.range 8).all fun j => ws.any fun x => decide (x.1 ≤ 8 * (w + j) ∧ 8 * (w + j) + 8 ≤ x.1 + x.2.1)
  let c := { c with lm := lm, lmErr := c.lmErr.filter fun w => !whole w }
  ws.foldl (fun c x => wakeLm c (x.1 / 8) ((x.1 % 8 + x.2.1 + 7) / 8)) c
/-- The field writes of a store's lanes at the bit addresses of its elements, with the scale of a block that has one. -/
def laneWrites (at_ : Nat → Nat) (w : Nat) (rs : List LaneRes) : BitWrites :=
  ((rs.zip (List.range rs.length)).filterMap fun x => x.1.map fun y => (at_ x.2, w, y.1))

/-- A load whose element i stands at bit `at_ i` of own LM. -/
def vecLoad (s : State) (c : Core) (mf t : Ty) (k : KReg) (d : VReg) (m : Option Modifier) (off : Nat) (at_ : Nat → Nat)
    (strided : Bool) (done : Core → Core) : Out :=
  let es := computed c k t
  let fs := withScale c mf off (es.map fun i => (at_ i, mf.width))
  match scaleBad c mf true with
  | some (cause, a, i) => trap s cause a i (mlen m)
  | none =>
    -- the words of the elements, and that of an inline scale
    let at8 := (es.map fun i => (at_ i / 8, (at_ i % 8 + mf.width + 7) / 8))
      ++ (if mf = .blk4 ∧ c.pp ∧ !splitScale c mf ∧ !es.isEmpty then [(off + 16, 1)] else [])
    match at8.find? fun x => lmBad c x.1 x.2 with
    | some x => trap s 0x23 (BitVec.ofNat 64 x.1) (Config.freeWord x.1 0) (mlen m)
    | none =>
      let sc := scaleByte c mf (c.lm.num (off + 16) 1)
      let rs : List LaneRes := (List.range t.lanes).map fun i =>
        if on (c.mask k) i then some (loadLane s c (modOr m) mf t i sc (lmBits c.lm (at_ i) mf.width)) else none
      let cyc := (if strided then bankSteps fs else 1) + splitCosts fs
      finishVec s c (mlen m) cyc (5 * (wordsTouched fs).length) rs (some (d, t.laneCode)) fun c rs _ =>
        (done c).setV d (setLanes t.width c.v[d] (codes rs))
/-- A store whose element i goes to bit `at_ i` of own LM; `bt` is T of a blk4 store. The codes are written first: where the scale byte
at BA1 lies among them, it stands (DESIGN CHOICE, log 96: R160 gives no order). -/
def vecStore (s : State) (c : Core) (mf t : Ty) (k : KReg) (d : VReg) (bt : Nat) (m : Option Modifier) (off : Nat)
    (at_ : Nat → Nat) (strided : Bool) : Out :=
  let es := computed c k t
  let fs := withScale c mf off (es.map fun i => (at_ i, mf.width))
  match scaleBad c mf false with
  | some (cause, a, i) => trap s cause a i (mlen m)
  | none =>
    let (sc, rs) := storeLanes s c (modOr m) mf t bt k c.v[d]
    let cyc := (if strided then bankSteps fs else 1) + splitCosts fs
    let scale : BitWrites :=
      if mf ≠ .blk4 ∨ !c.pp ∨ es.isEmpty then []
      else if splitScale c mf then [(c.ba true, 8, sc)] else [(8 * (off + 16), 8, sc)]
    let write (c : Core) (rs : List LaneRes) (_ : Word) : Core := (c.storeBits (laneWrites at_ mf.width rs ++ scale)).stepBa1 mf
    finishVec s c (mlen m) cyc (5 * (wordsTouched fs).length) rs none write t.laneCode

/-- `vld` (R159, R160). -/
def execVld (t : Ty) (k : KReg) (a : Fin 8) (d : VReg) (m : Option Modifier) (s : State) : Out :=
  onCore s fun p c =>
    let mf := memFmt c true t
    match vecOwn s p c (c.rn a) (spanOf c mf t) (memAlign mf) with
    | .error (cause, x, i) => trap s cause x i (mlen m)
    | .ok off => vecLoad s c mf t k d m off (fun i => 8 * off + mf.width * i) false fun c => c.stepBa1 mf
/-- `vst` (R159, R160). -/
def execVst (t : Ty) (k : KReg) (y : Fin 4) (a : Fin 8) (d : VReg) (m : Option Modifier) (s : State) : Out :=
  onCore s fun p c =>
    let mf := memFmt c false t
    match vecOwn s p c (c.rn a) (spanOf c mf t) (memAlign mf) with
    | .error (cause, x, i) => trap s cause x i (mlen m)
    | .ok off => vecStore s c mf t k d y m off (fun i => 8 * off + mf.width * i) false

/-- The offsets of the computed elements of a strided or indexed access, or the first fault (R159, R161). -/
def elemOffs (s : State) (p : Plot) (c : Core) (n : Nat) (ea : Nat → Word) : List Nat → Except Bad (List (Nat × Nat))
  | [] => .ok []
  | i :: is =>
    match vecOwn s p c (ea i) n n with
    | .error b => .error b
    | .ok off => (elemOffs s p c n ea is).map fun r => (i, off) :: r
/-- The bit at which element i stands. -/
def offOf (xs : List (Nat × Nat)) (i : Nat) : Nat := 8 * (((xs.find? fun x => x.1 = i).map (·.2)).getD 0)
/-- The address of element i of a strided access. -/
def strideEa (c : Core) (a g : Fin 8) (i : Nat) : Word := c.rn a + BitVec.ofNat 64 i * c.rn g
/-- The address of element i of an indexed access (R161). -/
def indexEa (base : Word) (v : BitVec 512) (t mf : Ty) (i : Nat) : Word :=
  base + sextN (lane v t.width i) t.width * BitVec.ofNat 64 (mf.width / 8)
/-- A strided or indexed load. -/
def scatLoad (s : State) (t : Ty) (k : KReg) (d : VReg) (m : Option Modifier) (ea : Core → Ty → Nat → Word) : Out :=
  onCore s fun p c =>
    let mf := memFmt c true t
    match elemOffs s p c (mf.width / 8) (ea c mf) (computed c k t) with
    | .error (cause, x, i) => trap s cause x i (mlen m)
    | .ok xs => vecLoad s c mf t k d m 0 (offOf xs) true id
/-- A strided or indexed store. -/
def scatStore (s : State) (t : Ty) (k : KReg) (d : VReg) (m : Option Modifier) (ea : Core → Ty → Nat → Word) : Out :=
  onCore s fun p c =>
    let mf := memFmt c false t
    match elemOffs s p c (mf.width / 8) (ea c mf) (computed c k t) with
    | .error (cause, x, i) => trap s cause x i (mlen m)
    | .ok xs => vecStore s c mf t k d 0 m 0 (offOf xs) true
/-- `vlds` (R161). -/
def execVlds (t : Ty) (k : KReg) (n a : Fin 8) (d : VReg) (m : Option Modifier) (s : State) : Out :=
  scatLoad s t k d m fun c _ => strideEa c a n
/-- `vsts` (R161). -/
def execVsts (t : Ty) (k : KReg) (n a : Fin 8) (d : VReg) (m : Option Modifier) (s : State) : Out :=
  scatStore s t k d m fun c _ => strideEa c a n
/-- `vgat` (R161). -/
def execVgat (t : Ty) (k : KReg) (b : VReg) (a : Fin 8) (d : VReg) (m : Option Modifier) (s : State) : Out :=
  scatLoad s t k d m fun c mf => indexEa (c.rn a) c.v[b] t mf
/-- `vsct` (R161). -/
def execVsct (t : Ty) (k : KReg) (b : VReg) (a : Fin 8) (d : VReg) (m : Option Modifier) (s : State) : Out :=
  scatStore s t k d m fun c mf => indexEa (c.rn a) c.v[b] t mf
/-- `vlbit` (R162). -/
def execVlbit (t : Ty) (k : KReg) (x : Bool) (d : VReg) (m : Option Modifier) (s : State) : Out :=
  onCore s fun _ c =>
    let mf := memFmt c true t
    let b := c.ba x
    let n := t.lanes * mf.width
    if b + n > lmBitEnd then trap s 0x22 (BitVec.ofNat 64 b) (BitVec.ofNat 64 n) (mlen m)
    else vecLoad s c mf t k d m 0 (fun i => b + mf.width * i) false fun c => c.setBa x (b + n)

end Sys2Proof.Machine
end

