-- ==== Sys2Proof/Machine/Special.lean ====
section
/-! DEFINITION. Special registers (R62, R138, R323, R360): what each reads, and what a write changes. -/
namespace Sys2Proof.Machine

/-- Plane time at a tile of a plot, in ns (R62, R318). -/
def planeTime (s : State) (p : Plot) (tile : Nat) : Nat := s.dev.time + ((p.tiles[tile]?).map (·.skew)).getD 0
/-- The tile of the core that steps. -/
def State.myTile (s : State) : Nat := if s.cur.svc then s.cur.idx else s.cur.idx / 32
/-- A core is a member of a group (R323). -/
def memberOf (p : Plot) (c : CoreId) (gid : Nat) : Option Group :=
  p.groups.find? fun g => g.gid = gid && g.members.any fun m => m.dev.isNone && m.cid == c && !m.left
/-- A field of the group that CLG selects, 0 for a core that is no member (R323). -/
def groupField (p : Plot) (c : Core) (f : Group → Nat) : Word := BitVec.ofNat 64 (((memberOf p c.cid c.clg.toNat).map f).getD 0)
/-- The service core of the tile. -/
def svcOf (p : Plot) (t : Nat) : SvcCore := ((p.tiles[t]?).map (·.svc)).getD (SvcCore.init 0)

/-- What `rsr` reads (R48, R60, R62, R214, R323, R360); SVQ and CPGO have their own acts. -/
def sregRead (s : State) (p : Plot) (c : Core) (n : Nat) : Word :=
  let v := svcOf p s.myTile
  match n with
  | 0x000 => c.st
  | 0x001 => c.wid
  | 0x002 => c.cid.setWidth 64
  | 0x003 => BitVec.ofNat 64 (s.cur.pid % 16)
  | 0x004 => c.lid.setWidth 64
  | 0x005 => c.budget.setWidth 64
  | 0x006 => c.htop
  | 0x007 => c.ba0.setWidth 64
  | 0x008 => c.ba1.setWidth 64
  | 0x009 => c.lmret.setWidth 64
  | 0x00A => BitVec.ofNat 64 (planeTime s p s.myTile)
  | 0x00B => c.cyc
  | 0x00C => BitVec.ofNat 64 (((p.launch? c.lid).map fun l => l.swept / 1000000).getD 0 % 2 ^ 40)
  | 0x00D => c.xfid.setWidth 64
  | 0x00E => c.jobid.setWidth 64
  | 0x010 => c.cpsrc
  | 0x011 => c.cpdst
  | 0x012 => c.cplen.setWidth 64
  | 0x013 => c.cpstrs
  | 0x014 => c.cpstrd
  | 0x015 => c.cpcnt.setWidth 64
  | 0x016 => c.cphdl
  | 0x030 => groupField p c (·.w)
  | 0x031 => groupField p c (·.d)
  | 0x032 => groupField p c (·.skew)
  | 0x033 => c.clg.setWidth 64
  | 0x040 => (c.count c.lid).seq.setWidth 64
  | 0x801 => v.svver.setWidth 64
  | 0x802 => BitVec.ofNat 64 (2 ^ 6 * v.rpbase.toNat + 2 ^ 20 * v.rplog.toNat)
  | 0x803 => v.rphead.setWidth 64
  | 0x804 => v.rptail.setWidth 64
  | 0x805 => v.rplost.setWidth 64
  | 0x806 => v.svlim.setWidth 64
  | _ => 0

/-- The head of SVQ is taken (R350, R360): its slot and cause, at a plane time. -/
def SvcCore.takeSvq (v : SvcCore) (now : Nat) : Word × SvcCore :=
  match v.svq with
  | [] => (0, v)
  | i :: rest =>
    match (v.slots[i]?).join with
    | none => (0, { v with svq := rest })
    | some r =>
      (BitVec.ofNat 64 (i + 2 ^ 8 * r.cause.toNat + 2 ^ 63),
       { v with svq := rest, slots := v.slots.set i (some { r with taken := some now }) })
/-- Reports that wait at a tile's cores enter the ring while there is room (R352). -/
def Plot.flushReports (p : Plot) (t : Nat) : Plot :=
  (List.range 32).foldl (fun p j =>
    match (p.core? (32 * t + j)).bind (·.report) with
    | none => p
    | some r =>
      if (svcOf p t).ringFull then p
      else (p.modTile t fun x => x.modSvc fun v => v.report r).modCore (32 * t + j) fun c => { c with report := none }) p
/-- A core that waited for its release goes on; DROP discards the message that an abort returned, which has counted as received since it
entered the queue (R49, R352, R354). -/
def Core.released (c : Core) (drop : Bool) : Core :=
  let c := { c with hold := .free }
  if drop && c.back.isSome then { c with back := none }.goIdle else c
/-- SVREL of a slot of a tile (R352): without effect unless its core waits for it and its report has been written. -/
def Plot.svrel (p : Plot) (t slot : Nat) (drop : Bool) : Plot :=
  match p.core? (32 * t + slot) with
  | none => p
  | some c => if c.hold = .svrel ∧ c.report.isNone then p.modCore (32 * t + slot) fun c => c.released drop else p

/-- A write of a special register of the core itself (R31, R61, R62, R129, R214, R323); RO registers stay. -/
def Core.sregWrite (c : Core) (svc : Bool) (n : Nat) (w : Word) : Core :=
  match n with
  | 0x000 => { c with st := writeSt c.st w (!svc) }
  | 0x005 => if w.toNat < c.budget.toNat then { c with budget := w.setWidth 25 } else c
  | 0x006 => { c with htop := w &&& 0xFFFFFFFF }
  | 0x007 => { c with ba0 := w.setWidth 21 }
  | 0x008 => { c with ba1 := w.setWidth 21 }
  | 0x009 => { c with lmret := w.setWidth 8, retain := none }
  | 0x010 => { c with cpsrc := w }
  | 0x011 => { c with cpdst := w }
  | 0x012 => { c with cplen := w.setWidth 24 }
  | 0x013 => { c with cpstrs := w }
  | 0x014 => { c with cpstrd := w }
  | 0x015 => { c with cpcnt := w.setWidth 24 }
  | 0x016 => { c with cphdl := w &&& 0x800000000003FFFF }
  | 0x033 => { c with clg := w.setWidth 8 }
  | _ => c
/-- A write of a service-core register (R352, R360). -/
def Plot.svcWrite (p : Plot) (t n : Nat) (w : Word) : Plot :=
  match n with
  | 0x802 =>
    let l := fld w 23 20
    (p.modTile t fun x => x.modSvc fun v =>
      { v with rpbase := BitVec.ofNat 14 (fld w 19 6), rplog := BitVec.ofNat 4 (if 4 ≤ l ∧ l ≤ 12 then l else 4) }).flushReports t
  | 0x804 => (p.modTile t fun x => x.modSvc fun v => { v with rptail := w.setWidth 32 }).flushReports t
  | 0x806 => p.modTile t fun x => x.modSvc fun v => { v with svlim := w.setWidth 32 }
  | 0x807 => p.svrel t (fld w 4 0) (w.getLsbD 8)
  | _ => p

/-- `rsr` (R138). -/
def execRsr (d : Reg) (n : BitVec 12) (s : State) : Out :=
  onCore s fun p c =>
    if 0x800 ≤ n.toNat ∧ !s.cur.svc then trap s 0x09 0 (wordHere s p c)
    else if n = 0x800 then
      let (w, _) := (svcOf p s.myTile).takeSvq (planeTime s p s.myTile)
      .next ((s.modMine fun p => p.modTile s.myTile fun t => t.modSvc fun v => (v.takeSvq (planeTime s p s.myTile)).2).modMe
        fun c => (c.setG d w).retire 4 1)
    else put s ((c.setG d (sregRead s p c n.toNat)).retire 4 1)
/-- `wsr` (R138). -/
def execWsr (n : BitVec 12) (a : Reg) (s : State) : Out :=
  onCore s fun p c =>
    let w := c.r a
    if 0x800 ≤ n.toNat ∧ !s.cur.svc then trap s 0x09 0 (wordHere s p c)
    else if 0x800 ≤ n.toNat then .next ((s.modMine fun p => p.svcWrite s.myTile n.toNat w).modMe fun c => c.retire 4 1)
    else put s ((c.sregWrite s.cur.svc n.toNat w).retire 4 1)

end Sys2Proof.Machine
end

