-- ==== Sys2Proof/Machine/Global.lean ====
section
/-! DEFINITION. Majors 0x18 and 0x19: global loads and stores, scalar (R200) and vector (R201), with the checks at issue (R193). -/
namespace Sys2Proof.Machine

/-- The lines of device memory that a load touches. -/
def devLines (xs : List (Nat × Loc × Bool)) : List Nat :=
  (xs.filterMap fun x => match x.2.1 with
    | .dev a => some (lineOf a)
    | _ => none).eraseDups
/-- The energy of a load at the tile router and the home ports (R47): a copy read is one tile-cache event, a miss a line read at home,
a fill and a read; a page kept out of the tile cache costs the line alone. -/
def loadPj (p : Plot) (c : Core) (xs : List (Nat × Loc × Bool)) : Nat :=
  ((devLines xs).map fun l =>
    let ys := xs.filter fun x => (match x.2.1 with
      | .dev a => lineOf a == l
      | _ => false) && !forwarded p c x.1 x.2.1
    if ys.isEmpty then 0 else if ys.any fun x => readsHome p c x then (if ys.any (·.2.2) then 780 else 900) else 60).sum

/-- The checks of a scalar global access at issue (R165, R193): its bytes with their places, and the plot after the walk. `mis` is
the cause of a misaligned address. -/
def globalCheck (p : Plot) (c : Core) (ea : Word) (size acc : Nat) (mis : Cause) : Except Bad (List (Nat × Loc × Bool)) × Plot :=
  if fld ea 63 48 ≠ 0 then (.error (0x32, ea, 0), p)
  else if ea.toNat % size ≠ 0 then (.error (mis, ea, BitVec.ofNat 64 size), p)
  else translateAll p (tileOf c.cid) acc ((List.range size).map fun i => ea.toNat + i)
/-- The base and offset of a scalar global access (R200). -/
def gEa (c : Core) (a : Reg) (o : BitVec 9) : Word := c.r a + o.signExtend 64

/-- A scalar global load, with what an acquire does after it (R178, R200). -/
def gldOp (s : State) (k : LdKind) (o : BitVec 9) (a d : Reg) (after : Core → Core) : Out :=
  onCore s fun p c =>
    match walked p c.tag (globalCheck p c (gEa c a o) k.size 0 0x33) with
    | (.error (cause, x, i), p) => trap (s.modMine fun _ => p) cause x i
    | (.ok xs, p) =>
      let pj := loadPj p c xs
      loadThen s p c xs 4 fun p c bs =>
        .next (putPlot s (p.spendFor c.tag pj)
          (after ((c.setG d (ldValue k (leNat bs))).retire 4 1)))
/-- `gld` (R200). -/
def execGld (k : LdKind) (o : BitVec 9) (a d : Reg) (s : State) : Out := gldOp s k o a d id
/-- `gld.acq` (R178, R180, R200). -/
def execGldAcq (k : LdKind) (sc : Scope) (o : BitVec 9) (a d : Reg) (s : State) : Out := gldOp s k o a d fun c => c.acquire sc

/-- The bytes of a store with their places. -/
def storeBytes (xs : List (Nat × Loc × Bool)) (bs : List Byte) : List WByte :=
  (xs.zip bs).map fun x => { va := x.1.1, loc := x.1.2.1, val := x.2 }
/-- A scalar global store (R200). -/
def gstOp (s : State) (k : LdKind) (o : BitVec 9) (a d : Reg) (rel : Option Scope) : Out :=
  onCore s fun p c =>
    match walked p c.tag (globalCheck p c (gEa c a o) k.size 1 0x33) with
    | (.error (cause, x, i), p) => trap (s.modMine fun _ => p) cause x i
    | (.ok xs, p) =>
      .next (putPlot s p ((c.enter (.store (storeBytes xs (leBytes k.size (c.r d).toNat))) rel).retire 4 1))
/-- `gst` (R200). -/
def execGst (k : LdKind) (o : BitVec 9) (a d : Reg) (s : State) : Out := gstOp s k o a d none
/-- `gst.rel` (R178, R200). -/
def execGstRel (k : LdKind) (sc : Scope) (o : BitVec 9) (a d : Reg) (s : State) : Out := gstOp s k o a d (some sc)

/-! Vector forms. -/

/-- The bytes that hold bits of an element of width w at byte address ea, element i of a packed run. -/
def elemBytes (ea w i : Nat) : List Nat := (List.range ((w * i % 8 + w + 7) / 8)).map fun j => ea + w * i / 8 + j
/-- The first element whose address breaks R165 or the alignment of R201. -/
def elemBad (eas : List (Nat × Word)) (al : Nat) : Option Bad :=
  eas.findSome? fun x =>
    if fld x.2 63 48 ≠ 0 then some (0x32, x.2, 0)
    else if x.2.toNat % al ≠ 0 then some (0x33, x.2, BitVec.ofNat 64 al) else none
/-- The bytes of a run of elements at ea, those of the computed lanes, with an inline scale (R201). -/
def runBytes (c : Core) (mf : Ty) (ea : Nat) (es : List Nat) : List Nat :=
  let bs := (es.flatMap fun i => elemBytes ea mf.width i).eraseDups
  if mf = .blk4 ∧ c.pp ∧ c.ps = .inline ∧ !es.isEmpty then bs ++ [ea + 16] else bs
/-- The checks of a contiguous vector access (R201). -/
def runCheck (p : Plot) (c : Core) (mf : Ty) (ea : Word) (es : List Nat) (acc : Nat) :
    Except Bad (List (Nat × Loc × Bool)) × Plot :=
  match elemBad [(0, ea)] (memAlign mf) with
  | some b => (.error b, p)
  | none =>
    let vas := runBytes c mf ea.toNat es
    match vas.find? fun v => decide (v ≥ 2 ^ 48) with
    | some v => (.error (0x32, BitVec.ofNat 64 v, 0), p)
    | none => translateAll p (tileOf c.cid) acc vas
/-- The checks of an indexed access, element by element (R201). -/
def scatCheck (p : Plot) (c : Core) (n : Nat) (ea : Nat → Word) (acc : Nat) :
    List Nat → Except Bad (List (Nat × Loc × Bool)) × Plot
  | [] => (.ok [], p)
  | i :: is =>
    match elemBad [(i, ea i)] n with
    | some b => (.error b, p)
    | none =>
      match translateAll p (tileOf c.cid) acc ((List.range n).map fun j => (ea i).toNat + j) with
      | (.error b, p) => (.error b, p)
      | (.ok xs, p) =>
        match scatCheck p c n ea acc is with
        | (.error b, p) => (.error b, p)
        | (.ok ys, p) => (.ok (xs ++ ys), p)
/-- A byte that a load has read, by address. -/
def byteAt (m : List (Nat × Byte)) (va : Nat) : Nat := ((m.lookup va).getD 0).toNat
/-- The number that n bytes from an address hold. -/
def numAt (m : List (Nat × Byte)) (va n : Nat) : Nat := ((List.range n).map fun j => byteAt m (va + j) * 2 ^ (8 * j)).sum

/-- A vector load whose element i has its code in the bytes read (R201). -/
def gLoadThen (s : State) (p : Plot) (c : Core) (mf t : Ty) (k : KReg) (d : VReg) (xs : List (Nat × Loc × Bool))
    (scaleAt : Nat) (code : List (Nat × Byte) → Nat → Nat) : Out :=
  match scaleBad c mf true with
  | some (cause, a, i) => trap (s.modMine fun _ => p) cause a i
  | none =>
    let pj := loadPj p c xs
    loadThen s p c xs 4 fun p c bs =>
      let m := (xs.map (·.1)).zip bs
      let s1 := putPlot s (p.spendFor c.tag pj) c
      let sc := scaleByte c mf (byteAt m scaleAt)
      let rs : List LaneRes := (List.range t.lanes).map fun i =>
        if on (c.mask k) i then some (loadLane s1 c Modifier.none mf t i sc (code m i)) else none
      finishVec s1 c 4 1 0 rs (some (d, t.laneCode)) fun c rs _ =>
        (c.stepBa1 mf).setV d (setLanes t.width c.v[d] (codes rs))
/-- `gvld` (R201). -/
def execGvld (t : Ty) (k : KReg) (o : BitVec 9) (a : Reg) (d : VReg) (s : State) : Out :=
  onCore s fun p c =>
    let mf := memFmt c true t
    let ea := gEa c a o
    match walked p c.tag (runCheck p c mf ea (computed c k t) 0) with
    | (.error (cause, x, i), p) => trap (s.modMine fun _ => p) cause x i
    | (.ok xs, p) =>
      gLoadThen s p c mf t k d xs (ea.toNat + 16) fun m i =>
        let w := mf.width
        numAt m (ea.toNat + w * i / 8) ((w * i % 8 + w + 7) / 8) / 2 ^ (w * i % 8) % 2 ^ w
/-- `gvgat` (R201). -/
def execGvgat (t : Ty) (k : KReg) (b : VReg) (a : Reg) (d : VReg) (s : State) : Out :=
  onCore s fun p c =>
    let mf := memFmt c true t
    let ea := indexEa (c.r a) c.v[b] t mf
    match walked p c.tag (scatCheck p c (mf.width / 8) ea 0 (computed c k t)) with
    | (.error (cause, x, i), p) => trap (s.modMine fun _ => p) cause x i
    | (.ok xs, p) => gLoadThen s p c mf t k d xs 0 fun m i => numAt m (ea i).toNat (mf.width / 8)

/-- Bytes by address with the bits written, later writes over earlier ones. -/
abbrev ByteMap := List (Nat × Nat × Nat)
/-- A write of a field of n bits at a bit address, into a map of bytes. -/
def ByteMap.put (m : ByteMap) (b n v : Nat) : ByteMap :=
  (List.range ((b % 8 + n + 7) / 8)).foldl (fun m j =>
    let a := b / 8 + j
    let mask := (2 ^ n - 1) * 2 ^ (b % 8) / 2 ^ (8 * j) % 256
    let val := v % 2 ^ n * 2 ^ (b % 8) / 2 ^ (8 * j) % 256
    match m.find? fun x => x.1 = a with
    | none => m ++ [(a, val, mask)]
    | some (_, v0, m0) => m.map fun x => if x.1 = a then (a, (v0 - (v0 &&& mask)) + val, m0 ||| mask) else x) m
/-- The bytes of a vector store that have a place. -/
def placed (xs : List (Nat × Loc × Bool)) (m : ByteMap) : List WByte :=
  m.filterMap fun y => (xs.find? fun x => x.1 = y.1).map fun x =>
    { va := y.1, loc := x.2.1, val := BitVec.ofNat 8 y.2.1, mask := BitVec.ofNat 8 y.2.2 }
/-- A vector store of lanes whose element i goes to bit `at_ i`: one entry with one overflow place (R201); `scaleAt` is the byte of
an inline scale. -/
def gStore (s : State) (p : Plot) (c : Core) (mf t : Ty) (k : KReg) (d : VReg) (bt : Nat) (xs : List (Nat × Loc × Bool))
    (scaleAt : Nat) (at_ : Nat → Nat) : Out :=
  let s1 := s.modMine fun _ => p
  let c := coreIn p c
  match scaleBad c mf false with
  | some (cause, a, i) => trap s1 cause a i
  | none =>
    if c.noPlace 1 then .next (s1.modMe fun _ => if c.ob.isEmpty then c.stall else c.commit.stall)
    else
      let (sc, rs) := storeLanes s1 c Modifier.none mf t bt k c.v[d]
      let blk := decide (mf = .blk4) && c.pp && rs.any (·.isSome)
      let write (c : Core) (rs : List LaneRes) (_ : Word) : Core :=
        let m : ByteMap := (laneWrites at_ mf.width rs).foldl (fun (m : ByteMap) (x : Nat × Nat × Nat) => m.put x.1 x.2.1 x.2.2) []
        let m := if blk && !splitScale c mf then m.put (8 * scaleAt) 8 sc else m
        let c := if blk && splitScale c mf then c.storeBits [(c.ba true, 8, sc)] else c
        (c.stepBa1 mf).enter (.store (placed xs m)) none 1
      finishVec s1 c 4 1 0 rs none write t.laneCode
/-- The offset and T of `gvst` (R201). -/
def gvstOff (c : Core) (mf : Ty) (o : BitVec 9) : Word × Nat :=
  if c.pp ∧ mf = .blk4 then (sextN o.toNat 7, o.toNat / 128) else (o.signExtend 64, 0)
/-- `gvst` (R201). -/
def execGvst (t : Ty) (k : KReg) (o : BitVec 9) (a : Reg) (d : VReg) (s : State) : Out :=
  onCore s fun p c =>
    let mf := memFmt c false t
    let (off, bt) := gvstOff c mf o
    let ea := c.r a + off
    match walked p c.tag (runCheck p c mf ea (computed c k t) 1) with
    | (.error (cause, x, i), p) => trap (s.modMine fun _ => p) cause x i
    | (.ok xs, p) => gStore s p c mf t k d bt xs (ea.toNat + 16) fun i => 8 * ea.toNat + mf.width * i
/-- `gvsct` (R201). -/
def execGvsct (t : Ty) (k : KReg) (b : VReg) (a : Reg) (d : VReg) (s : State) : Out :=
  onCore s fun p c =>
    let mf := memFmt c false t
    let ea := indexEa (c.r a) c.v[b] t mf
    match walked p c.tag (scatCheck p c (mf.width / 8) ea 1 (computed c k t)) with
    | (.error (cause, x, i), p) => trap (s.modMine fun _ => p) cause x i
    | (.ok xs, p) => gStore s p c mf t k d 0 xs 0 fun i => 8 * (ea i).toNat

end Sys2Proof.Machine
end

