-- ==== Sys2Proof/Machine/Atomic.lean ====
section
/-! DEFINITION. Major 0x1A, atomics and reductions on device memory, LM, peers and the host (R202 to R205), and major 0x1B, the
fences (R179, R183, R206). -/
namespace Sys2Proof.Machine

/-- The operation is one that PCIe AtomicOps carry (R189). -/
def hostAtomOk (o : AOp) (returns : Bool) : Bool := o == .add || (returns && (o == .swap || o == .cas))
/-- The word that an atomic names in LM, of the core that steps or of another (R203, R204). -/
def atomLm (s : State) (p : Plot) (c : Core) (o : AOp) (w u : Bool) (ga b cmp : Word) (d : Option Reg) : Out :=
  match myDecode s p c ga (aopSize w) with
  | .error (cause, x, i) => trap s cause x i
  | .ok (t, off) =>
    let n := aopSize w
    if t = c.cid then
      if lmBad c off n then trap s 0x23 ga (Config.freeWord off 0)
      else
        let old := c.lm.num off n
        let c1 := c.store off (leBytes n (aopNew o w u old (aopArg w b) (aopArg w cmp)))
        put s ((match d with
          | some d => c1.setG d (aopOut o w u old)
          | none => c1).retire 4 1 (2 * opPj off n))
    else if c.mig then migrate s p c t
    else if d.isSome ∧ c.det then trap s 0x42 ga 0
    else
      let r : RemOp := { tag := c.tag, dst := t, off := off, act := .atom o w u b cmp, returns := d.isSome }
      if d.isSome then put s { (c.enterRet (.remote r)).bumpSeq.stall with wait := .reply }
      else put s ((c.enter (.remote r)).bumpSeq.retire 4 1)
/-- The word that an atomic names in global memory (R203, R204): a returning one commits and waits. -/
def atomGlobal (s : State) (p : Plot) (c : Core) (o : AOp) (w u : Bool) (ga b cmp : Word) (returns : Bool) : Out :=
  match walked p c.tag (globalCheck p c ga (aopSize w) 2 0x35) with
  | (.error (cause, x, i), p) => trap (s.modMine fun _ => p) cause x i
  | (.ok xs, p) =>
    let s1 := s.modMine fun _ => p
    match xs.head? with
    | none => .next s1
    | some (va, loc, _) =>
      let isHost := match loc with
        | .host _ => true
        | _ => false
      if isHost && !hostAtomOk o returns then trap s1 0xA3 ga (BitVec.ofNat 64 o.code)
      else
        let op : EBody := .atom o w u va loc b cmp returns
        .next (s1.modMe fun _ => if returns then { (c.enterRet op).stall with wait := .reply } else (c.enter op).retire 4 1)
/-- A returning atomic: issued once, then awaited (R26, R203). -/
def atomRet (s : State) (o : AOp) (w u l : Bool) (b a d : Reg) : Out :=
  onCore s fun p c =>
    match c.wait with
    | .got ws =>
      put s ((c.setG d (aopOut o w u ((ws.getD 0 0).toNat % 2 ^ (8 * aopSize w)))).retire 4 1)
    | .failed cause x i => trap (if l then s.modMe Core.unbump else s) cause x i
    | .reply => put s c.stall
    | _ =>
      if l then atomLm s p c o w u (c.r a) (c.r b) (c.r d) (some d)
      else atomGlobal s p c o w u (c.r a) (c.r b) (c.r d) true
/-- `atom` (R203). -/
def execAtom (o : AOp) (w u l : Bool) (b a d : Reg) (s : State) : Out := atomRet s o w u l b a d
/-- `cas` (R203): it compares with gd. -/
def execCas (w l : Bool) (b a d : Reg) (s : State) : Out := atomRet s .cas w false l b a d
/-- `red` (R203, R205). -/
def execRed (o : AOp) (w u l : Bool) (b a : Reg) (s : State) : Out :=
  onCore s fun p c =>
    if l then atomLm s p c o w u (c.r a) (c.r b) 0 none else atomGlobal s p c o w u (c.r a) (c.r b) 0 false

/-- Stalls, once the buffer has committed, until every earlier access of the core is performed at a scope (R179, R183). -/
def drained (s : State) (p : Plot) (c : Core) (sc : Scope) (done : Core → Core) : Out :=
  let c := match c.wait with
    | .begun => c
    | _ => { c.commit with wait := .begun }
  if notPerformed p c c.ord sc then put s c.stall else put s ((done c).retire 4 1)
/-- `fence` (R179, R206): at core scope it orders own-LM accesses, which are at once. A wider one is one commit point (R26); a release
stands behind what it has committed, in CT. -/
def execFence (k : FenceKind) (sc : Scope) (s : State) : Out :=
  onCore s fun p c =>
    if sc = .core then put s (c.retire 4 1)
    else match k with
      | .rel =>
        let c := c.commit
        let d : Core := { c with ct := c.ct ++ [{ tag := c.tag, body := .fence sc }], ord := c.ord + 1 }
        put s (d.retire 4 1)
      | .acq => put s ((c.commit.acquire sc).retire 4 1)
      | .full => drained s p c sc fun c => c.acquire sc
/-- `afence` (R183). -/
def execAfence (s : State) : Out := onCore s fun p c => drained s p c .system fun c => { c with view := [] }

end Sys2Proof.Machine
end

