-- ==== Sys2Proof/Machine/Message.lean ====
section
/-! DEFINITION. Majors 0x1C and 0x1D, messages, ring deliveries, multicasts and `spawn` (R207 to R213), and `sendh` of major 0x1F
(R229, R230). -/
namespace Sys2Proof.Machine

/-- The handler that a label index names in the code object of the instruction, or HANDLER_INDEX (R195). -/
def handlerPc (p : Plot) (c : Core) (h : BitVec 10) : Except Bad Word :=
  match p.handler c.obj.toNat h.toNat with
  | none => .error (0x43, 0, BitVec.ofNat 64 h.toNat)
  | some off => .ok (pcOf c.obj.toNat off.toNat)
/-- The argument word a + i (R196). -/
def argWord (c : Core) (a : Reg) (i : Nat) : Word := c.rn (a.val + i)
/-- The task message of `send` (R208), with the scope that its stint acquires (R181). -/
def taskMsg (c : Core) (pc : Word) (a : Reg) (acq : Option Scope) : Msg :=
  { src := c.cid, seq := c.tag.seq, lid := c.lid, cls := c.sendCls, tag := c.tag, acq := acq,
    body := .task pc c.wid (argWord c a 0) (argWord c a 1) (argWord c a 2) (argWord c a 3) }
/-- `send` (R208). -/
def execSend (h : BitVec 10) (a d : Reg) (s : State) : Out :=
  onCore s fun p c =>
    if !coreArg p (c.r d) then trap s 0x41 (c.r d) 0
    else match handlerPc p c h with
      | .error (cause, x, i) => trap s cause x i
      | .ok pc =>
        let dst := BitVec.ofNat 14 (c.r d).toNat
        enterPlaced s c 1 (.msg dst (taskMsg c pc a (some (p.pairScope c.cid dst)))) fun c => c.bumpSeq.retire 4 1
/-- `send.q` (R209): its words travel as one ring step of the target's message context. -/
def execSendQ (q : QReg) (n : Fin 4) (a d : Reg) (s : State) : Out :=
  onCore s fun p c =>
    if !coreArg p (c.r d) then trap s 0x41 (c.r d) 0
    else
      let ws := (List.range (n.val + 1)).map (argWord c a)
      let r : RemOp := { tag := c.tag, dst := BitVec.ofNat 14 (c.r d).toNat, off := 0, act := .ring q ws, returns := false }
      enterPlaced s c (if n.val > 1 then 1 else 0) (.remote r) fun c => c.bumpSeq.retire 4 1

/-- The members of a multicast's set (R211), or its fault. -/
def mcMembers (p : Plot) (w : Word) : Except Bad (List CoreId × Bool) :=
  let mode := fld w 15 14
  let ms := ((List.range 48).filter fun i => w.getLsbD (16 + i)).map fun i => fld w 13 0 + i
  if ms.isEmpty then .ok ([], false)
  else if mode ≥ 2 then .error (0x01, 0, 0)
  else match ms.find? fun m => !p.hasCore m with
    | some m => .error (0x41, BitVec.ofNat 64 m, 0)
    | none => .ok (ms.map (BitVec.ofNat 14), decide (mode = 1))
/-- `send.mc` (R211, R212). -/
def execSendMc (h : BitVec 10) (a d : Reg) (s : State) : Out :=
  onCore s fun p c =>
    match mcMembers p (c.r d) with
    | .error (cause, x, i) => trap s cause x (if cause = 0x01 then wordHere s p c else i)
    | .ok (ms, rooted) =>
      if ms.isEmpty then put s (c.bumpSeq.retire 4 1)
      else match handlerPc p c h with
      | .error (cause, x, i) => trap s cause x i
      | .ok pc =>
        enterPlaced s c 1 (.mcast ms (taskMsg c pc a none) rooted) fun c => c.bumpSeq.retire 4 1
/-- `send.mc.st` (R211, R212). -/
def execSendMcSt (b a d : Reg) (s : State) : Out :=
  onCore s fun p c =>
    match mcMembers p (c.r d) with
    | .error (cause, x, i) => trap s cause x (if cause = 0x01 then wordHere s p c else i)
    | .ok (ms, rooted) =>
      if ms.isEmpty then put s (c.bumpSeq.retire 4 1)
      else match ownOffset (c.r b) 8 with
      | .error (cause, x, i) => trap s cause x i
      | .ok off =>
        let r : RemOp := { tag := c.tag, dst := c.cid, off := off, act := .store (leBytes 8 (c.r a).toNat), returns := false }
        put s ((c.enter (.mcastSt ms r rooted)).bumpSeq.retire 4 1)
/-- `spawn` (R213): the record is read at issue. -/
def execSpawn (a : Reg) (s : State) : Out :=
  onCore s fun _ c =>
    match ownOffset (c.r a) 64 with
    | .error (cause, x, i) => trap s cause x i
    | .ok off =>
      if lmBad c off 64 then trap s 0x23 (c.r a) (Config.freeWord off 0)
      else enterPlaced s c 1 (.spawn ((List.range 8).map fun i => c.lm.word (off + 8 * i))) fun c => c.bumpSeq.retire 4 1 40

/-! Host queues. -/

/-- The descriptor of a queue follows R229 and is enabled. -/
def HQ.ok (q : HQ) : Bool :=
  q.base.getLsbD 63 && decide (4 ≤ fld q.base 51 48 ∧ fld q.base 51 48 ≤ 16 ∧ fld q.base 62 52 = 0 ∧ fld q.base 5 0 = 0
    ∧ fld q.pia 63 48 = 0)
/-- The page of a virtual address is present, writable and of the host's kind (R230), with the plot after the walk. -/
def hostPage (p : Plot) (tile va : Nat) : Option Nat × Plot :=
  match translate p tile va 1 with
  | (.ok (.host a, _), p) => (some a, p)
  | (_, p) => (none, p)
/-- `sendh` (R230): the entry lacks only SEQ, which is set when it is written. -/
def execSendh (n : Fin 16) (a : Reg) (s : State) : Out :=
  onCore s fun p0 c =>
    let q := p0.hqs.getD n.val {}
    let off (s : State) (va : Nat) : Out := trap s 0x46 (BitVec.ofNat 64 va) (BitVec.ofNat 64 n.val)
    if !q.ok then off s 0
    else
      let va := fld q.base 47 0
      let pia := fld q.pia 47 0
      match hostPage p0 (tileOf c.cid) va with
      | (none, p) => off (s.modMine fun _ => p) va
      | (some _, p) =>
        match (if pia = 0 then (some 0, p) else hostPage p (tileOf c.cid) pia) with
        | (none, p) => off (s.modMine fun _ => p) pia
        | (some _, p) =>
          let p := p.spendFor c.tag (780 * walkedLines p0 p (tileOf c.cid))
          let ws : List Word := [BitVec.ofNat 64 (c.cid.toNat + 2 ^ 16 * c.lid.toNat), c.wid, argWord c a 0, argWord c a 1,
            argWord c a 2, argWord c a 3, c.tag.ident, 0]
          enterPlaced (s.modMine fun _ => p) (coreIn p c) 1 (.hostq n.val ws) fun c => c.bumpSeq.retire 4 1

end Sys2Proof.Machine
end

