-- ==== Sys2Proof/Machine/Place.lean ====
section
/-! DEFINITION. Where a launch places work (R41, R42), when a core is idle (R34, R49), what is set for a launch on a core with its
first message (R36, R146, R414), and how a message enters a core (R45). -/
namespace Sys2Proof.Machine

/-- Puts an element into a list before the first one that it is not after. -/
def insertBy {α : Type} (le : α → α → Bool) (x : α) : List α → List α
  | [] => [x]
  | y :: ys => if le x y then x :: y :: ys else y :: insertBy le x ys
/-- Sorts a list, equal elements in their order. -/
def sortBy {α : Type} (le : α → α → Bool) : List α → List α
  | [] => []
  | x :: xs => insertBy le x (sortBy le xs)

/-! Placement (R41, R42). -/

/-- The extent of a field, an absent one counting as 1 (R38). -/
def Launch.ext (l : Launch) (i : Nat) : Nat := if l.widths.getD i 0 = 0 then 1 else l.extents.getD i 1
/-- The number of work items (R41). -/
def Launch.items (l : Launch) : Nat := ((List.range 6).map l.ext).foldl (· * ·) 1
/-- The index in field i of the item of rank k in ascending WID (R41). -/
def Launch.index (l : Launch) (k i : Nat) : Nat :=
  k / ((List.range 6).drop (i + 1) |>.map l.ext).foldl (· * ·) 1 % l.ext i
/-- The WID of the item of rank k (R41). -/
def Launch.widOf (l : Launch) (k : Nat) : Word :=
  BitVec.ofNat 64 (((List.range 6).foldl (fun (acc : Nat × Nat) i =>
    let w := l.widths.getD i 0
    let pos := acc.1 - w
    (pos, acc.2 + (if w = 0 then 0 else l.index k i * 2 ^ pos))) (64, 0)).2)
/-- The field that binds a level: 1 die, 2 tile, 3 cluster, 4 core (R38). -/
def Launch.fieldOf (l : Launch) (level : Nat) : Option Nat :=
  (List.range 6).find? fun i => decide (l.widths.getD i 0 ≠ 0 ∧ l.places.getD i 0 = level)
/-- The device logical number of the unit of a level that holds a core (R15, R42). -/
def Plot.unit (p : Plot) (level c : Nat) : Nat :=
  let t := ((p.tiles[c / 32]?).map (·.num)).getD 0
  match level with
  | 1 => t / 48
  | 2 => t
  | 3 => 4 * t + c % 32 / 8
  | _ => 32 * t + c % 32
/-- The units of a level in a scope, ascending. -/
def Plot.unitsOf (p : Plot) (level : Nat) (scope : List Nat) : List Nat :=
  (sortBy (fun a b => decide (a ≤ b)) (scope.map (p.unit level)).eraseDups)
/-- The scope that placement starts from (R42). -/
def Plot.scope0 (p : Plot) (l : Launch) : List Nat :=
  List.range (if l.det ∧ l.dshape ≠ 0 then min p.cores.length (32 * l.dshape) else p.cores.length)
/-- Narrows a scope at one level to the units that a choice of positions names. -/
def Plot.narrow (p : Plot) (l : Launch) (pick : Nat → Nat → List Nat) (level : Nat) (scopes : List (List Nat)) : List (List Nat) :=
  match l.fieldOf level with
  | none => scopes
  | some i => scopes.flatMap fun sc =>
    let us := p.unitsOf level sc
    (pick i us.length).map fun k => sc.filter fun c => p.unit level c = us.getD k 0
/-- The scopes after every level. -/
def Plot.narrowAll (p : Plot) (l : Launch) (pick : Nat → Nat → List Nat) : List Nat :=
  (([1, 2, 3, 4].foldl (fun scs lv => p.narrow l pick lv scs) [p.scope0 l]).filterMap fun sc => sc.head?)
/-- The target core of the item of rank k (R42). -/
def Plot.target (p : Plot) (l : Launch) (k : Nat) : Nat :=
  ((p.narrowAll l fun i n => [l.index k i % n]).head?).getD 0
/-- The cores that a launch places work on (R42): at each bound level the first min(x, n) units. -/
def Plot.targets (p : Plot) (l : Launch) : List Nat :=
  if l.compl then [] else p.narrowAll l fun i n => List.range (min (l.ext i) n)

/-! Idle cores (R34, R49). -/

/-- The core is idle for the launches that a test picks (R49): no stint, message, parked runner or waiting world load of one. -/
def Plot.idleFor (p : Plot) (c : Core) (of : Lid → Bool) : Bool :=
  !(((c.stint.map fun x => of x.lid).getD false)
    || c.runq.any (fun m => of m.lid) || c.parked.any (fun m => of m.lid) || ((c.back.map fun m => of m.lid).getD false)
    || c.late.any (fun f => of f.msg.lid) || c.slab.any (fun x => x.state != 0 && x.kind == 3 && of x.lid)
    || (p.waiting.any fun o => o.tag.cid == c.cid && of o.tag.lid && (match o.act with
        | .ld _ => true
        | _ => false))
    || p.away.any fun x => x.load && x.tag.cid == c.cid && of x.tag.lid)
/-- The ring descriptors of a ring table; handles that it does not name are unset (R146, R410). -/
def Core.setRings (c : Core) (rings : List (Nat × Ring)) : Core :=
  { c with q := Vector.ofFn fun i => ((rings.find? fun x => x.1 == i.val).map fun x => { x.2 with v := true, head := 0, tail := 0 }).getD {} }
/-- What R36 sets for a launch on a core: LMRET, BA0, BA1, rings, the frame counter, the id counters. -/
def Core.setFor (c : Core) (rings : List (Nat × Ring)) : Core :=
  { c.setRings rings with lmret := c.lmret &&& c.keptBanks, ba0 := 0, ba1 := 0, frames := 0, xnext := 0, jnext := 0 }
/-- The loader stub's writes (R414): the image at 0 and zero in the rest of user LM, sparing the banks of a live hand-off. -/
def Core.loadImage (c : Core) (image : List Byte) : Core :=
  let spared (a : Nat) : Bool := c.keptBanks.getLsbD (bankOf a)
  let kept := c.lm.filter fun x => decide (x.1 ≥ 0x38000) || spared x.1
  { c with lm := (image.zip (List.range image.length)).foldl (fun m x => if spared x.2 then m else m.set x.2 x.1) kept,
           lmErr := c.lmErr.filter fun w => decide (w ≥ 0x38000) || spared w }
/-- The code object of a launch. -/
def Plot.objOf (p : Plot) (l : Lid) : Option CodeObj := (p.launch? l).bind fun x => p.obj? x.obj.toNat
/-- The core's first message of a launch sets the state of R36 when the launch places work there and the core is idle. -/
def Plot.meet (p : Plot) (dst : Nat) (l : Lid) : Plot :=
  match p.core? dst, p.launch? l with
  | some c, some x =>
    if (c.count l).met then p
    else
      let rings := ((p.objOf l).map (·.rings)).getD []
      let place := dst ∈ p.targets x && p.idleFor c fun _ => true
      p.modCore dst fun c =>
        (if place then c.setFor rings else c).modCount l fun y => { y with met := true }
  | _, _ => p
/-- A write that an answer makes to LM, for its launch (R47); it wakes the banks that it writes (R35). -/
def Core.payWord (c : Core) (l : Lid) (x : Nat × List Byte) : Core :=
  let off := (List.range (wordsOf x.1 x.2.length)).foldl (fun (b : BitVec 8) i => b &&& ~~~(BitVec.ofNat 8 (2 ^ bankOf (x.1 + 8 * i)))) c.bankOff
  ({ c with bankOff := off }.store x.1 x.2).modCount l fun y => { y with pj := y.pj + lmPj x.1 x.2.length }
/-- The LM writes that an answer makes (R228, R300, R335). -/
def Core.payload (c : Core) (m : Msg) : Core := m.pay.foldl (fun c x => c.payWord m.lid x) c
/-- The next 8-byte word of the writes that an answer makes, and the rest (R300, R335). -/
def payNext : List (Nat × List Byte) → Option ((Nat × List Byte) × List (Nat × List Byte))
  | [] => none
  | (a, bs) :: rest => some ((a, bs.take 8), if bs.length ≤ 8 then rest else (a + 8, bs.drop 8) :: rest)
/-- A message enters a core: it is parked for a DET launch (R45), else its payload is written and it is enqueued. -/
def Plot.receive (p : Plot) (dst : Nat) (m : Msg) : Plot :=
  if ((p.launch? m.lid).map (·.det)).getD false then p.modCore dst fun c => c.park m
  else
    let p := p.meet dst m.lid
    { p.modCore dst fun c => (c.payload m).enqueue c.cyc.toNat p.enqs m with enqs := p.enqs + 1 }

end Sys2Proof.Machine
end

