-- ==== Sys2Proof/Machine/Home.lean ====
section
/-! DEFINITION. What happens at a home memory port and at the host: an entry is applied to the array (R172, R184), errors after
commit (R358), answers to returning operations, `sleep.ge.g` (R136), the host link and the park area (R187 to R189, R392). -/
namespace Sys2Proof.Machine

/-- Acts as an agent, and leaves `cur` as it was. -/
def State.asAgent (s : State) (a : Agent) (f : State → State) : State := { f { s with cur := a } with cur := s.cur }

/-- The stint of the core, or a service core's program, waits for the operation with this tag: its last issue. -/
def Core.awaits (c : Core) (t : Tag) : Bool :=
  (c.stint.isSome || c.isSvc) && c.lid == t.lid && c.ord == t.ord + 1 && (match c.wait with
    | .reply => true
    | .search _ _ _ _ => true
    | .fetch _ o _ => o.isSome
    | _ => false)
/-- The bytes of a word that a peer has given, by virtual address (R385), with the bits laid over them that the core's buffers held as the
word was asked for: what they held a load sees, also when it has gone on to the peer meanwhile (R172, R175). -/
def wordBytes (va : Nat) (w : Word) (held : List (Byte × Byte)) : List (Nat × Byte) :=
  (List.range 8).map fun i =>
    let h := held.getD i (0, 0)
    (va + i, ((w >>> (8 * i)).setWidth 8 &&& ~~~h.1) ||| (h.2 &&& h.1))
/-- A value comes for a returning operation (R26): its stint takes it, a search goes on with it (R266); without that stint it is
discarded (R347). -/
def State.reply (s : State) (pid : Nat) (t : Tag) (ws : List Word) : State :=
  match s.plot? pid with
  | none => s
  | some p =>
    match p.ctx? t.cid with
    | none => s
    | some c =>
      if c.awaits t then
        match c.wait with
        | .search r q old n =>
          -- a pause of R355 ends
          let c := c.setSt 38 1 0
          (s.modPlot pid fun p => p.modCtx t.cid fun _ => c).asAgent (p.agentOf t.cid) fun s => searchOn s p c r q (old ++ ws) n
        | .fetch got (some v) held => s.modPlot pid fun p => p.modCtx t.cid fun c =>
            { c.setSt 38 1 0 with wait := .fetch (got ++ wordBytes v (ws.getD 0 0) held) none [] }
        | _ => s.modPlot pid fun p => p.modCtx t.cid fun c => { c.setSt 38 1 0 with wait := .got ws }
      else s
/-- A returning operation fails (R130, R355, R358): the cause comes to its instruction; in a search it is TRELLIS_CORRUPT (R266). -/
def State.fail (s : State) (pid : Nat) (t : Tag) (cause : Cause) (addr info : Word) : State :=
  match s.plot? pid with
  | none => s
  | some p =>
    match p.ctx? t.cid with
    | none => s
    | some c =>
      if c.awaits t then
        match c.wait with
        | .search r q _ _ =>
          let at_ := BitVec.ofNat 64 (hcid q * 2 ^ 18 + hoff q)
          let under := BitVec.ofNat 64 cause.toNat
          -- on a service core every fault is a machine check (R345)
          if c.isSvc then s.asAgent (p.agentOf t.cid) fun s => s.svcCheck 0x63 at_ under
          else s.abortCore pid t.cid.toNat 0x63 false r.pc at_ under
        | _ => s.modPlot pid fun p => p.modCtx t.cid fun c => { c.setSt 38 1 0 with wait := .failed cause addr info }
      else s

/-- The `sleep.ge.g` conditions on words that a write touches (R136). -/
def State.wakeGlob (s : State) (pid : Nat) (touches : Loc → Bool) : State :=
  s.modPlot pid fun p =>
    { p with cores := p.cores.map fun c => c.wake p.enqs fun _ cond => match cond with
        | .glob l t => touches l && geHolds (homeWord s p l) t
        | _ => false }
/-- The word at a place overlaps bytes of an act on device memory. -/
def HAct.touches (a : HAct) (l : Loc) : Bool :=
  match l with
  | .dev x => (match a with
    | .store bs => bs.any fun b => decide (x ≤ b.1 ∧ b.1 < x + 4)
    | .atom _ wide _ y _ _ _ => decide (x < y + aopSize wide ∧ y < x + 4)
    | .red _ wide _ y _ => decide (x < y + aopSize wide ∧ y < x + 4)
    | .reds rs => rs.any fun r => decide (x < r.a + aopSize r.wide ∧ r.a < x + 4)
    | .read _ _ => false)
  | _ => false
/-- The same for bytes of the host or of a peer. -/
def HAct.touchesAt (a : HAct) (mk : Nat → Loc) (l : Loc) : Bool :=
  let pos := match l with
    | .dev _ => none
    | .host x => if l = mk x then some x else none
    | .peer _ x => if l = mk x then some x else none
  match pos with
  | none => false
  | some x => a.touches (.dev x)

/-- The store covers its whole line (R358). -/
def HAct.whole (a : HAct) : Bool :=
  match a with
  | .store bs => decide (((bs.filter fun b => b.2.2 == 0xFF).map (·.1)).eraseDups.length = 64)
  | _ => false
/-- The operation returns a value. -/
def HAct.returns (a : HAct) : Bool :=
  match a with
  | .atom _ _ _ _ _ _ r => r
  | .read _ _ => true
  | _ => false
/-- The tag that an engine's or a unit's access carries for a launch: it stands behind every access of the core itself. -/
def Tag.engine (t : Tag) : Tag := { t with ord := 2 ^ 64 + t.ord }
/-- The tag is that of an engine's access. -/
def Tag.ofEngine (t : Tag) : Bool := decide (2 ^ 64 ≤ t.ord)
/-- The operation of a running job that a store already on its way belongs to: the last one that stores (R237). -/
def MxRun.storeOp (r : MxRun) : Nat :=
  ((List.range (r.next + 1)).reverse.find? fun i => match r.job.ops[i]? with
    | some (.store _ _ _ _ _ _ _ _ _ _ _) => true
    | some (.quant _ _ _ _ _ _ _ _ _ _ _ _) => true
    | _ => false).getD r.next
/-- A write of a copy or of a job has met an error away from the engine (R345): the code goes into its status alone. The error of one
that has completed already shows nowhere but in the log. -/
def Plot.engineMet (p : Plot) (t : Tag) (cause : Cause) : Plot :=
  { p with
    copies := p.copies.map fun (x : CopyJob) =>
      if x.tag.engine = t ∧ x.status.isNone then { x with status := some (BitVec.ofNat 64 (0x95 + 2 ^ 8 * cause.toNat + 2 ^ 16 * x.done)) } else x,
    mxes := p.mxes.map fun (m : Mxe) => { m with run := m.run.map fun (r : MxRun) =>
      if r.job.tag.engine = t ∧ r.failed.isNone then { r with failed := some (0x94, cause, r.storeOp) } else r } }
/-- An error of a committed operation goes to its issuer: it is posted, or, for an engine's, written into its status (R345, R358). -/
def State.postIssuer (s : State) (pid : Nat) (t : Tag) (cause : Cause) (addr info : Word) : State :=
  if t.ofEngine then s.modPlot pid fun p => p.engineMet t cause else s.postTag pid t cause addr info
/-- An error of a committed operation goes to its issuers (R358), and is logged. -/
def State.postAll (s : State) (pid : Nat) (ts : List Tag) (cause : Cause) (addr info : Word) : State :=
  -- an access of the host has no issuing tile
  if ts.isEmpty then s.log (some pid) cause.toNat 1 ((Config.freeWord addr.toNat 1).toNat % 16) 0 addr info
  else ts.foldl (fun s t => (s.postIssuer pid t cause addr info).log (some pid) cause.toNat 1
    ((Config.freeWord addr.toNat 1).toNat % 16) t.lid.toNat addr info) s
/-- An entry is applied to the array at home (R172, R184, R358); it counts its line (R47). A store that covers a whole bad line is applied
part by part, and the last part clears the error. -/
def State.applyHome (s : State) (pid : Nat) (e : HEntry) : State :=
  match s.plot? pid with
  | none => s
  | some p =>
    let s := s.modPlot pid fun p => if e.counts then e.tags.head?.elim p fun t => p.spendFor t 780 else p
    match p.lineErr e.line with
    | some cause =>
      if e.act.whole ∨ e.whole ≠ 0 then
        (s.modPlot pid fun p => { p with
          mem := (applyAct p.mem e.act).1,
          memErr := if e.act.whole ∨ e.whole = 2 then p.memErr.filter fun x => x.1 != e.line else p.memErr }).wakeGlob pid e.act.touches
      else
        let syn := if cause = 0xB2 then Config.freeWord e.line 0 else 0
        if e.act.returns then e.tags.foldl (fun s t => s.fail pid t cause (BitVec.ofNat 64 e.va) syn) s
        else s.postAll pid e.tags cause (BitVec.ofNat 64 (64 * e.line)) syn
    | none =>
      let (m, old) := applyAct p.mem e.act
      let s := s.modPlot pid fun p => { p with mem := m }
      let s := if e.act.returns then e.tags.foldl (fun s t => s.reply pid t [BitVec.ofNat 64 old]) s else s
      s.wakeGlob pid e.act.touches

/-! The host link. -/

/-- A host-bound entry other than a host-queue entry goes onto the link, or parks while the host is lost (R392). -/
def State.toHost (s : State) (pid : Nat) (x : LinkAct) : State :=
  match s.plot? pid with
  | none => s
  | some p =>
    let s1 := s.modPlot pid fun p => p.offer s.dev.hostlost x
    if p.parks s.dev.hostlost && decide (p.park.length ≥ parkLimit) then s1.log (some pid) 0xA5 7 0 0 0 0 else s1
/-- The host performs what comes over the link (R188, R189): stores, AtomicOps, completion words, interrupts. -/
def State.atHost (s : State) (pid : Nat) (x : LinkAct) : State :=
  match x with
  | .mem e =>
    let atomic := match e.act with
      | .store _ => false
      | _ => true
    if atomic && !s.dev.hostAtomics then
      let op := match e.act with
        | .atom o _ _ _ _ _ _ => o.code
        | .red o _ _ _ _ => o.code
        | _ => 0
      if e.act.returns then e.tags.foldl (fun s t => s.fail pid t 0xA3 (BitVec.ofNat 64 e.va) (BitVec.ofNat 64 op)) s
      else e.tags.foldl (fun s t => s.postTag pid t 0xA3 (BitVec.ofNat 64 e.va) (BitVec.ofNat 64 op)) s
    else
      let (m, old) := applyAct s.dev.host e.act
      let s := s.modDev fun d => { d with host := m }
      let s := if e.act.returns then e.tags.foldl (fun s t => s.reply pid t [BitVec.ofNat 64 old]) s else s
      s.wakeGlob pid fun l => e.act.touchesAt .host l
  | .hq _ _ _ => s
  | .completion _ a w => s.modDev fun d => { d with host := d.host.setWord a w }
  | .msix v => s.modPlot pid fun p => { p with msix := v :: p.msix }
/-- An entry on the link is an operation that returns a value, and its core has issued another entry before it (R175, R187). -/
def LinkAct.follows (y x : LinkAct) : Bool :=
  match y, x with
  | .mem e, .mem f => e.act.returns && e.tags.any fun t => f.before t.cid t.ord
  | _, _ => false
/-- An entry on the link waits for a parked entry that its core has issued before it. -/
def Plot.linkHeld (p : Plot) (y : LinkAct) : Bool := p.park.any y.follows
/-- The head of a plot's link reaches the host. -/
def State.linkStep (s : State) (pid : Nat) : State :=
  match s.plot? pid with
  | none => s
  | some p =>
    match p.link with
    | [] => s
    | x :: rest => if s.dev.hostlost || p.linkHeld x then s else (s.modPlot pid fun p => { p with link := rest }).atHost pid x
/-- A store by a party other than a core to a byte range of device memory, applied at once at home (R188, R371). -/
def storeAct (a : Nat) (bs : List Byte) : HAct := .store (((List.range bs.length).zip bs).map fun x => (a + x.1, x.2, 0xFF))

/-- A store joins the tail of the home port's queue, where it is performed (R172, R173), and sleepers look again (R136). -/
def State.joinWq (s : State) (pid : Nat) (e : HEntry) : State :=
  (s.modPlot pid fun p => { p with wq := p.wq ++ [e] }).wakeGlob pid e.act.touches
/-- A message sets out for a core of the plot. -/
def Plot.sendTo (p : Plot) (dst : CoreId) (m : Msg) : Plot := { p with flights := p.flights ++ [{ dst := dst, msg := m }] }

end Sys2Proof.Machine
end

