-- ==== Sys2Proof/Machine/Copy.lean ====
section
/-! DEFINITION. Copies: `cpgo` and `cpwait` (R214 to R217, R222), and the events of the copy engines (R218 to R221). -/
namespace Sys2Proof.Machine

/-- An end of a copy or a barrier word: LM of a core, or a plot virtual address (R139, R214). -/
inductive End where
  | lm (c : CoreId) (off : Nat)
  | glob (va : Nat)
  deriving DecidableEq, Repr

/-- The end that an operand names (R139). -/
def endOf (p : Plot) (me : CoreId) (a : Word) : Option End :=
  if isLmForm a then
    let c := if a.toNat < 0x40000 then me.toNat else fld a 31 18
    if p.hasCore c then some (.lm (BitVec.ofNat 14 c) (fld a 17 0)) else none
  else if fld a 63 48 = 0 then some (.glob a.toNat) else none
/-- The rows of an end stay in their space (R217). DESIGN CHOICE (log 93): R217 lists rows that leave LM; rows of a global end that
leave the 48-bit space are refused alike. -/
def rowsFit (e : End) (len cnt : Nat) (stride : Word) : Bool :=
  let (o, top) := match e with
    | .lm _ off => (off, 0x38000)
    | .glob va => (va, 2 ^ 48)
  let far : Int := stride.toInt * ((cnt : Int) - 1)
  len = 0 || cnt = 0 || (decide (0 ≤ (o : Int) + min 0 far) && decide ((o : Int) + max 0 far + len ≤ top))
/-- An end in LM lies in the issuing core's cluster (R217). -/
def End.near (e : End) (me : CoreId) : Bool :=
  match e with
  | .lm c _ => clusterOf c == clusterOf me
  | .glob _ => true
/-- A parameter block in own LM (R215). -/
def blockAt (m : Memory) (o : Nat) : Block :=
  { pc := m.word o, a0 := m.word (o + 8), a1 := m.word (o + 16), a2 := m.word (o + 24), a3 := m.word (o + 32),
    bar := m.word (o + 40), inc := (m.word (o + 48)).setWidth 32 }
/-- A PC names loaded code (R217). -/
def Plot.hasCode (p : Plot) (obj off : Nat) : Bool := ((p.obj? obj).map fun o => decide (off < o.code.length)).getD false
/-- The block keeps R215 and R217. DESIGN CHOICE (log 93): a barrier word whose four bytes pass the end of user LM is refused like a
misaligned one. -/
def blockOk (p : Plot) (me : CoreId) (m : Memory) (o : Nat) : Bool :=
  let b := blockAt m o
  fld b.pc 63 48 == 0 && fld (m.word (o + 48)) 63 32 == 0 && m.word (o + 56) == 0
    && p.hasCode (fld b.pc 47 32) (fld b.pc 31 0)
    && (b.bar == 0 || (b.bar.toNat % 4 == 0 && (match endOf p me b.bar with
        | some (.lm c off) => clusterOf c == clusterOf me && decide (off + 4 ≤ 0x38000)
        | some (.glob _) => true
        | none => false)))
/-- The block that CPHDL or an operand names, if it is good (R215, R217). -/
def blockOf (p : Plot) (c : Core) (o : Nat) : Option Block :=
  if o % 8 = 0 ∧ o + 64 ≤ 0x38000 ∧ blockOk p c.cid c.lm o then some (blockAt c.lm o) else none
/-- The next id of a kind, past those still outstanding (R216, R234). -/
def nextId (from_ : BitVec 16) (out : List (Lid × BitVec 16)) : BitVec 16 :=
  ((List.range (out.length + 1)).map fun i => from_ + BitVec.ofNat 16 i).find? (fun x => !out.any fun y => y.2 == x) |>.getD from_
/-- Copies of the core that are buffered and not committed. -/
def Core.bufferedCopies (c : Core) : Nat := (c.ob.filter fun e => match e.body with
  | .copy _ => true
  | _ => false).length

/-- `rsr gd, CPGO`, also `cpgo gd` (R216). DESIGN CHOICE (log 99): a word of the parameter block under an uncorrectable error is read as it
stands and raises nothing, since R143 speaks of local loads and R216 of no such end. -/
def execCpgo (d : Reg) (s : State) : Out :=
  onCore s fun p c =>
    let src := endOf p c.cid c.cpsrc
    let dst := endOf p c.cid c.cpdst
    let len := c.cplen.toNat
    let cnt := c.cpcnt.toNat
    let withBlk := c.cphdl.getLsbD 63
    let blk := if withBlk then blockOf p c (fld c.cphdl 17 0) else none
    match src, dst with
    | some a, some b =>
      if !a.near c.cid || !b.near c.cid || !rowsFit a len cnt c.cpstrs || !rowsFit b len cnt c.cpstrd
          || (withBlk && blk.isNone) then trap s 0x98 0 0
      else if c.xout.length - c.bufferedCopies ≥ 16 then put s c.stall
      else
        let id := nextId c.xnext c.xout
        let isLm (e : End) : Bool := match e with
          | .lm _ _ => true
          | .glob _ => false
        let j : CopyJob :=
          { tag := c.tag, id := id, src := c.cpsrc, dst := c.cpdst, len := len, strs := c.cpstrs, strd := c.cpstrd, cnt := cnt,
            blk := blk, cls := c.sendCls, cpy := if isLm a || isLm b then some (clusterOf c.cid) else none }
        enterPlaced s c (if withBlk then 2 else 1) (.copy j) fun c =>
          ({ c with xnext := id + 1, xout := (c.lid, id) :: c.xout }.setG d (id.setWidth 64)).bumpSeq.retire 4 1
            (if withBlk then 40 else 0)
    | _, _ => trap s 0x98 0 0

/-- `cpwait` (R222). -/
def execCpwait (a d : Reg) (s : State) : Out :=
  onCore s fun _ c =>
    let id := (c.r a).setWidth 16
    let c := match c.wait with
      | .begun => c
      | _ => { c.commit with wait := .begun }
    if c.xout.contains (c.lid, id) then put s c.stall
    else
      match ((c.count c.lid).xdone.find? fun x => x.1 == id) with
      | some (_, w) => put s (((c.setG d w).acquire .system).retire 4 1)
      | none => put s (((c.setG d 0xFFFFFFFFFFFFFFFF).acquire .system).retire 4 1)

/-! The engines. -/

/-- What one byte of an end gives. -/
inductive ByteRes where
  | byte (b : Byte)
  | bad (cause : Cause) (addr : Word)
  | wait
  deriving DecidableEq, Repr

/-- Changes a copy. -/
def Plot.modCopy (p : Plot) (j : Nat) (f : CopyJob → CopyJob) : Plot := { p with copies := p.copies.modify j f }
/-- Byte k of a copy's end as an address (R218). -/
def copyAt (o : Nat) (stride : Word) (len k : Nat) : Nat := ((o : Int) + (k / len : Nat) * stride.toInt + (k % len : Nat)).toNat
/-- An address is a source byte of the copy (R218): that of some row. -/
def isSource (o : Nat) (stride : Word) (len cnt x : Nat) : Bool :=
  (List.range cnt).any fun r =>
    let lo := (o : Int) + r * stride.toInt
    decide (lo ≤ x ∧ (x : Int) < lo + len)
/-- A fabric port carries traffic (R388). -/
def Port.up (x : Port) : Bool := decide (x.lanes ≠ 0) && x.retraining.isNone
/-- An engine's access to a peer goes ahead: a port is up, and no packet of the device to that peer is under way (R385, R388). -/
def peerOpen (s : State) (d : Nat) : Bool := s.dev.ports.any Port.up && s.fabClear d s.dev.fabNext
/-- A byte of global memory as an engine reads it at home (R186, R200, R384, R387, R392). -/
def engineRead (s : State) (p : Plot) (l : Loc) : ByteRes :=
  match l with
  | .dev a => match p.lineErr (lineOf a) with
    | some cause => .bad cause (BitVec.ofNat 64 a)
    | none => .byte (p.home.get a)
  | .host a => if s.dev.hostlost then .wait else .byte (s.dev.host.get a)
  | .peer d a => if !peerOpen s d then .wait
    else if peerRefuses s p.job d a then .bad 0xA9 (BitVec.ofNat 64 a)
    else .byte (((s.dev.peers.find? fun x => x.dev == d).map fun x => x.mem.get a).getD 0)
/-- Bytes of consecutive addresses of global memory that an engine writes at home (R186), or the cause that it meets there; `counts` says
that they open a line (R47). An engine writes piece by piece, so that no piece covers a whole line (R358; log 96). -/
def State.engineWrite (s : State) (pid : Nat) (t : Tag) (va : Nat) (l : Loc) (bs : List Byte) (counts : Bool := true) : State × Option Cause :=
  let ent (a d : Nat) : HEntry :=
    { tags := [t.engine], line := lineOf a, va := va, act := storeAct a bs, tile := tileOf t.cid, peer := d, counts := counts }
  match l with
  | .dev a => (match (s.plot? pid).bind fun p => p.lineErr (lineOf a) with
    | some cause => (s, some cause)
    | none => (s.joinWq pid (ent a 0), none))
  | .host a => (s.toHost pid (.mem (ent a 0)), none)
  | .peer d a =>
    if ((s.plot? pid).map fun p => peerRefuses s p.job d a).getD true then (s, some 0xA9) else (s.toFabric pid (ent a d), none)
/-- The byte at an LM offset; one with an uncorrectable error has no stated value here and is free (log 2). -/
def engineLm (s : State) (c : Core) (off : Nat) : Byte := if lmBad c off 1 then Config.freeByte s.fresh off else c.lm.get off

/-- The energy of a copy's byte at an end (R47): an LM word at its owner, or a line at its home, when the byte opens it. -/
def Plot.copyPj (p : Plot) (t : Tag) (e : Option Loc) (lm : Option (CoreId × Nat)) (first : Bool) : Plot :=
  let p := match e with
    | some (.dev a) => if first || a % 64 == 0 then p.spendFor t 780 else p
    | _ => p
  match lm with
  | some (c, off) => if first || off % 8 == 0 then p.modCore c.toNat fun k => k.modCount t.lid fun x => { x with pj := x.pj + 5 } else p
  | none => p
/-- Moves the next byte of copy j (R218, R219). -/
def copyByte (s : State) (pid j : Nat) : State :=
  match s.plot? pid with
  | none => s
  | some p =>
    match p.copies[j]? with
    | none => s
    | some x =>
      let tile := tileOf x.tag.cid
      let stop (s : State) (cause : Cause) (a : Word) : State :=
        s.modPlot pid fun p => p.modCopy j fun x =>
          if cause = 0x30 ∨ cause = 0x31 then { x with fault := some (cause, a) }
          else { x with status := some (BitVec.ofNat 64 (0x95 + 2 ^ 8 * cause.toNat + 2 ^ 16 * x.done)) }
      match endOf p x.tag.cid x.src, endOf p x.tag.cid x.dst with
      | some a, some b =>
        if x.status.isSome ∨ x.fault.isSome ∨ x.done ≥ x.len * x.cnt then s
        else
          -- the source byte
          let first := x.done % x.len == 0
          let (r, p1) := match a with
            | .lm c off =>
              let o := copyAt off x.strs x.len x.done
              (match p.core? c.toNat with
                | some k => ByteRes.byte (engineLm s k o)
                | none => .wait, p.copyPj x.tag none (some (c, o)) first)
            | .glob va =>
              let va := copyAt va x.strs x.len x.done
              match walked p x.tag (translate p tile va 0) with
              | (.error (cause, _, _), p) => (.bad cause (BitVec.ofNat 64 va), p)
              | (.ok (l, _), q) => match engineRead s q l with
                | .wait => (.wait, q)
                | r => (r, q.copyPj x.tag (some l) none first)
          let s := s.modPlot pid fun _ => p1
          match r with
          | .wait => s
          | .bad cause ad => stop s cause ad
          | .byte v =>
            let clash := match a, b with
              | .lm c o, .lm d o2 => c == d && isSource o x.strs x.len x.cnt (copyAt o2 x.strd x.len x.done)
              | .glob o, .glob o2 => isSource o x.strs x.len x.cnt (copyAt o2 x.strd x.len x.done)
              | _, _ => false
            let v := if clash then Config.freeByte s.fresh x.done else v
            let moved (s : State) : State := s.modPlot pid fun p => p.modCopy j fun x => { x with done := x.done + 1 }
            match b with
            | .lm c off =>
              let o := copyAt off x.strd x.len x.done
              moved (s.modPlot pid fun p => (p.modCore c.toNat fun k => k.store o [v]).copyPj x.tag none (some (c, o)) first)
            | .glob va =>
              let va := copyAt va x.strd x.len x.done
              match walked p1 x.tag (translate p1 tile va 1) with
              | (.error (cause, _, _), p) => stop (s.modPlot pid fun _ => p) cause (BitVec.ofNat 64 va)
              | (.ok (l, _), p) =>
                match (s.modPlot pid fun _ => p).engineWrite pid x.tag va l [v] (first || va % 64 == 0) with
                | (s, some cause) => stop s cause (BitVec.ofNat 64 va)
                | (s, none) => moved s
      | _, _ => s
/-- Moves up to n bytes. -/
def copyBytes (s : State) (pid j : Nat) : Nat → State
  | 0 => s
  | n + 1 => copyBytes (copyByte s pid j) pid j n

/-- The wait of R221 after n refused tries, in ns, under a hint in µs. -/
def eteWait (n hint : Nat) : Nat := 1000 * min (max hint (2 ^ (n - 1))) 1000
/-- An ETE refuses a try (R221): at the limit the copy ends with CPY_REFUSED. -/
def State.refuseCopy (s : State) (pid j hint : Nat) : State :=
  s.modPlot pid fun p => p.modCopy j fun x =>
    if x.tries + 1 ≥ p.etries then { x with tries := x.tries + 1, status := some 0x96 }
    else { x with tries := x.tries + 1, nextTry := s.dev.time + eteWait (x.tries + 1) hint }
/-- An event on copy j of plot p, when it stands there. -/
def onCopy (s : State) (k : Plot → CopyJob → State) : Out :=
  match s.plot? s.ev.p with
  | none => .next s
  | some p => match p.copies[s.ev.j]? with
    | none => .next s
    | some x => .next (k p x)

/-- All bytes of a copy are moved, or it has ended otherwise. -/
def CopyJob.moved (x : CopyJob) : Bool := x.status.isSome || x.accepted && decide (x.done ≥ x.len * x.cnt)
/-- An earlier entry of the same CPY's command FIFO is not yet done: a CPY takes its entries in order (R172, R221). -/
def Plot.cpyBusy (p : Plot) (j : Nat) (x : CopyJob) : Bool :=
  x.cpy.isSome && (p.copies.take j).any fun y => y.cpy == x.cpy && !y.moved
/-- The plot's entries of the ETE queues are all taken (R221, R380). -/
def Plot.eteFull (p : Plot) : Bool := decide ((p.copies.filter fun y => y.cpy.isNone && y.accepted && !y.moved).length ≥ p.eteShare)
/-- COPY_EXECUTE (R218, R221): the first try, which an ETE may refuse (`flag`, with the hint v), or up to n bytes of an accepted
copy. A copy that goes to a CPY is never refused, and runs in its turn. -/
def execCopyExecute (s : State) : Out :=
  onCopy s fun p x =>
    if p.cpyBusy s.ev.j x then s
    else if x.accepted then { copyBytes s s.ev.p s.ev.j s.ev.n with fresh := s.fresh + 1 }
    else if x.tries ≠ 0 ∨ x.status.isSome then s
    else if (s.ev.flag ∨ p.eteFull) ∧ x.cpy.isNone then s.refuseCopy s.ev.p s.ev.j s.ev.v.toNat
    else s.modPlot s.ev.p fun p => p.modCopy s.ev.j fun x => { x with accepted := true }
/-- ETE_RETRY (R221): a later try, when its wait is over. -/
def execEteRetry (s : State) : Out :=
  onCopy s fun p x =>
    if x.accepted ∨ x.tries = 0 ∨ x.status.isSome ∨ s.dev.time < x.nextTry then s
    else if s.ev.flag ∨ p.eteFull then s.refuseCopy s.ev.p s.ev.j s.ev.v.toNat
    else s.modPlot s.ev.p fun p => p.modCopy s.ev.j fun x => { x with accepted := true }
/-- The service core of a tile answers: a machine check has not stopped it (R353). -/
def Plot.serves (p : Plot) (t : Nat) : Bool := ((p.tiles[t]?).map fun t => !t.svc.stopped).getD false
/-- COPY_SERVICE_ANSWER (R219, R220): Haruesol mapped the page (`flag`) or declined; `opt` names an MXE whose job's barrier it is. -/
def execCopyServiceAnswer (s : State) : Out :=
  match s.ev.opt with
  | some k =>
    .next (if !((s.plot? s.ev.p).map fun p => p.serves (k / 4)).getD false then s
      else s.modPlot s.ev.p fun p => { p with mxes := p.mxes.modify k fun m =>
      { m with run := m.run.map fun r => match r.barFault with
          | none => r
          | some (cause, _) => if s.ev.flag then { r with barFault := none } else { r with barFault := none, barDead := some cause } } })
  | none =>
    onCopy s fun p x =>
      match x.fault with
      | none => s
      | some (cause, _) =>
        if !p.serves (tileOf x.tag.cid) then s else s.modPlot s.ev.p fun p => p.modCopy s.ev.j fun x =>
          if s.ev.flag then { x with fault := none }
          else { x with fault := none, status := some (BitVec.ofNat 64 (0x95 + 2 ^ 8 * cause.toNat + 2 ^ 16 * x.done)) }

/-! Completion (R220). -/

/-- A tag has entries that are not yet performed at system scope (R186, R188, R173). -/
def Plot.pendingAt (p : Plot) (t : Tag) : Bool :=
  p.fabric.any (fun e => e.tags.contains t) || (p.link ++ p.park).any fun x => match x with
    | .mem e => e.tags.contains t
    | _ => false
/-- What the increment of a barrier word comes to (R220). -/
inductive BarRes where
  | done
  | busy
  | offer (cause : Cause) (addr : Word)
  | bad (cause : Cause)
  deriving DecidableEq, Repr
/-- INC is added to a barrier word as one step: in LM, at home, at the host or at a peer. A host that does no AtomicOps leaves the word
as it is, and the fault shows in the status (R189, R220, R345). DESIGN CHOICE (log 20): R220 says nothing of an LM word with an
uncorrectable error: INC is added to a free word. -/
def State.barrier (s : State) (pid : Nat) (t : Tag) (b : Block) : State × BarRes :=
  match s.plot? pid with
  | none => (s, .done)
  | some p =>
    match endOf p t.cid b.bar with
    | none => (s, .done)
    | some (.lm c off) =>
      ({ s.modPlot pid fun p => p.modCore c.toNat fun k =>
           let old := if lmBad k off 4 then (Config.freeWord s.fresh off).toNat else k.lm.num off 4
           -- a word read and a word written (R47)
           (k.store off (leBytes 4 ((old + b.inc.toNat) % 2 ^ 32))).modCount t.lid fun x => { x with pj := x.pj + 10 } with fresh := s.fresh + 1 }, .done)
    | some (.glob va) =>
      match walked p t (translate p (tileOf t.cid) va 2) with
      | (.error (cause, a, _), p) =>
        (s.modPlot pid fun _ => p, if cause = 0x30 ∨ cause = 0x31 then .offer cause a else .bad cause)
      | (.ok (l, _), p) =>
        let s := s.modPlot pid fun _ => p
        let act (a : Nat) : HAct := .atom .add false false a (b.inc.setWidth 64) 0 false
        match l with
        | .dev a =>
          if p.wq.any fun e => e.line = lineOf a then (s, .busy)
          else match p.lineErr (lineOf a) with
            | some cause => (s, .bad cause)
            | none => (s.applyHome pid { tags := [t.engine], line := lineOf a, va := va, act := act a, tile := tileOf t.cid }, .done)
        | .host a =>
          if !s.dev.hostAtomics then (s, .bad 0xA3)
          else if s.dev.hostlost then (s, .busy)
          else (s.atHost pid (.mem { tags := [t.engine], line := lineOf a, va := va, act := act a, tile := tileOf t.cid }), .done)
        | .peer d a =>
          if !peerOpen s d then (s, .busy)
          else if peerRefuses s p.job d a then (s, .bad 0xA9)
          else (s.modDev fun x => { x with peers := x.peers.map fun y =>
            if y.dev = d then { y with mem := (applyAct y.mem (act a)).1 } else y }, .done)
/-- The sleepers of a core on a kind of job look again (R135). -/
def Core.wakeJobs (c : Core) (no : Nat) (mx : Bool) : Core :=
  c.wake no fun c cond => match cond with
    | .job m l id => m == mx && jobDone c mx l id
    | _ => false
/-- An engine completion message (R21, R220, R237). -/
def engineMsg (t : Tag) (b : Block) (status : Word) (job : Bool) (id : BitVec 16) (cls : BitVec 2) : Msg :=
  { src := 0x3FFE, seq := t.seq, lid := t.lid, cls := cls, tag := t, acq := some .system,
    body := .engine b.pc status b.a0 b.a1 b.a2 b.a3 job id t.wid }
/-- COPY_COMPLETE (R220), once every byte delivered is performed at system scope. -/
def execCopyComplete (s : State) : Out :=
  onCopy s fun p x =>
    let pid := s.ev.p
    if x.fault.isSome ∨ (x.status.isNone ∧ !(x.accepted ∧ x.done ≥ x.len * x.cnt)) ∨ p.pendingAt x.tag.engine then s
    else
      let bar := x.status.isNone && ((x.blk.map fun b => b.bar != 0).getD false)
      let (s1, r) := match bar, x.blk with
        | true, some b => s.barrier pid x.tag b
        | _, _ => (s, .done)
      match r with
      | .busy => s1
      | .offer cause a => s1.modPlot pid fun p => p.modCopy s.ev.j fun x => { x with fault := some (cause, a), atBar := true }
      | _ =>
        let status : Word := match r, x.status with
          | .bad cause, _ => BitVec.ofNat 64 (0x95 + 2 ^ 8 * cause.toNat + 2 ^ 16 * x.done)
          | _, some w => w
          | _, none => BitVec.ofNat 64 (2 ^ 16 * x.done)
        s1.modPlot pid fun p =>
          let p := (p.spendFor x.tag (100 * ((x.done + 63) / 64))).modCore x.tag.cid.toNat fun c =>
            ({ c.modCount x.tag.lid (·.addX x.id status) with
                 xout := c.xout.filter fun y => y != (x.tag.lid, x.id) } : Core).wakeJobs p.enqs false
          let p := { p with copies := p.copies.eraseIdx s.ev.j }
          match x.blk with
          | none => p
          | some b => p.sendTo x.tag.cid (engineMsg x.tag b status false x.id x.cls)

end Sys2Proof.Machine
end

