-- ==== Sys2Proof/Machine/Collective.lean ====
section
/-! DEFINITION. Collectives: `coll.red` and `coll.res` (R223 to R225, R228), and a switch slot's epochs and results (R225 to R228). -/
namespace Sys2Proof.Machine

/-- Handle fields (R224). -/
def hSlot (h : Word) : Nat := fld h 11 0
/-- The contributor index. -/
def hIdx (h : Word) : Nat := fld h 17 12
/-- The epoch. -/
def hEpoch (h : Word) : BitVec 16 := BitVec.ofNat 16 (fld h 47 32)
/-- The switch slot of a number. -/
def State.slot? (s : State) (n : Nat) : Option SwSlot := s.dev.slots.find? fun x => x.num == n
/-- Changes a switch slot. -/
def State.modSwitch (s : State) (n : Nat) (f : SwSlot → SwSlot) : State :=
  s.modDev fun d => { d with slots := d.slots.map fun x => if x.num = n then f x else x }
/-- A handle is good for a plot's job on this device (R224); `red` when its index counts. -/
def collOk (s : State) (p : Plot) (h : Word) (red : Bool) : Bool :=
  fld h 63 48 == 0 && fld h 31 18 == 0 && (match s.slot? (hSlot h) with
    | none => false
    | some x => x.job == p.job && x.devs.contains s.dev.fabNum && (!red || x.devs[hIdx h]? == some s.dev.fabNum))

/-- `coll.red` (R225). -/
def execCollRed (b a : Reg) (s : State) : Out :=
  onCore s fun p c =>
    if !collOk s p (c.r a) true then trap s 0xA8 0 (c.r a)
    else put s ((c.enter (.collRed (c.r a) ((c.r b).setWidth 32))).bumpSeq.retire 4 1)
/-- `coll.res` (R228). -/
def execCollRes (h : BitVec 10) (b a d : Reg) (s : State) : Out :=
  onCore s fun p c =>
    if !collOk s p (c.r d) false then trap s 0xA8 0 (c.r d)
    else match ownOffset (c.r b) 16 with
      | .error (cause, x, i) => trap s cause x i
      | .ok off => match handlerPc p c h with
        | .error (cause, x, i) => trap s cause x i
        | .ok pc =>
          enterPlaced s c 1 (.collRes (c.r d) off pc (argWord c a 0) (argWord c a 1) (argWord c a 2) (argWord c a 3) c.htop
            c.sendCls) fun c => c.bumpSeq.retire 4 1

/-! The slot. -/

/-- Serial order of 16-bit epochs (R224): a is later than b. At a distance of 0x8000 the rule calls neither the later one, and so does the
model (DESIGN CHOICE, log 93). -/
def later16 (a b : BitVec 16) : Bool := decide (0 < (a - b).toNat ∧ (a - b).toNat < 0x8000)
/-- One RNE addition of f32 patterns. -/
def add32 (a b : Nat) : Nat := faddCode .f32 a b
/-- The contributors' values in ascending order of the contributor. -/
def byIndex (vs : List (Nat × Nat)) : List (Nat × Nat) := sortBy (fun (a b : Nat × Nat) => decide (a.1 ≤ b.1)) vs
/-- The sum of kept values over the tree that the allocation fixed (R226, log 2): which partial sum takes in which, and of those that the
tree leaves, in ascending order, each takes in the next. The order of arrival plays no part, so that every epoch adds in one order. -/
def treeSum (merges : List (Nat × Nat)) (vs : List (Nat × Nat)) : Option Nat :=
  let step (m : List (Nat × Nat)) (x : Nat × Nat) : List (Nat × Nat) :=
    match m.lookup x.1, m.lookup x.2 with
    | some a, some b => if x.1 = x.2 then m else (x.1, add32 a b) :: m.filter fun y => y.1 != x.1 && y.1 != x.2
    | none, some b => (x.1, b) :: m.filter fun y => y.1 != x.2
    | _, none => m
  match byIndex (merges.foldl step (byIndex vs)) with
  | [] => none
  | y :: ys => some (ys.foldl (fun acc z => add32 acc z.2) y.2)
/-- The least or greatest of f32 patterns under IEEE 754, -0 below +0 (R226). -/
def pick32 (f : Ext → Ext → Ext × Flags) (vs : List Nat) : Option Nat :=
  match vs with
  | [] => none
  | v :: rest => some (rest.foldl (fun a b => (roundFp .f32 .rne false 0 (f (readTy .f32 a) (readTy .f32 b)).1).1) v)
/-- The value of a result and whether a NaN was kept (R226). -/
def slotValue (x : SwSlot) (kept : List (Nat × BitVec 32)) : Nat × Bool :=
  let vs := kept.map fun y => (y.1, y.2.toNat)
  if vs.any fun y => isNan (readTy .f32 y.2) then (0x7FC00000, true)
  else
    let w := vs.map (·.2)
    (match x.op with
     | 0 => (treeSum (Config.freeTree x.tree) vs).getD 0
     | 1 => (pick32 maxExt w).getD 0xFF800000
     | 2 => (pick32 minExt w).getD 0x7F800000
     | _ => (pick32 maxExt (w.map (· % 2 ^ 31))).getD 0, false)
/-- The result record (R227). -/
def slotRecord (x : SwSlot) (ep : BitVec 16) (kept : List (Nat × BitVec 32)) : Word × Word :=
  let (v, nan) := slotValue x kept
  let c := x.devs.length
  let missing := ((List.range c).filter fun i => !(kept.any fun y => y.1 == i)).map (2 ^ ·)
  (BitVec.ofNat 64 (v + 2 ^ 32 * boolNat nan + 2 ^ 33 * boolNat (decide (kept.length < c)) + 2 ^ 48 * ep.toNat),
   BitVec.ofNat 64 missing.sum)
/-- What a request is answered with, if now (R228): the record, or none with 0xA8. A slot in which no epoch has closed keeps no record, and
a request for its epoch 0, of which the table has no row, is answered so too (DESIGN CHOICE, log 96). -/
def collAnswer (x : Option SwSlot) (ep : BitVec 16) : Option (Option (Word × Word)) :=
  match x with
  | none => some none
  | some x =>
    if ep = x.closed then (match x.kept with
      | some r => some (some r)
      | none => some none)
    else if later16 ep x.closed then none else some none
/-- An answer's message (R228): the record is written at gb just before it enters the run queue. R30 names no sender for the collective
unit; its messages carry 0x3FFD (DEDUCED, log 18). -/
def collMsg (q : CollReq) (r : Option (Word × Word)) : Msg :=
  let g0 : Word := match r with
    | none => 0xA8
    | some (w, _) => if w.getLsbD 33 then 0xA7 else 0
  { src := 0x3FFD, seq := q.tag.seq, lid := q.tag.lid, cls := q.cls, tag := q.tag, acq := some .package,
    body := .data q.pc g0 (BitVec.ofNat 64 q.off) q.a0 q.a1 q.a2 q.a3 q.htop q.tag.wid none,
    pay := match r with
      | none => []
      | some (w0, w1) => [(q.off, wordsBytes [w0, w1])] }
/-- Every request that has arrived and can be answered now is answered (R228). -/
def State.answerColl (s : State) (n : Nat) : State :=
  let x := s.slot? n
  let ready (q : CollReq) : Bool := q.arrived && hSlot q.h == n && (collAnswer x (hEpoch q.h)).isSome
  { s with plots := s.plots.map fun p =>
      let p' := (p.collReqs.filter ready).foldl (fun p q =>
        p.sendTo q.tag.cid (collMsg q ((collAnswer x (hEpoch q.h)).getD none))) p
      { p' with collReqs := p.collReqs.filter fun q => !ready q } }
/-- The open epoch closes (R225 to R227), and the requests for it are answered. -/
def State.closeEpoch (s : State) (n : Nat) : State :=
  (s.modSwitch n fun x =>
    match x.open_ with
    | none => x
    | some (ep, _, kept) => { x with closed := ep, open_ := none, kept := some (slotRecord x ep kept) }).answerColl n
/-- A contribution reaches its slot (R225). -/
def State.contribute (s : State) (h : Word) (v : BitVec 32) : State :=
  let n := hSlot h
  -- a deadline that has passed closes its epoch first
  let s := match (s.slot? n).bind (·.open_) with
    | some (_, dl, _) => if dl ≤ s.dev.time then s.closeEpoch n else s
    | none => s
  match s.slot? n with
  | none => s
  | some x =>
    let ep := hEpoch h
    let keep (kept : List (Nat × BitVec 32)) (dl : Nat) : State :=
      let s := s.modSwitch n fun x => { x with open_ := some (ep, dl, (hIdx h, v) :: kept) }
      if kept.length + 1 ≥ x.devs.length then s.closeEpoch n else s
    match x.open_ with
    | none =>
      if later16 ep x.closed ∧ hIdx h < x.devs.length then keep [] (s.dev.time + x.timeout)
      else s.modSwitch n fun x => { x with discards := x.discards + 1 }
    | some (e, dl, kept) =>
      if ep = e ∧ !(kept.any fun y => y.1 == hIdx h) ∧ hIdx h < x.devs.length then keep kept dl
      else s.modSwitch n fun x => { x with discards := x.discards + 1 }

/-- COLL_CONTRIBUTION_ARRIVE (R225): contribution j of plot p leaves the device and reaches its slot; with `flag`, one from another
device, of handle v and value w. -/
def execCollContributionArrive (s : State) : Out :=
  if s.ev.flag then .next (s.contribute s.ev.v (s.ev.w.setWidth 32))
  else match (s.plot? s.ev.p).bind fun p => p.collIn[s.ev.j]? with
    | none => .next s
    | some (t, h, v) =>
      .next ((s.modPlot s.ev.p fun p => { p.discard t with collIn := p.collIn.eraseIdx s.ev.j }).contribute h v)
/-- EPOCH_DEADLINE (R225): slot n's open epoch closes when its deadline has passed. -/
def execEpochDeadline (s : State) : Out :=
  match (s.slot? s.ev.n).bind (·.open_) with
  | some (_, dl, _) => .next (if dl ≤ s.dev.time then s.closeEpoch s.ev.n else s)
  | none => .next s
/-- COLL_RES_ARRIVE (R228): request j of plot p arrives, and is answered at once or waits. -/
def execCollResArrive (s : State) : Out :=
  match (s.plot? s.ev.p).bind fun p => p.collReqs[s.ev.j]? with
  | none => .next s
  | some q =>
    .next ((s.modPlot s.ev.p fun p => { p with collReqs := p.collReqs.modify s.ev.j fun q => { q with arrived := true } }).answerColl
      (hSlot q.h))

end Sys2Proof.Machine
end

