-- ==== Sys2Proof/Machine/Matrix.lean ====
section
/-! DEFINITION. Majors 0x20 to 0x23: the matrix instructions at a core, which build a job and submit it (R233, R234, R241 to R257).
Every register operand, ST.RM and a draw's words are read here; the engine reads the rest (MatrixEngine). -/
namespace Sys2Proof.Machine

/-- The chunk of R112 for one operand's format. -/
def kcOf (t : Ty) : Nat := if t.width ≥ 32 then 32 else if t.width = 16 then 64 else if t.width ≥ 6 then 128 else 256
/-- The element size of a format of whole bytes, else 1 (R245). -/
def mxAlign (f : Ty) : Nat := if f.width % 8 = 0 then f.width / 8 else 1
/-- The bytes of a row of a latch load (R244). -/
def rowBytes (f : Ty) (sc : ScaleSrc) (vals : Nat) : Nat :=
  if f = .blk4 ∧ sc ≠ .split then vals / 32 * 17 else (vals * f.width + 7) / 8
/-- An LM end of a matrix operand (R245): rows of n bytes a stride apart. -/
def mxLm (p : Plot) (c : Core) (ga : Word) (stride rows n al : Nat) : Except Bad MxAddr :=
  match lmDecode p c.cid ga 1 with
  | .error b => .error b
  | .ok (o, off) =>
    let last := if rows = 0 then off else off + (rows - 1) * stride + n
    if clusterOf o ≠ clusterOf c.cid then .error (0x93, 0, 0)
    else if last > 0x38000 then .error (0x21, ga, BitVec.ofNat 64 (last - off))
    else if off % al ≠ 0 ∨ stride % al ≠ 0 then .error (0x20, ga, BitVec.ofNat 64 al)
    else .ok (.lm o off)
/-- An end that may also be global (R253). -/
def mxEnd (p : Plot) (c : Core) (ga : Word) (stride rows n al : Nat) : Except Bad MxAddr :=
  if isLmForm ga then mxLm p c ga stride rows n al
  else
    let last := if rows = 0 then ga.toNat else ga.toNat + (rows - 1) * stride + n
    if fld ga 63 48 ≠ 0 ∨ last > 2 ^ 48 then .error (0x32, ga, 0)
    else if ga.toNat % al ≠ 0 ∨ stride % al ≠ 0 then .error (0x33, ga, BitVec.ofNat 64 al)
    else .ok (.glob ga.toNat)
/-- A ring end (R243, R253). -/
def mxRing (c : Core) (q : QReg) (stride : Nat) : Except Bad MxAddr :=
  if !c.q[q].v then .error (0x55, 0, BitVec.ofNat 64 q.val)
  else if stride ≠ 0 then .error (0x93, 0, 0)
  else .ok (.ring q)
/-- Moves BA1 past the scale bytes of n blocks, if their scales are split (R244, R257). -/
def takeScales (c : Core) (sc : ScaleSrc) (n : Nat) : Except Bad Core :=
  if sc ≠ .split then .ok c
  else if c.ba true + 8 * n > lmBitEnd then .error (0x22, BitVec.ofNat 64 (c.ba true), BitVec.ofNat 64 (8 * n))
  else .ok (c.setBa true (c.ba true + 8 * n))

/-- Appends an operation to the open job (R233, R247): no job, a full job and an accumulator outside the mask are refused first. -/
def mxAppend (s : State) (acc : Option (Fin 4)) (len : Nat) (k : Plot → Core → Except Bad (MxOp × Core)) : Out :=
  onCore s fun p c =>
    match c.job with
    | none => trap s 0x99 0 0 len
    | some (mask, ops) =>
      if ops.length ≥ 32 then trap s 0x90 0 0 len
      else if (acc.map fun a => !mask.getLsbD a.val).getD false then
        trap s 0x91 0 (BitVec.ofNat 64 ((acc.map (·.val)).getD 0)) len
      else
        match k p c with
        | .error (cause, x, i) => trap s cause x i len
        | .ok (op, c) => put s ({ c with job := some (mask, ops ++ [op]) }.retire len 1)

/-- `mx.job` (R242). -/
def execMxJob (m : BitVec 4) (s : State) : Out :=
  onCore s fun _ c => if c.job.isSome then trap s 0x99 0 0 else put s ({ c with job := some (m, []) }.retire 4 1)
/-- `mx.rel` (R242). -/
def execMxRel (m : BitVec 4) (s : State) : Out :=
  onCore s fun _ c => if c.job.isSome then trap s 0x99 0 0 else put s ((c.enter (.mxRel m)).retire 4 1)

/-- The latch load of R244. -/
def mxLoad (s : State) (b x : Bool) (gb ga : Reg) : Out :=
  mxAppend s none 4 fun p c =>
    let f := if c.pp then c.pf else .f32
    let sc := if c.pp then c.ps else .none
    let w := c.r gb
    let stride := fld w 17 0
    let rows := fld w 27 18
    let vals := fld w 36 28
    let kc := kcOf f
    if fld w 63 37 ≠ 0 ∨ rows > (if b then min (4 * kc) 512 else 64) ∨ vals > (if b then 64 else kc)
        ∨ (f = .blk4 ∧ vals % 32 ≠ 0) then .error (0x93, 0, 0)
    else
      let src := if x then mxRing c (Fin.ofNat 8 ga.val) stride
        else mxLm p c (c.r ga) stride rows (rowBytes f sc vals) (mxAlign f)
      match src with
      | .error e => .error e
      | .ok a => (takeScales c sc (rows * (vals / 32))).map fun c1 => (.load b a stride rows vals f sc (c.ba true), c1)
/-- `mx.lda` (R244, R245). -/
def execMxLda (x : Bool) (b a : Reg) (s : State) : Out := mxLoad s false x b a
/-- `mx.ldb` (R244, R245). -/
def execMxLdb (x : Bool) (b a : Reg) (s : State) : Out := mxLoad s true x b a
/-- `mx.ldm` (R246). -/
def execMxLdm (b a : Reg) (s : State) : Out :=
  mxAppend s none 4 fun p c =>
    let w := c.r b
    let rows := fld w 24 18
    let n := 16 * 2 ^ fld w 26 25
    let g := fld w 28 27 + 1
    if fld w 63 29 ≠ 0 ∨ rows > 64 ∨ n > 64 then .error (0x93, 0, 0)
    else (mxLm p c (c.r a) (fld w 17 0) rows (7 * g * n / 8) 1).map fun x => (.loadMeta x (fld w 17 0) rows n g, c)

/-- The pair that a prefix names for a compute operation (R247). -/
def mxPairOf (c : Core) : Option (Ty × Ty) := if c.pp then some (c.pf, c.pd) else none
/-- `mx.zero` (R248). -/
def execMxZero (a : Fin 4) (s : State) : Out := mxAppend s (some a) 4 fun _ c => .ok (.zero a, c)
/-- `mx.mma` (R247, R248). -/
def execMxMma (a : Fin 4) (s : State) : Out := mxAppend s (some a) 4 fun _ c => .ok (.mma a (mxPairOf c), c)
/-- `mx.mmas` (R247, R249). -/
def execMxMmas (a : Fin 4) (s : State) : Out := mxAppend s (some a) 4 fun _ c => .ok (.mmas a (mxPairOf c), c)

/-- A cluster's place on the torus of its die: die, row, column (R14). -/
def Plot.torus (p : Plot) (k : Nat) : Nat × Nat × Nat :=
  let t := ((p.tiles[k / 4]?).map (·.num)).getD 0
  (t / 48, 2 * (t % 48 / 8) + k % 4 / 2, 2 * (t % 8) + k % 4 % 2)
/-- The cluster of the plot at a place on a torus. -/
def Plot.atTorus (p : Plot) (x : Nat × Nat × Nat) : Option Nat :=
  (List.range (4 * p.tiles.length)).find? fun k => p.torus k == x
/-- The fields of a window: first row, rows, first column, columns (R250). -/
def winOf (w : Nat) : Nat × Nat × Nat × Nat := (w % 16, w / 16 % 16 + 1, w / 256 % 16, w / 4096 % 16 + 1)
/-- The window may be used by a core's launch (R250). -/
def winOk (p : Plot) (c : Core) (w : Word) : Bool :=
  let (r0, h, c0, n) := winOf w.toNat
  let (die, row, col) := p.torus (clusterOf c.cid)
  let work := (((p.launch? c.lid).map p.targets).getD []).map (· / 8)
  fld w 63 17 == 0 && decide (r0 + h ≤ 12 ∧ c0 + n ≤ 16 ∧ r0 ≤ row ∧ row < r0 + h ∧ c0 ≤ col ∧ col < c0 + n)
    && (List.range h).all fun i => (List.range n).all fun j =>
        match p.atTorus (die, r0 + i, c0 + j) with
        | some k => work.contains k
        | none => false
/-- `mx.mrot` (R247, R250). -/
def execMxMrot (a : Fin 4) (b : Reg) (s : State) : Out :=
  mxAppend s (some a) 4 fun p c =>
    if winOk p c (c.r b) then .ok (.mrot a (mxPairOf c) (c.r b).toNat, c) else .error (0x97, 0, c.r b)

/-- An operation that names f64 (R236). -/
def MxOp.namesF64 (o : MxOp) : Bool :=
  match o with
  | .load _ _ _ _ _ f _ _ => f == .f64
  | .mma _ p => (p.map fun x => x.1 == .f64).getD false
  | .mmas _ p => (p.map fun x => x.1 == .f64).getD false
  | .mrot _ p _ => (p.map fun x => x.1 == .f64).getD false
  | _ => false
/-- A load or a compute operation, which must name f64 in an f64 job (R236). -/
def MxOp.mustName (o : MxOp) : Bool :=
  match o with
  | .load _ _ _ _ _ _ _ _ => true
  | .mma _ _ => true
  | .mmas _ _ => true
  | .mrot _ _ _ => true
  | _ => false
/-- The job so far is an f64 job. -/
def jobF64 (c : Core) : Bool := (c.job.map fun j => j.2.any MxOp.namesF64).getD false

/-- `mx.st` (R252, R253). Without a prefix the format is the accumulator's type, which the job's operations so far show. -/
def execMxSt (a : Fin 4) (x : Bool) (b ga d : Reg) (m : Option Modifier) (s : State) : Out :=
  mxAppend s (some a) (mlen m) fun p c =>
    let w := c.r b
    let stride := fld w 17 0
    let rows := fld w 24 18
    let cols := fld w 31 25
    let f : Ty := if c.pp then c.pd else if jobF64 c then .f64 else .f32
    if fld w 63 33 ≠ 0 ∨ rows > 64 ∨ cols > 64 then .error (0x93, 0, 0)
    else
      let dst := if x then mxRing c (Fin.ofNat 8 ga.val) stride
        else mxEnd p c (c.r ga) stride rows ((cols * f.width + 7) / 8) (mxAlign f)
      match dst, mxEnd p c (c.r d) 0 1 8 8 with
      | .error e, _ => .error e
      | _, .error e => .error e
      | .ok to_, .ok st =>
        .ok (.store a to_ st stride rows cols (w.getLsbD 32) (mxPairOf c) (modOr m) (RMode.of (c.stBits 26 24))
          ((c.stint.map (·.icount)).getD 0), c)
/-- `mx.amax` (R256). -/
def execMxAmax (c4 : Fin 4) (a : Reg) (s : State) : Out :=
  mxAppend s (some c4) 4 fun p c => (mxLm p c (c.r a) 0 1 4 4).map fun x => (.amax c4 x, c)
/-- The bytes of a row of `mx.qnt` (R257). -/
def qntBytes (f : Ty) (sc : ScaleSrc) (blocks : Nat) : Nat :=
  blocks * ((if f = .blk4 then 16 else 32) + boolNat (sc != .split))
/-- `mx.qnt` (R257). -/
def execMxQnt (c4 : Fin 4) (b ga : Reg) (m : Option Modifier) (s : State) : Out :=
  mxAppend s (some c4) (mlen m) fun p c =>
    let w := c.r b
    let rows := fld w 24 18
    let blocks := fld w 25 25 + 1
    let f : Ty := if c.pp then c.pd else .e4m3
    let sc : ScaleSrc := if c.pp then c.ps else .none
    if fld w 63 28 ≠ 0 ∨ rows > 64 then .error (0x93, 0, 0)
    else match mxLm p c (c.r ga) (fld w 17 0) rows (qntBytes f sc blocks) 1 with
      | .error e => .error e
      | .ok x => (takeScales c sc (rows * blocks)).map fun c1 =>
          (.quant c4 x (fld w 17 0) rows (w.getLsbD 25) (fld w 27 26) (mxPairOf c) sc (c.ba true) (modOr m)
            (RMode.of (c.stBits 26 24)) ((c.stint.map (·.icount)).getD 0), c1)

/-- `mx.go` (R234, R236, R242). -/
def execMxGo (a d : Reg) (s : State) : Out :=
  onCore s fun p c =>
    match c.job with
    | none => trap s 0x99 0 0
    | some (mask, ops) =>
      let w := c.r a
      let blk := if w.getLsbD 63 then blockOf p c (fld w 17 0) else none
      let f64 := ops.any MxOp.namesF64
      if (f64 && ops.any fun o => o.mustName && !o.namesF64) || fld w 62 18 != 0 || (w.getLsbD 63 && blk.isNone) then
        trap s 0x93 0 0
      else if c.jout.length ≥ 4 then trap s 0x90 0 0
      else
        let id := nextId c.jnext c.jout
        let (seed, _, mid, _) := drawWords s c
        let j : MxJob := { tag := c.tag, id := id, mask := mask, ops := ops, f64 := f64, blk := blk, cls := c.sendCls,
                           seed := seed, mid := mid }
        let c1 := c.enter (.mx j)
        put s (({ c1 with job := none, jobid := id, jnext := id + 1, jout := (c.lid, id) :: c.jout }.setG d
          (id.setWidth 64)).bumpSeq.retire 4 1 (if blk.isSome then 40 else 0))
/-- `mx.wait` (R242): it parks as `sleep` does, and gd is written when the resumed stint starts. -/
def execMxWait (a d : Reg) (s : State) : Out :=
  onCore s fun _ c =>
    let id := (c.r a).setWidth 16
    parkOp s 4 (some (.job true c.lid id)) (.mxStatus d id) (jobDone c true c.lid id)
/-- `mx.poll` (R242): in a DET launch it stalls until the job has completed. -/
def execMxPoll (a d : Reg) (s : State) : Out :=
  onCore s fun _ c =>
    let id := (c.r a).setWidth 16
    let c := match c.wait with
      | .begun => c
      | _ => { c.commit with wait := .begun }
    if c.jout.contains (c.lid, id) then
      if c.det then put s c.stall else put s ((c.setG d 0xFFFFFFFFFFFFFFFF).retire 4 1)
    else
      match ((c.count c.lid).jdone.find? fun x => x.1 == id) with
      | some (_, w) => put s (((c.setG d w).acquire .system).retire 4 1)
      | none => put s ((c.setG d 0xFFFFFFFFFFFFFFFE).retire 4 1)
/-- `mx.tst` (R242). -/
def execMxTst (b a : Reg) (s : State) : Out :=
  onCore s fun p c =>
    match myDecode s p c (c.r a) 8 with
    | .error (cause, x, i) => trap s (if cause = 0x41 then 0x21 else cause) x i
    | .ok (o, off) =>
      if o ≠ c.cid then trap s 0x21 (c.r a) 8
      else if lmBad c off 8 then trap s 0x23 (c.r a) (Config.freeWord off 0)
      else put s (({ c with st := mxTstFlags c.st (c.lm.word off) (c.r b) } : Core).retire 4 1 5)

end Sys2Proof.Machine
end

