-- ==== Sys2Proof/Machine/MatrixEngine.lean ====
section
/-! DEFINITION. The matrix engines (R235 to R260): which job runs, ownership of accumulators, latches, exact chunked products
(R112, R113), rotation, stores with their epilogue and status word, and completion. Each event names its MXE by `c` in plot `p`. -/
namespace Sys2Proof.Machine

/-- Changes an MXE. -/
def Plot.modMxe (p : Plot) (k : Nat) (f : Mxe → Mxe) : Plot := { p with mxes := p.mxes.modify k f }
/-- Changes the running job of an MXE. -/
def Plot.modRun (p : Plot) (k : Nat) (f : MxRun → MxRun) : Plot := p.modMxe k fun m => { m with run := m.run.map f }
/-- An event on MXE `c` of plot `p`, when it exists. -/
def onMxe (s : State) (k : Plot → Mxe → State) : Out :=
  match s.plot? s.ev.p with
  | none => .next s
  | some p => match p.mxes[s.ev.c]? with
    | none => .next s
    | some m => .next (k p m)

/-! Choosing a job (R235). -/

/-- Who sent a command. -/
def MxCmd.cid (c : MxCmd) : CoreId :=
  match c with
  | .job j => j.tag.cid
  | .rel t _ => t.cid
/-- The place in the queue of the next command: that of the first core with one, round robin from the core after the last one
served. -/
def Mxe.nextCmd (m : Mxe) : Option Nat :=
  (List.range 8).findSome? fun i => m.queue.findIdx? fun c => c.cid.toNat % 8 == (m.last.toNat + 1 + i) % 8

/-! Accumulators (R236). -/

/-- The type of the job's accumulators. -/
def MxJob.ty (j : MxJob) : Ty := if j.f64 then .f64 else .f32
/-- An accumulator that nobody owned, as its new owner finds it: contents and flags are free (R7, log 2). -/
def Acc.taken (own : CoreId × Lid) (seed : Nat) : Acc :=
  let w := Config.freeWord seed 4096
  { owner := some own, data := .free seed, nv := w.getLsbD 0, of := w.getLsbD 1, uf := w.getLsbD 2, nx := w.getLsbD 3 }
/-- An accumulator without its owner. -/
def Acc.dropped (a : Acc) (seed : Nat) : Acc := { a with owner := none, data := .free seed, faulted := false, f64 := none }
/-- An accumulator in the mask at the start of a job of its owner (R236): the contents that a job of the other type wrote are undefined, and
so is the f64 array whose part it was. -/
def Acc.start (a : Acc) (own : CoreId × Lid) (f64 : Bool) (seed : Nat) : Acc :=
  if a.owner.isNone then Acc.taken own seed
  else if a.f64 = some (!f64) then { a with data := .free seed, f64 := none } else a
/-- An f64 array, which a pair's even member keeps here, is undefined when the contents of either member are (R236): its data is free
unless the last job that wrote the odd member was an f64 job too. -/
def matchPairs (mask : BitVec 4) (l : List Acc) (seed : Nat) : List Acc :=
  (l.zip (List.range 4)).map fun x =>
    if x.2 % 2 = 0 ∧ mask.getLsbD x.2 ∧ mask.getLsbD (x.2 + 1) ∧ (l.getD (x.2 + 1) {}).f64 ≠ x.1.f64 then { x.1 with data := .free (seed + x.2) } else x.1
/-- Element i of an accumulator as a pattern of a type. -/
def Acc.at_ (a : Acc) (t : Ty) (i : Nat) : Nat :=
  match a.data with
  | .free seed => (Config.freeWord seed i).toNat % 2 ^ t.width
  | .zero => 0
  | .vals ws => (ws.getD i 0).toNat % 2 ^ t.width
/-- Adds to the sticky flags. -/
def Acc.sticky (a : Acc) (f : Flags) : Acc := { a with nv := a.nv || f.nv, of := a.of || f.of, uf := a.uf || f.uf, nx := a.nx || f.nx }
/-- The accumulator may be used by an operation of the job (R247): in an f64 job, an even one whose partner is in the mask. -/
def MxJob.accOk (j : MxJob) (a : Fin 4) : Bool := !j.f64 || (a.val % 2 == 0 && j.mask.getLsbD (a.val + 1))
/-- Changes an accumulator, and with it its partner in an f64 job. -/
def Mxe.modAcc (m : Mxe) (j : MxJob) (a : Fin 4) (f : Acc → Acc) : Mxe :=
  let m := { m with acc := m.acc.modify a.val f }
  if j.f64 then { m with acc := m.acc.modify (a.val + 1) f } else m

/-- MX_JOB_START (R235, R236, R239). -/
def execMxJobStart (s : State) : Out :=
  onMxe s fun _ m =>
    if m.run.isSome then s
    else match m.nextCmd with
      | none => s
      | some i => match m.queue[i]? with
        | some (.job j) =>
          let own := (j.tag.cid, j.tag.lid)
          let named := (List.range 4).filter fun a => j.mask.getLsbD a
          let taken := named.any fun a => match (m.acc.getD a {}).owner with
            | none => false
            | some o => o != own
          let m := { m with queue := m.queue.eraseIdx i, last := j.tag.cid, af := none, ab := none, bf := none, bb := none, md := none }
          let m := if taken then { m with run := some { job := j, failed := some (0x91, 0, 0) } }
            else { m with run := some { job := j },
                          acc := (fun l => if j.f64 then matchPairs j.mask l s.fresh else l) ((m.acc.zip (List.range 4)).map fun x =>
                            if j.mask.getLsbD x.2 then x.1.start own j.f64 (s.fresh + x.2) else x.1) }
          { s.modPlot s.ev.p fun p => p.modMxe s.ev.c fun _ => m with fresh := s.fresh + 4 }
        | _ => s
/-- MX_REL_EXECUTE (R242). A release takes its turn in the round robin and does not count as a job served (DESIGN CHOICE, log 93: R235
speaks of jobs alone). -/
def execMxRelExecute (s : State) : Out :=
  onMxe s fun _ m =>
    if m.run.isSome then s
    else match m.nextCmd with
      | none => s
      | some i => match m.queue[i]? with
        | some (.rel t mask) =>
          let m := { m with queue := m.queue.eraseIdx i,
                            acc := (m.acc.zip (List.range 4)).map fun x =>
                              if mask.getLsbD x.2 && x.1.owner == some (t.cid, t.lid) then x.1.dropped (s.fresh + x.2) else x.1 }
          { s.modPlot s.ev.p fun p => p.modMxe s.ev.c fun _ => m with fresh := s.fresh + 4 }
        | _ => s

/-! Products (R112, R113, R240, R248, R249). -/

/-- The chunk and the cycles of a pair (R240), when it is one. -/
def pairInfo (a b : Ty) : Option (Nat × Nat) :=
  if !mxPair a b then none
  else
    let kc := min (kcOf a) (kcOf b)
    some (kc, if a = .f64 then 512 else if a = .f32 then 256 else 64)
/-- The sum of two dyadic quotients. -/
def addDyadic (x y : Int × Nat) : Int × Nat :=
  if y.2 ≤ x.2 then (x.1 + y.1 * (x.2 / y.2 : Nat), x.2) else (x.1 * (y.2 / x.2 : Nat) + y.1, y.2)
/-- An exact chunk sum with what it records (R113); a chunk without a product is +0. DESIGN CHOICE (log 99): a zero product of integers has the
sign of its factors, as (-5) x 0 has the sign of -5, so that a chunk of such products leaves an accumulator of -0 at -0. -/
def chunkSum (ps : List (Ext × Ext)) : Ext × Flags :=
  let qs := ps.map fun x => mulExt x.1 x.2
  let f := qs.foldl (fun f x => orFlags f x.2) {}
  let pinf := qs.any fun x => x.1 == .inf false
  let ninf := qs.any fun x => x.1 == .inf true
  if pinf && ninf then (qnan, { f with nv := true })
  else if qs.any fun x => isNan x.1 then (qnan, f)
  else if pinf then (.inf false, f)
  else if ninf then (.inf true, f)
  else
    let (n, d) := qs.foldl (fun acc x => match x.1 with
      | .fin g p q => addDyadic acc (sgn g p, q)
      | _ => acc) ((0, 1) : Int × Nat)
    if n = 0 then
      (.fin (!qs.isEmpty && qs.all fun x => match x.1 with
        | .fin g p _ => g && p == 0
        | _ => false) 0 1, f)
    else (.fin (decide (n < 0)) n.natAbs d, f)
/-- An element of a latch; beyond what was loaded it is zero (R239). -/
def Latch.at_ (l : Latch) (r v : Nat) : Ext := ((l.rows[r]?).bind fun x => x[v]?).getD extZero
/-- acc := rnd(acc + chunk sum) for every element (R112). -/
def Acc.addChunk (a : Acc) (t : Ty) (f64 : Bool) (terms : Nat → Nat → List (Ext × Ext)) : Acc :=
  let rs := (List.range 4096).map fun e =>
    let (x, f) := chunkSum (terms (e / 64) (e % 64))
    let (y, g) := addExt .rne (readTy t (a.at_ t e)) x
    let (c, h) := roundFp t .rne false 0 y
    (c, orFlags f (orFlags g h))
  ({ a with data := .vals (rs.map fun x => BitVec.ofNat 64 x.1), f64 := some f64 } : Acc).sticky
    (rs.foldl (fun f x => orFlags f x.2) {})
/-- The indices of a row in the metadata latch (R246). -/
def MetaLatch.row (m : MetaLatch) (i : Nat) : List Nat :=
  (m.rows[i]?).getD ((List.range (m.groups * m.n)).map (· % m.n))
/-- The products of a sparse chunk from dense position lo on (R249). -/
def sparseTerms (a b : Latch) (m : MetaLatch) (lo kc i j : Nat) : List (Ext × Ext) :=
  let ix := m.row i
  (List.range ix.length).filterMap fun e =>
    let k := 128 * (e / m.n) + ix.getD e 0
    if lo ≤ k ∧ k < lo + kc then some (a.at_ i e, b.at_ k j) else none
/-- The formats of a sparse A (R249). -/
def sparseFmt (t : Ty) : Bool :=
  t == .f16 || t == .bf16 || t == .e4m3 || t == .e5m2 || t == .e3m2 || t == .e2m3 || t == .i8 || t == .n8

/-- What an operation comes to in one step of it. -/
inductive OpRes where
  | done
  | more
  | wait
  | fail (code cause : Cause)
  deriving DecidableEq, Repr

/-- A product goes to an accumulator; its partner in an f64 job has been written by that job too (R236). -/
def Mxe.write (m : Mxe) (j : MxJob) (c : Fin 4) (f : Acc → Acc) : Mxe :=
  let m := { m with acc := m.acc.modify c.val f }
  if j.f64 then { m with acc := m.acc.modify (c.val + 1) fun a => { a with f64 := some true } } else m
/-- A multiply: the new MXE and the cycles, or the code it fails with (R239, R247 to R249). -/
def Mxe.multiply (m : Mxe) (j : MxJob) (c : Fin 4) (pair : Option (Ty × Ty)) (sparse : Bool) : Except Cause (Mxe × Nat) :=
  match m.af, m.bf with
  | some a, some b =>
    match pairInfo a.f b.f with
    | none => .error 0x93
    | some (kc, cyc) =>
      let dense (acc : Acc) : Acc := acc.addChunk j.ty j.f64 fun i jj => (List.range kc).map fun k => (a.at_ i k, b.at_ k jj)
      if (pair.map fun x => x != (a.f, b.f)).getD false then .error 0x93
      else if (a.f == .f64) != j.f64 then .error 0x93
      else if !j.accOk c then .error 0x91
      else if sparse then
        match m.md with
        | none => .error 0x93
        | some md =>
          let span := kc * min (128 / md.n) 4
          if !sparseFmt a.f ∨ span / 128 ≠ md.groups then .error 0x93
          else .ok (m.write j c fun acc =>
                (List.range (span / kc)).foldl (fun (acc : Acc) n =>
                  acc.addChunk j.ty j.f64 fun i jj => sparseTerms a b md (n * kc) kc i jj) acc, cyc)
      else .ok (m.write j c dense, cyc)
  | _, _ => .error 0x93

/-! Loading (R244 to R246). -/

/-- Element v of a row whose bits `get` reads from the row's first bit on (R90, R97, R244). -/
def mxElem (get : Nat → Nat → Nat) (f : Ty) (sc : ScaleSrc) (scale : Nat → Nat) (v : Nat) : Ext :=
  if f = .blk4 then
    let base := (if sc = .split then 128 else 136) * (v / 32)
    readBlk (if sc = .split then scale (v / 32) else get (base + 128) 8) (get (base + 4 * (v % 32)) 4)
  else readTy f (get (f.width * v) f.width)
/-- The bits of element v of a row in LM, scale included, meet an uncorrectable error. -/
def mxElemBad (c : Core) (base : Nat) (f : Ty) (sc : ScaleSrc) (v : Nat) : Bool :=
  let b := if f = .blk4 then (if sc = .split then 128 else 136) * (v / 32) + 4 * (v % 32) else f.width * v
  lmBad c (base + b / 8) ((b % 8 + f.width + 7) / 8) || (f == .blk4 && sc != .split && lmBad c (base + 17 * (v / 32) + 16) 1)
/-- Puts an element into a row of a latch. -/
def Latch.put (l : Latch) (r : Nat) (x : Ext) : Latch := { l with rows := l.rows.modify r (· ++ [x]) }
/-- Changes the front that a load fills. -/
def Mxe.modFront (m : Mxe) (b : Bool) (f : Option Latch → Option Latch) : Mxe :=
  if b then { m with bf := f m.bf } else { m with af := f m.af }
/-- Every group of every loaded row ascends strictly (R246). -/
def MetaLatch.ascends (m : MetaLatch) : Bool :=
  m.rows.all fun r => (List.range (r.length - 1)).all fun e => (e + 1) % m.n == 0 || decide (r.getD e 0 < r.getD (e + 1) 0)

/-- A byte of an engine's store: value and mask. -/
abbrev MByte := Byte × Byte
/-- The bytes of an element of w bits at a bit of a byte, with their masks. -/
def maskedBytes (bit w v : Nat) : List MByte :=
  let k := (bit % 8 + w + 7) / 8
  (leBytes k (v % 2 ^ w * 2 ^ (bit % 8))).zip (leBytes k ((2 ^ w - 1) * 2 ^ (bit % 8)))
/-- Stores bytes of one line at a virtual address at home (R186, R255), and the cause that it meets; a store to the host parks while
the host is away (R392). -/
def State.mxPut (s : State) (pid : Nat) (t : Tag) (va : Nat) (bs : List MByte) : State × OpRes :=
  match s.plot? pid with
  | none => (s, .done)
  | some p =>
    match walked p t (translate p (tileOf t.cid) va 1) with
    | (.error (cause, _, _), p) => (s.modPlot pid fun _ => p, .fail 0x94 cause)
    | (.ok (l, _), p) =>
      let s := s.modPlot pid fun _ => p
      let e (a peer : Nat) : HEntry :=
        { tags := [t.engine], line := lineOf a, va := va, tile := tileOf t.cid, peer := peer,
          act := .store ((bs.zip (List.range bs.length)).map fun x => (a + x.2, x.1.1, x.1.2)) }
      match l with
      | .dev a => match p.lineErr (lineOf a) with
        | some cause => (s, .fail 0x94 cause)
        | none => (s.joinWq pid (e a 0), .done)
      | .host a => (s.toHost pid (.mem (e a 0)), .done)
      | .peer d a => if peerRefuses s p.job d a then (s, .fail 0x94 0xA9)
        else (s.toFabric pid (e a d), .done)
/-- The same for bytes that may lie in two lines; a second line that fails leaves the first as it was. -/
def State.mxPut2 (s : State) (pid : Nat) (t : Tag) (va : Nat) (bs : List MByte) : State × OpRes :=
  let k := 64 - va % 64
  match s.mxPut pid t va (bs.take k) with
  | (s1, .done) => if bs.length ≤ k then (s1, .done)
    else match s1.mxPut pid t (va + k) (bs.drop k) with
      | (s2, .done) => (s2, .done)
      | (_, r) => (s, r)
  | r => r

/-! Results (R253 to R257). -/

/-- The mode for a destination (R72), with the ST.RM read at issue. -/
def mxMode (m : Modifier) (rm : RMode) (t : Ty) : RMode :=
  if m.rmo.val ≠ 0 then RMode.of m.rmo.val else if rm = .sr ∧ !t.srLegal then .rne else rm
/-- A code is a finite extreme of its format (R254). -/
def extreme (f : Ty) (c : Nat) : Bool :=
  if f.isInt then c == intCode f (intMax f) || c == intCode f (intMin f) else c % 2 ^ (f.width - 1) == maxCode f
/-- The element is stored as a finite extreme after overflow or saturation (R254). -/
def saturated (f : Ty) (x : Ext) (c : Nat) (g : Flags) : Bool := !isNan x && extreme f c && (g.of || (f.isInt && g.nv))
/-- The tile status word (R254). -/
def tileStatus (a : Acc) (r : MxRun) (fault : Cause) : Word :=
  BitVec.ofNat 64 (boolNat (a.nx || r.epi.nx) + 2 * boolNat (a.uf || r.epi.uf) + 4 * boolNat (a.of || r.epi.of)
    + 16 * boolNat (a.nv || r.epi.nv) + 32 * boolNat (decide (r.sats ≠ 0)) + 2 ^ 6 * r.nans + 2 ^ 22 * r.sats
    + 2 ^ 38 * fault.toNat)
/-- LM words of a core that a job reads or writes count there for the job's launch (R47). Those of a row, and those of its scales, count once,
with the row's first element (DESIGN CHOICE, log 24). -/
def State.lmWords (s : State) (pid : Nat) (c : CoreId) (t : Tag) (n : Nat) : State :=
  if isSvcCid t.cid then s else s.modPlot pid fun p => p.modCore c.toNat fun k => k.words t.lid n
/-- The LM words of the n scales of row i at BA1 (R79). -/
def scaleWords (ba1 i n : Nat) : Nat :=
  let x := ba1 + 8 * (i * n)
  wordsOf (x / 8) ((x % 8 + 8 * n + 7) / 8)
/-- Writes the tile status word at its address (R253, R255). -/
def State.tileWord (s : State) (pid : Nat) (t : Tag) (at_ : MxAddr) (w : Word) : State × OpRes :=
  match at_ with
  | .lm c off => ((s.lmWords pid c t (wordsOf off 8)).modPlot pid fun p => p.modCore c.toNat fun k => k.store off (leBytes 8 w.toNat), .done)
  | .glob va => s.mxPut pid t va ((leBytes 8 w.toNat).map fun b => (b, 0xFF))
  | .ring _ => (s, .done)
/-- The draw of element e of an operation (R103). -/
def mxDraw (j : MxJob) (icount e : Nat) : Nat := drawOf j.seed j.tag.wid j.mid (BitVec.ofNat 64 icount) (BitVec.ofNat 64 e)
/-- The element of an epilogue: its code and flags (R71, R253). -/
def mxOut (j : MxJob) (t f : Ty) (m : Modifier) (rm : RMode) (icount e : Nat) (x : Nat) : Nat × Flags :=
  let mode := mxMode m rm f
  deliver m mode f true (if mode = .sr then mxDraw j icount e else 0) (readTy t x)
/-- The largest magnitude of an accumulator as f32 (R256). -/
def Acc.amax (a : Acc) (t : Ty) : Nat :=
  let xs := (List.range 4096).map fun e => absExt (readTy t (a.at_ t e))
  if xs.any isNan then 0x7FC00000
  else (roundFp .f32 .rup false 0 (xs.foldl (fun y x => if ltExt y x then x else y) extZero)).1
/-- One block of `mx.qnt` (R257): the scale byte, the codes and what is recorded. -/
def qntBlock (f : Ty) (t : Nat) (m : Modifier) (rm : RMode) (draw : Nat → Nat) (xs : List Ext) : Nat × List Nat × Flags :=
  if f = .blk4 then
    let (sc, rs) := writeBlk t m rm draw (xs.map some)
    (sc, rs.map fun r => (r.map (·.1)).getD 0, allFlags rs)
  else
    let ys := xs.map (scaleExt m.scale.toInt)
    if ys.any notFinite then (63, ys.map fun _ => 0, { nv := true })
    else
      let e := blkScale (if f = .e4m3 then 448 else 57344) ys
      let rs := (ys.zip (List.range ys.length)).map fun x => roundFp f rm false (draw x.2) (scaleExt (31 - (e : Int)) x.1)
      (e, rs.map (·.1), rs.foldl (fun g x => orFlags g x.2) {})

/-! The step of an operation. -/

/-- The MXE cycles of an operation (R260), for its energy (R47). -/
def MxOp.cycles (o : MxOp) : Nat :=
  match o with
  | .load _ src _ rows vals f sc _ => 8 + (match src with
      | .ring _ => rows
      | _ => (rows * rowBytes f sc vals + 63) / 64)
  | .loadMeta _ _ rows n g => 8 + (rows * (7 * g * n / 8) + 63) / 64
  | .zero _ => 16
  | .store _ _ _ _ rows cols _ _ _ _ _ => 16 + (rows * cols + 31) / 32
  | .amax _ _ => 68
  | .quant _ _ _ rows c64 _ _ _ _ _ _ _ => 24 + rows * (1 + boolNat c64)
  | _ => 0

/-- One step of a latch load (R244, R245): an element from LM, or a slot of a ring. -/
def mxLoadStep (s : State) (p : Plot) (k : Nat) (r : MxRun) (b : Bool) (src : MxAddr) (stride rows vals : Nat) (f : Ty)
    (sc : ScaleSrc) (ba1 : Nat) : State × OpRes :=
  let own := p.core? r.job.tag.cid.toNat
  let scale (i : Nat) (n : Nat) : Nat := (own.map fun c => lmBits c.lm (ba1 + 8 * (i * (vals / 32) + n)) 8).getD 0
  let s := if r.pos = 0 then s.modPlot s.ev.p fun p => p.modMxe k fun m => m.modFront b fun _ => some ⟨f, List.replicate rows []⟩ else s
  let put (s : State) (i : Nat) (x : Ext) : State := s.modPlot s.ev.p fun p => p.modMxe k fun m => m.modFront b fun l => l.map (·.put i x)
  let scales (s : State) (i : Nat) : State :=
    if f = .blk4 ∧ sc = .split then s.lmWords s.ev.p r.job.tag.cid r.job.tag (scaleWords ba1 i (vals / 32)) else s
  match src with
  | .ring q =>
    if rows ≤ r.pos then (s, .done)
    else match own with
      | none => (s, .fail 0x93 0)
      | some c =>
        if !c.q[q].v ∨ c.q[q].bytes < rowBytes f sc vals then (s, .fail 0x93 0)
        else if c.q[q].fill = 0 then (s, .wait)
        else if lmBad c (c.q[q].slotAt c.q[q].head.toNat) c.q[q].bytes then (s, .fail 0x93 0x23)
        else if f = .blk4 ∧ sc = .split ∧ (List.range (vals / 32)).any (fun n =>
            let x := ba1 + 8 * (r.pos * (vals / 32) + n)
            lmBad c (x / 8) ((x % 8 + 15) / 8)) then (s, .fail 0x93 0x23)
        else
          let v := leNat (ringHead c.lm c.q[q] c.q[q].bytes)
          let s := (scales (s.lmWords s.ev.p c.cid r.job.tag (wordsOf (c.q[q].slotAt c.q[q].head.toNat) c.q[q].bytes)) r.pos).modPlot
            s.ev.p fun p => p.modCore c.cid.toNat fun c => c.ringPop q
          let s := (List.range vals).foldl (fun s n => put s r.pos (mxElem (fun x n => v / 2 ^ x % 2 ^ n) f sc (scale r.pos) n)) s
          (s, if r.pos + 1 ≥ rows then .done else .more)
  | .lm o off =>
    if rows * vals ≤ r.pos then (s, .done)
    else match p.core? o.toNat with
      | none => (s, .fail 0x93 0)
      | some c =>
        let i := r.pos / vals
        let v := r.pos % vals
        let base := off + i * stride
        let badScale := f == .blk4 && sc == .split && (own.map fun c =>
          let x := ba1 + 8 * (i * (vals / 32) + v / 32)
          lmBad c (x / 8) ((x % 8 + 15) / 8)).getD false
        if mxElemBad c base f sc v || badScale then (s, .fail 0x93 0x23)
        else
          let x := mxElem (fun b n => lmBits c.lm (8 * base + b) n) f sc (scale i) v
          let s := if v = 0 then scales (s.lmWords s.ev.p o r.job.tag (wordsOf base (rowBytes f sc vals))) i else s
          (put s i x, if r.pos + 1 ≥ rows * vals then .done else .more)
  | .glob _ => (s, .fail 0x93 0)
/-- One step of a metadata load (R246). -/
def mxMetaStep (s : State) (p : Plot) (k : Nat) (r : MxRun) (src : MxAddr) (stride rows n g : Nat) : State × OpRes :=
  let m0 : MetaLatch := ⟨n, g, List.replicate rows []⟩
  let s := if r.pos = 0 then s.modPlot s.ev.p fun p => p.modMxe k fun m => { m with md := some m0 } else s
  match src with
  | .lm o off =>
    if rows = 0 then (s, .done)
    else match p.core? o.toNat with
      | none => (s, .fail 0x93 0)
      | some c =>
        let i := r.pos / (g * n)
        let b := 8 * (off + i * stride) + 7 * (r.pos % (g * n))
        if lmBad c (b / 8) ((b % 8 + 14) / 8) then (s, .fail 0x93 0x23)
        else
          let md := (((p.mxes[k]?).bind (·.md)).getD m0)
          let md := { (if r.pos = 0 then m0 else md) with
            rows := (if r.pos = 0 then m0 else md).rows.modify i (· ++ [lmBits c.lm b 7]) }
          let s := s.modPlot s.ev.p fun p => p.modMxe k fun m => { m with md := some md }
          let s := if r.pos % (g * n) = 0 then s.lmWords s.ev.p o r.job.tag (wordsOf (off + i * stride) ((7 * (g * n) + 7) / 8)) else s
          if r.pos + 1 < rows * (g * n) then (s, .more) else if md.ascends then (s, .done) else (s, .fail 0x92 0)
  | _ => (s, .fail 0x93 0)

/-- A failed store (R255): the status word carries the cause if its address takes it, and the accumulator is marked. -/
def mxStoreFail (s : State) (k : Nat) (r : MxRun) (c : Fin 4) (a : Acc) (st : MxAddr) (cause : Cause) : State × OpRes :=
  let s1 := (s.tileWord s.ev.p r.job.tag st (tileStatus a r cause)).1
  (s1.modPlot s.ev.p fun p => p.modMxe k fun m => m.modAcc r.job c fun a => { a with faulted := true }, .fail 0x94 cause)
/-- Counts a stored element into the epilogue. -/
def MxRun.count (r : MxRun) (f : Ty) (x : Ext) (c : Nat) (g : Flags) : MxRun :=
  { r with epi := orFlags r.epi g, nans := r.nans + boolNat (isNan x), sats := r.sats + boolNat (saturated f x c g) }
/-- The rows of a store without a prefix, whose type the job has settled after the store's issue (R236), leave the end that the issue
checked: LM_RANGE, or a misaligned row (R253; DESIGN CHOICE, log 93). -/
def MxAddr.misfit (a : MxAddr) (stride rows n al : Nat) : Option Cause :=
  let last (o : Nat) : Nat := if rows = 0 then o else o + (rows - 1) * stride + n
  match a with
  | .lm _ off => if last off > 0x38000 then some 0x21 else if off % al ≠ 0 ∨ stride % al ≠ 0 then some 0 else none
  | .glob va => if last va > 2 ^ 48 ∨ va % al ≠ 0 ∨ stride % al ≠ 0 then some 0 else none
  | .ring _ => none
/-- One step of `mx.st` (R253 to R255): an element, or a row for a ring; then the status word. -/
def mxStoreStep (s : State) (p : Plot) (k : Nat) (m : Mxe) (r : MxRun) (c : Fin 4) (dst st : MxAddr) (stride rows cols : Nat)
    (rel : Bool) (pair : Option (Ty × Ty)) (md : Modifier) (rm : RMode) (icount : Nat) : State × OpRes :=
  let j := r.job
  let t := j.ty
  let f := (pair.map (·.2)).getD t
  let a := m.acc.getD c.val {}
  let misfit := if pair.isNone then dst.misfit stride rows ((cols * f.width + 7) / 8) (mxAlign f) else none
  if !j.accOk c then (s, .fail 0x91 0)
  else if (pair.map fun x => x.1 != t).getD false then (s, .fail 0x93 0)
  else if misfit.isSome then (s, .fail 0x93 (misfit.getD 0))
  else
    let out (e : Nat) : Nat × Flags := mxOut j t f md rm icount e (a.at_ t (64 * (e / cols) + e % cols))
    let src (e : Nat) : Ext := readTy t (a.at_ t (64 * (e / cols) + e % cols))
    let counted (s : State) (es : List Nat) : State :=
      s.modPlot s.ev.p fun p => p.modRun k fun r => es.foldl (fun r e => r.count f (src e) (out e).1 (out e).2) r
    let finish : State × OpRes :=
      match s.tileWord s.ev.p j.tag st (tileStatus a r 0) with
      | (s1, .done) =>
        (s1.modPlot s.ev.p fun p => p.modMxe k fun m => m.modAcc j c fun a =>
          if rel then a.dropped s.fresh else { a with faulted := false }, .done)
      | (s1, .fail _ cause) =>
        (s1.modPlot s.ev.p fun p => p.modMxe k fun m => m.modAcc j c fun a => { a with faulted := true }, .fail 0x94 cause)
      | x => x
    match dst with
    | .ring q =>
      if rows ≤ r.pos then finish
      else match p.core? j.tag.cid.toNat with
        | none => (s, .fail 0x93 0)
        | some o =>
          let es := (List.range cols).map fun n => r.pos * cols + n
          let n := (cols * f.width + 7) / 8
          if !o.q[q].v ∨ o.q[q].bytes < n then (s, .fail 0x93 0)
          else if o.q[q].fill ≥ 2 ^ o.q[q].cnt then (s, .wait)
          else
            let v := (es.map fun e => (out e).1 * 2 ^ (f.width * (e % cols))).sum
            let s := s.lmWords s.ev.p o.cid j.tag (wordsOf (o.q[q].slotAt o.q[q].tail.toNat) o.q[q].bytes)
            (counted (s.modPlot s.ev.p fun p => p.modCore o.cid.toNat fun o => o.ringPush q (leBytes n v)) es, .more)
    | .lm o off =>
      if rows * cols ≤ r.pos then finish
      else
        let bit := 8 * (off + r.pos / cols * stride) + f.width * (r.pos % cols)
        let s := if r.pos % cols = 0 then s.lmWords s.ev.p o j.tag (wordsOf (off + r.pos / cols * stride) ((cols * f.width + 7) / 8)) else s
        (counted (s.modPlot s.ev.p fun p => p.modCore o.toNat fun o => o.storeBits [(bit, f.width, (out r.pos).1)]) [r.pos], .more)
    | .glob va =>
      if rows * cols ≤ r.pos then finish
      else
        let bit := f.width * (r.pos % cols)
        match s.mxPut2 s.ev.p j.tag (va + r.pos / cols * stride + bit / 8) (maskedBytes bit f.width (out r.pos).1) with
        | (s1, .done) => (counted s1 [r.pos], .more)
        | (s1, .fail _ cause) => mxStoreFail s1 k r c a st cause
        | x => x
/-- One step of `mx.qnt` (R257): one block. -/
def mxQuantStep (s : State) (k : Nat) (m : Mxe) (r : MxRun) (c : Fin 4) (dst : MxAddr) (stride rows : Nat) (c64 : Bool) (ty : Nat)
    (pair : Option (Ty × Ty)) (sc : ScaleSrc) (ba1 : Nat) (md : Modifier) (rm : RMode) (icount : Nat) : State × OpRes :=
  let j := r.job
  let t := j.ty
  let f := (pair.map (·.2)).getD .e4m3
  let blocks := 1 + boolNat c64
  let a := m.acc.getD c.val {}
  if !j.accOk c then (s, .fail 0x91 0)
  else if (pair.map fun x => x.1 != t).getD false then (s, .fail 0x93 0)
  else if rows = 0 then (s, .done)
  else
    let i := r.pos / blocks
    let b := r.pos % blocks
    let xs := (List.range 32).map fun n => readTy t (a.at_ t (64 * i + 32 * b + n))
    let mode := mxMode md rm f
    let (scale, codes, g) := qntBlock f ty md mode (fun n => if mode = .sr then mxDraw j icount (32 * r.pos + n) else 0) xs
    match dst with
    | .lm o off =>
      let w := f.width
      let base := 8 * (off + i * stride) + b * 8 * (qntBytes f sc 1)
      let ws : BitWrites := (codes.zip (List.range 32)).map fun x => (base + w * x.2, w, x.1)
      let s := if b ≠ 0 then s else s.lmWords s.ev.p o j.tag (wordsOf (off + i * stride) (qntBytes f sc blocks))
      let s := if b ≠ 0 ∨ sc ≠ .split then s else s.lmWords s.ev.p j.tag.cid j.tag (scaleWords ba1 i blocks)
      let s := s.modPlot s.ev.p fun p =>
        let p := p.modCore o.toNat fun o => o.storeBits (if sc = .split then ws else ws ++ [(base + 32 * w, 8, scale)])
        let p := if sc = .split then p.modCore j.tag.cid.toNat fun o => o.storeBits [(ba1 + 8 * r.pos, 8, scale)] else p
        p.modMxe k fun m => { m with acc := m.acc.modify c.val (·.sticky g) }
      (s, if r.pos + 1 ≥ rows * blocks then .done else .more)
    | _ => (s, .fail 0x93 0)

/-- One step of the running operation. -/
def mxOpStep (s : State) (p : Plot) (k : Nat) (m : Mxe) (r : MxRun) (o : MxOp) : State × OpRes :=
  let j := r.job
  let setM (m : Mxe) : State := s.modPlot s.ev.p fun p => p.modMxe k fun _ => m
  let mul (c : Fin 4) (pair : Option (Ty × Ty)) (sparse : Bool) (floor : Nat) (k2 : Mxe → State × OpRes) : State × OpRes :=
    match m.multiply j c pair sparse with
    | .error code => (s, .fail code 0)
    | .ok (m, cyc) =>
      let (s, r) := k2 m
      (s.modPlot s.ev.p fun p => p.spendFor j.tag (1100 * max cyc floor), r)
  match o with
  | .load b src stride rows vals f sc ba1 => mxLoadStep s p k r b src stride rows vals f sc ba1
  | .loadMeta src stride rows n g => mxMetaStep s p k r src stride rows n g
  | .zero c =>
    if !j.accOk c then (s, .fail 0x91 0)
    else (setM (m.modAcc j c fun a => { a with data := .zero, nv := false, of := false, uf := false, nx := false,
                                               f64 := some j.f64 }), .done)
  | .mma c pair => mul c pair false 0 fun m => (setM m, .done)
  | .mmas c pair => mul c pair true 0 fun m => (setM m, .done)
  | .mrot c pair win =>
    let bonly := win / 2 ^ 16 % 2 = 1
    if r.doomed then (s, .fail 0x97 0)
    else if !r.mul then mul c pair false 136 fun m => (setM { m with run := m.run.map fun r => { r with mul := true } }, .more)
    else if r.sentB ∧ (bonly ∨ r.sentA) ∧ m.bb.isSome ∧ (bonly ∨ m.ab.isSome) then
      (setM { m with bf := m.bb, bb := none, af := if bonly then m.af else m.ab, ab := if bonly then m.ab else none }, .done)
    else (s, .wait)
  | .store c dst st stride rows cols rel pair md rm icount =>
    mxStoreStep s p k m r c dst st stride rows cols rel pair md rm icount
  | .amax c dst =>
    if !j.accOk c then (s, .fail 0x91 0)
    else match dst with
      | .lm o off =>
        ((s.lmWords s.ev.p o j.tag (wordsOf off 4)).modPlot s.ev.p fun p => p.modCore o.toNat fun x =>
          x.store off (leBytes 4 ((m.acc.getD c.val {}).amax j.ty)), .done)
      | _ => (s, .fail 0x93 0)
  | .quant c dst stride rows c64 ty pair sc ba1 md rm icount =>
    mxQuantStep s k m r c dst stride rows c64 ty pair sc ba1 md rm icount

/-- One step of the job's next operation, and where the job then stands (R235, R238, R251). -/
def mxTick (s : State) (pid k : Nat) : State × OpRes :=
  match (s.plot? pid).bind fun p => (p.mxes[k]?).bind fun m => m.run.bind fun r => (r.job.ops[r.next]?).map fun o => (p, m, r, o) with
  | none => (s, .done)
  | some (p, m, r, o) =>
    if r.failed.isSome then (s, .done)
    else
      let (s, x) := mxOpStep s p k m r o
      (s.modPlot pid fun p =>
        let p := if x = .done then p.spendFor r.job.tag (200 * o.cycles) else p
        p.modRun k fun r => match x with
          | .done => { r with next := r.next + 1, pos := 0, since := none, mul := false, sentA := false, sentB := false, epi := {},
                              nans := 0, sats := 0 }
          | .more => { r with pos := r.pos + 1, since := none }
          | .wait => { r with since := some (r.since.getD s.dev.time) }
          | .fail code cause => { r with failed := some (code, cause, r.next) }, x)
/-- Steps of the next operation, until it ends or waits. -/
def mxTicks (s : State) (pid k : Nat) : Nat → State
  | 0 => s
  | n + 1 => match mxTick s pid k with
    | (s, .more) => mxTicks s pid k n
    | (s, _) => s
/-- MX_OPERATION_EXECUTE (R235): one to n + 1 steps of the next operation. -/
def execMxOperationExecute (s : State) : Out :=
  onMxe s fun _ _ => { mxTicks s s.ev.p s.ev.c (s.ev.n + 1) with fresh := s.fresh + 1 }

/-- The window of the next unfinished `mx.mrot` of a running job (R251). -/
def MxRun.window (r : MxRun) : Option Nat :=
  if r.failed.isSome then none
  else (r.job.ops.drop r.next).findSome? fun o => match o with
    | .mrot _ _ w => some w
    | _ => none
/-- Where a latch goes in a window: A west, B north (R250). -/
def mrotTo (x : Nat × Nat × Nat) (win : Nat) (b : Bool) : Nat × Nat × Nat :=
  let (r0, h, c0, w) := winOf win
  if b then (x.1, r0 + (x.2.1 - r0 + h - 1) % h, x.2.2) else (x.1, x.2.1, c0 + (x.2.2 - c0 + w - 1) % w)
/-- MX_LATCH_ACCEPT (R251): the latch that MXE `c` offers, B when `flag`, meets its neighbour. -/
def execMxLatchAccept (s : State) : Out :=
  onMxe s fun p m =>
    match m.run with
    | none => s
    | some r =>
      match r.job.ops[r.next]? with
      | some (.mrot _ _ win) =>
        let b := s.ev.flag
        let bonly := win / 2 ^ 16 % 2 = 1
        if r.failed.isSome ∨ !r.mul ∨ (if b then r.sentB else bonly || r.sentA) then s
        else
          match p.atTorus (mrotTo (p.torus s.ev.c) win b) with
          | none => s
          | some k =>
            match (p.mxes[k]?).bind fun n => n.run.map fun q => (n, q) with
            | none => s
            | some (n, q) =>
              match q.window with
              | none => s
              | some w =>
                if w ≠ win then
                  s.modPlot s.ev.p fun p => p.modRun k fun q =>
                    if q.mul then { q with failed := some (0x97, 0, q.next) } else { q with doomed := true }
                else if (if b then n.bb.isSome else n.ab.isSome) then s
                else s.modPlot s.ev.p fun p =>
                  let p := p.modMxe k fun n => if b then { n with bb := m.bf } else { n with ab := m.af }
                  p.modRun s.ev.c fun r => if b then { r with sentB := true } else { r with sentA := true }
      | _ => s
/-- MX_WAIT_TIMEOUT (R251). -/
def execMxWaitTimeout (s : State) : Out :=
  onMxe s fun _ m =>
    match m.run.bind fun r => r.since.map fun t => (r, t) with
    | none => s
    | some (r, t) =>
      if r.failed.isNone ∧ t + 1000000 ≤ s.dev.time then
        s.modPlot s.ev.p fun p => p.modRun s.ev.c fun r => { r with failed := some (0x9B, 0, r.next) }
      else s

/-- The job status word (R237): FAULTED shows every accumulator that is marked, as the table has it. -/
def jobStatus (m : Mxe) (code cause : Cause) (op : Nat) (bar : Bool) : Word :=
  let marked := ((List.range 4).filter fun a => (m.acc.getD a {}).faulted).map (2 ^ ·)
  BitVec.ofNat 64 (code.toNat + 2 ^ 8 * cause.toNat + 2 ^ 16 * op + 2 ^ 21 * boolNat bar + 2 ^ 24 * marked.sum)
/-- MX_JOB_COMPLETE (R237, R220), once every write of the job is performed at system scope. -/
def execMxJobComplete (s : State) : Out :=
  onMxe s fun p m =>
    match m.run with
    | none => s
    | some r =>
      let j := r.job
      let pid := s.ev.p
      if (r.failed.isNone ∧ r.next < j.ops.length) ∨ r.barFault.isSome ∨ p.pendingAt j.tag.engine then s
      else
        let bar := r.failed.isNone && r.barDead.isNone && ((j.blk.map fun b => b.bar != 0).getD false)
        let (s1, x) := match bar, j.blk with
          | true, some b => s.barrier pid j.tag b
          | _, _ => (s, .done)
        match x with
        | .busy => s1
        | .offer cause a => s1.modPlot pid fun p => p.modRun s.ev.c fun r => { r with barFault := some (cause, a) }
        | _ =>
          let dead := match x with
            | .bad cause => some cause
            | _ => r.barDead
          let status := match r.failed, dead with
            | some (code, cause, op), _ => jobStatus m code cause (if code = 0x91 then 0 else op) false
            | none, some cause => jobStatus m 0x94 cause 0 true
            | none, none => jobStatus m 0 0 0 false
          s1.modPlot pid fun p =>
            let p := p.modCore j.tag.cid.toNat fun c =>
              ({ c.modCount j.tag.lid (·.addJ j.id status) with
                   jout := c.jout.filter fun y => y != (j.tag.lid, j.id) } : Core).wakeJobs p.enqs true
            let p := p.modMxe s.ev.c fun m => { m with run := none, af := none, ab := none, bf := none, bb := none, md := none }
            match j.blk with
            | none => p
            | some b => p.sendTo j.tag.cid (engineMsg j.tag b status true j.id j.cls)

end Sys2Proof.Machine
end

