-- ==== Sys2Proof/Machine/Effect.lean ====
section
/-! DEFINITION. Major 0x24, effects and continuations (R262 to R282): performing, frames, and the token instructions. The search,
the making of a continuation and the handler's start stand in Ops. -/
namespace Sys2Proof.Machine

/-- `perform` (R272, R278). -/
def execPerform (e : BitVec 12) (a d : Reg) (s : State) : Out :=
  onCore s fun _ c =>
    endable s c (.next (offer (s.modMe fun _ => (c.retire 4 1).setSt 0 1 0)
      { id := e, arg := c.r a, dv := true, dreg := d.val, hw := false, pc := c.pc }))
/-- `vperform` (R273, R278). -/
def execVperform (e : BitVec 12) (k : KReg) (d : VReg) (s : State) : Out :=
  onCore s fun _ c =>
    if c.mask k = 0 then put s (c.retire 4 1)
    else
      endable s c (.next (offer (s.modMe fun _ => (c.retire 4 1).setSt 0 1 0)
        { id := e, arg := BitVec.ofNat 64 c.off.toNat, dv := true, dreg := d.val, vec := true, mask := c.mask k, hw := false,
          pc := c.pc }))

/-- The words of a frame (R264). -/
def frameWords (e : BitVec 12) (kind : Nat) (gen : BitVec 16) (obj : BitVec 16) (hoff : BitVec 32) (f : Nat) (link : Word) : List Word :=
  [BitVec.ofNat 64 (e.toNat + 2 ^ 12 * kind + 2 ^ 16 * gen.toNat + 2 ^ 32 * obj.toNat), hoff.setWidth 64, BitVec.ofNat 64 f, link]
/-- `hnd` of a kind (R276). -/
def hndOp (s : State) (kind : Nat) (e : BitVec 12) (h : BitVec 8) : Out :=
  onCore s fun p c =>
    let g := c.r 15
    if g.toNat ≥ 0x38000 ∨ g.toNat ≤ 32 then trap s 0x21 g 32
    else if g.toNat % 8 ≠ 0 then trap s 0x20 g 8
    else match p.handler c.obj.toNat h.toNat with
      | none => trap s 0x43 0 (h.setWidth 64)
      | some ho =>
        let f := g.toNat - 32
        let c1 := c.store f (wordsBytes (frameWords e kind c.frames c.obj ho f c.htop))
        put s (({ c1 with frames := c.frames + 1, htop := BitVec.ofNat 64 (f + 2 ^ 18 * c.cid.toNat) }.setG 15
          (BitVec.ofNat 64 f)).retire 4 1 20)
/-- `hnd E, label, once` (R276). -/
def execHndOnce (e : BitVec 12) (h : BitVec 8) (s : State) : Out := hndOp s 0 e h
/-- `hnd E, label, many` (R276). -/
def execHndMany (e : BitVec 12) (h : BitVec 8) (s : State) : Out := hndOp s 1 e h
/-- `hnd E, label, none` (R276). -/
def execHndNone (e : BitVec 12) (h : BitVec 8) (s : State) : Out := hndOp s 2 e h
/-- `hpop` (R277). -/
def execHpop (e : BitVec 12) (s : State) : Out :=
  onCore s fun _ c =>
    let o := hoff c.htop
    let at_ : Word := BitVec.ofNat 64 (hcid c.htop * 2 ^ 18 + o)
    if o = 0 ∨ hcid c.htop ≠ c.cid.toNat ∨ c.r 15 ≠ BitVec.ofNat 64 o then trap s 0x65 c.htop (e.setWidth 64)
    else if o + 32 > 0x38000 then trap s 0x63 at_ 0x21
    else if lmBad c o 32 then trap s 0x63 at_ 0x23
    else
      let f := Frame.of ((List.range 4).map fun i => c.lm.word (o + 8 * i))
      if !f.ok c.cid.toNat o then trap s 0x63 at_ 0
      else if e ≠ 0xFFF ∧ f.e ≠ e.toNat then trap s 0x65 c.htop (e.setWidth 64)
      else put s (({ c with htop := f.link &&& 0xFFFFFFFF }.setG 15 (BitVec.ofNat 64 (o + 32))).retire 4 1 20)

/-! Tokens (R270, R271). -/

/-- The fields of a token. -/
structure Tok where
  cid : Nat
  slot : Nat
  kind : BitVec 2
  gen : BitVec 16
  lid : Lid
  deriving DecidableEq, Repr
/-- The fields of a token's word. -/
def Tok.of (w : Word) : Tok :=
  ⟨fld w 13 0, fld w 18 14, BitVec.ofNat 2 (fld w 20 19), BitVec.ofNat 16 (fld w 39 24), BitVec.ofNat 16 (fld w 55 40)⟩
/-- The token is current for a stint of a launch (R270). -/
def tokCurrent (p : Plot) (l : Lid) (w : Word) : Bool :=
  fld w 63 56 == 0 && fld w 23 21 == 0 && p.hasCore (fld w 13 0) && fld w 20 19 != 3 && (Tok.of w).lid == l
/-- The slot holds the live continuation that a token names (R270). -/
def Slot.named (x : Slot) (l : Lid) (gen : BitVec 16) (kind : BitVec 2) : Bool :=
  x.gen == gen && x.kind == kind && x.lid == l && (x.state == 1 || (kind == 0 && x.state == 2))
/-- A resume claim (R271, R279): 0 and the claimed slot, or its cause. -/
def Slot.claim (x : Slot) (l : Lid) (gen : BitVec 16) (kind : BitVec 2) (vec : Option Ty) : Cause × Slot :=
  if !x.named l gen kind ∨ x.state ≠ 1 then (0x61, x)
  else if vec.isSome != x.vec ∨ (match vec with
      | some t => decide (x.ltype ≠ 15 ∧ x.ltype ≠ t.laneCode)
      | none => false) = true then (0x62, x)
  else (0, if kind = 0 then { x with state := 2 } else { x with queued := x.queued + 1 })
/-- The abort event (R271, R280). -/
def Slot.kill (x : Slot) (l : Lid) (gen : BitVec 16) (kind : BitVec 2) : Cause × Slot :=
  if !x.named l gen kind then (0x61, x)
  else (0, if kind = 0 ∨ x.queued = 0 then x.release else { x with state := 3 })
/-- What `tokq` reads (R281). -/
def Slot.query (x : Slot) (l : Lid) (gen : BitVec 16) (kind : BitVec 2) : Word :=
  let known := x.gen == gen && x.kind == kind && x.lid == l && x.state != 0
  if !known then BitVec.ofNat 64 (4 * kind.toNat)
  else BitVec.ofNat 64 ((if x.state = 1 then 1 else 2) + 4 * kind.toNat
    + 16 * boolNat ((x.rcd.bind (·.vec)).isSome) + 32 * boolNat x.vec + 2 ^ 16 * x.resumes.toNat + 2 ^ 32 * x.queued.toNat
    + 2 ^ 48 * x.fgen.toNat)

/-- A step on the slab of a token's holder (R279 to R281): on the own slab at once, else by the holder's message context, at a
commit point, while the stint waits; MSGSEQ has advanced then (R194). `act` is the step and its remote form; `done` takes what it gave. -/
def onHolder (s : State) (c : Core) (t : Tok) (act : Slot → Word × Slot) (rem : RemAct) (done : Bool → Core → Word → Out) : Out :=
  match c.wait with
  | .got ws => done true c (ws.getD 0 0)
  | .failed cause x i => trap (s.modMe Core.unbump) cause x i
  | .reply => put s c.stall
  | _ =>
    if t.cid = c.cid.toNat then
      let (w, x) := act ((c.slab[t.slot]?).getD {})
      done false (c.modSlot t.slot fun _ => x) w
    else if c.det then trap s 0x42 (BitVec.ofNat 64 (0xF000000000000000 + t.cid * 2 ^ 18)) 0
    else
      let r : RemOp := { tag := c.tag, dst := BitVec.ofNat 14 t.cid, off := 0, act := rem, returns := true }
      put s { (c.enterRet (.remote r)).bumpSeq.stall with wait := .reply }
/-- The core with MSGSEQ as it was before an instruction that has sent a remote operation, when it has (R194). -/
def Core.before (c : Core) (far : Bool) : Core := if far then c.unbump else c
/-- The resume instructions (R279): `how` the value goes. The message takes `n` overflow places (log 17). -/
def resumeOp (s : State) (w : Word) (vec : Option Ty) (how : ResumeHow) (n : Nat) : Out :=
  onCore s fun p c =>
    let t := Tok.of w
    if !tokCurrent p c.lid w then trap s 0x61 0 w
    else if t.kind = 2 then trap s 0x62 0 w
    else if t.cid = c.cid.toNat ∧ c.noPlace n then put s (if c.ob.isEmpty then c.stall else c.commit.stall)
    else
      onHolder s c t (fun x => let (e, y) := x.claim c.lid t.gen t.kind vec; (e.setWidth 64, y)) (.claim t.slot t.gen t.kind vec)
        fun far c e =>
          if e ≠ 0 then trap (s.modMe (·.before far)) (e.setWidth 8) 0 w
          else
            let t0 := (c.before far).tag
            let m : Msg := { src := c.cid, seq := t0.seq, lid := c.lid, cls := c.sendCls, tag := t0,
                             acq := some (p.pairScope c.cid (BitVec.ofNat 14 t.cid)), body := .resume t.slot t.gen t.kind how }
            enterPlaced s c n (.msg (BitVec.ofNat 14 t.cid) m) fun c => (if far then c else c.bumpSeq).retire 4 1
/-- `resume` (R279). -/
def execResume (a b : Reg) (s : State) : Out := onCore s fun _ c => resumeOp s (c.r a) none (.scalar (c.r b)) 0
/-- `resumev` (R279). -/
def execResumev (t : Ty) (a : Reg) (b : VReg) (s : State) : Out :=
  onCore s fun _ c => resumeOp s (c.r a) (some t) (.vector c.v[b] t) 2
/-- `abort` (R280). -/
def execAbort (a : Reg) (s : State) : Out :=
  onCore s fun p c =>
    let w := c.r a
    let t := Tok.of w
    if !tokCurrent p c.lid w then trap s 0x61 0 w
    else if t.kind = 2 then put s (c.retire 4 1)
    else
      onHolder s c t (fun x => let (e, y) := x.kill c.lid t.gen t.kind; (e.setWidth 64, y)) (.kill t.slot t.gen t.kind) fun far c e =>
        if e ≠ 0 then trap (s.modMe (·.before far)) (e.setWidth 8) 0 w else put s (c.retire 4 1)
/-- `tokq` (R281). -/
def execTokq (a d : Reg) (s : State) : Out :=
  onCore s fun p c =>
    let w := c.r a
    let t := Tok.of w
    if !tokCurrent p c.lid w then put s ((c.setG d (BitVec.ofNat 64 (4 * t.kind.toNat))).retire 4 1)
    else
      onHolder s c t (fun x => (x.query c.lid t.gen t.kind, x)) (.query t.slot t.gen t.kind) fun _ c v =>
        put s ((c.setG d v).retire 4 1)

end Sys2Proof.Machine
end

