-- ==== Sys2Proof/Machine/World.lean ====
section
/-! DEFINITION. Majors 0x25 and 0x26 at a core: the world-store instructions (R283, R284, R289 to R296, R307 to R311, R314). -/
namespace Sys2Proof.Machine

/-- The RID of a key word or a group word (R286, R307). -/
def wRid (kw : Word) : Nat := fld kw 43 32
/-- The home TSE of a key word (R286). -/
def wHome (kw : Word) : Nat := (kw * 0x9E3779B97F4A7C15).toNat / 2 ^ 60
/-- The plot's region of a RID. -/
def Plot.region? (p : Plot) (rid : Nat) : Option Region := p.regions.find? fun r => r.rid == rid
/-- The region as the tile routers hold it (R285, R291). -/
def Plot.routed (p : Plot) (rid : Nat) : Option Region := p.regions.find? fun r => r.rid == rid && r.routed
/-- The state size S in bytes (R283). -/
def Region.size (r : Region) : Nat := 8 * r.sw
/-- The elements of a state (R283). -/
def Region.elems (r : Region) : Nat := r.size / (r.ef.width / 8)
/-- The bytes charged (R284). -/
def Region.charge (r : Region) : Nat := (r.keys * r.depth * (r.size + 8) + 65535) / 65536 * 65536
/-- The format of EF (R283). -/
def efTy : Nat → Ty
  | 0 => .f64 | 1 => .f32 | 2 => .bf16 | _ => .f16
/-- The region of a descriptor's words (R283). -/
def regionOf (ws : List Word) : Region :=
  let w0 := ws.getD 0 0
  { rid := fld w0 11 0, sw := fld w0 22 16, ef := efTy (fld w0 25 24), depth := fld w0 31 26 + 1, io := fld w0 33 32,
    xo := fld w0 34 34, ng := fld w0 40 35, keys := (ws.getD 1 0).toNat, lim := (ws.getD 2 0).toNat, dl := (ws.getD 3 0).toNat,
    floor0 := (ws.getD 4 0).toInt, at_ := [], routed := false }
/-- The fields of a descriptor keep R284. -/
def regionOk (ws : List Word) : Bool :=
  let w0 := ws.getD 0 0
  let r := regionOf ws
  fld w0 15 12 == 0 && fld w0 23 23 == 0 && fld w0 63 41 == 0 && fld (ws.getD 1 0) 63 33 == 0 && !(ws.getD 2 0).getLsbD 63
    && fld (ws.getD 3 0) 63 48 == 0 && (ws.drop 5).all (· == 0) && decide (1 ≤ r.sw ∧ r.sw ≤ 64 ∧ 1 ≤ r.keys ∧ r.keys ≤ 2 ^ 32)
    && r.depth != 1 && !(r.depth == 2 && r.io == 2) && !(r.io == 3 && r.elems % 2 == 1)

/-- The check of a key word at issue (R291). -/
def wKey (p : Plot) (kw : Word) : Except Bad Region :=
  if fld kw 63 44 ≠ 0 then .error (0x73, kw, 0)
  else match p.routed (wRid kw) with
    | none => .error (0x72, kw, 0)
    | some r => if fld kw 31 0 ≥ r.keys then .error (0x73, kw, 0) else .ok r
/-- The own-LM source of a store (R292), decoded by R139: a window that names no core of the plot is outside it. -/
def wSource (p : Plot) (c : Core) (a : Word) (n : Nat) : Except Bad Nat :=
  match lmDecode p c.cid a 1 with
  | .error (cause, x, i) => .error (cause, x, if cause = 0x41 then i else BitVec.ofNat 64 n)
  | .ok (o, off) =>
    if o ≠ c.cid ∨ off + n > 0x38000 then .error (0x21, a, BitVec.ofNat 64 n)
    else if off % 8 ≠ 0 then .error (0x20, a, BitVec.ofNat 64 n)
    else .ok off

/-- `wst` and `wst.w` (R292). -/
def wstOp (s : State) (wt : Bool) (b a d : Reg) : Out :=
  onCore s fun p c =>
    match wKey p (c.r d) with
    | .error (cause, x, i) => trap s cause x i
    | .ok r => match wSource p c (c.r a) r.size with
      | .error (cause, x, i) => trap s cause x i
      | .ok off =>
        if lmBad c off r.size then trap s 0x23 (c.r a) (Config.freeWord off 0)
        else
          let o : TseOp := { tag := c.tag, tse := wHome (c.r d), returns := false, det := c.det,
                             act := .st (c.r d) (c.r b).toInt (c.lm.bytes off r.size) wt }
          enterPlaced s c ((r.size + 63) / 64) (.tse o) fun c => c.bumpSeq.retire 4 1 (5 * wordsOf off r.size)
/-- `wst` (R292). -/
def execWst (b a d : Reg) (s : State) : Out := wstOp s false b a d
/-- `wst.w` (R292). -/
def execWstW (b a d : Reg) (s : State) : Out := wstOp s true b a d
/-- `wld` (R295, R296): in a DET launch WAIT acts as FINAL. -/
def execWld (h : BitVec 10) (b a d : Reg) (s : State) : Out :=
  onCore s fun p c =>
    let x := c.r d
    let dst := 8 * fld x 17 3
    if fld x 1 0 = 3 then trap s 0x01 0 (wordHere s p c)
    else match wKey p (c.r a) with
      | .error (cause, y, i) => trap s cause y i
      | .ok r =>
        if dst + 8 + r.size > 0x38000 then trap s 0x21 (BitVec.ofNat 64 dst) (BitVec.ofNat 64 (8 + r.size))
        else match handlerPc p c h with
          | .error (cause, y, i) => trap s cause y i
          | .ok pc =>
            let l : WLoad :=
              { kw := c.r a, t := (c.r b).toInt, mode := if c.det && fld x 1 0 == 1 then 2 else BitVec.ofNat 2 (fld x 1 0),
                eff := x.getLsbD 2, dst := dst, lim := if x.getLsbD 18 then some (fld x 39 19) else none, dl := 1000 * fld x 63 40,
                pc := pc, a0 := c.r 8, a1 := c.r 9, a2 := c.r 10, a3 := c.r 11, htop := c.htop, cls := c.sendCls }
            enterPlaced s c 1 (.tse { tag := c.tag, tse := wHome (c.r a), act := .ld l, returns := false, det := c.det })
              fun c => c.bumpSeq.retire 4 1
/-- `wcancel` (R309). -/
def execWcancel (b a : Reg) (s : State) : Out :=
  onCore s fun p c =>
    match wKey p (c.r a) with
    | .error (cause, x, i) => trap s cause x i
    | .ok _ =>
      put s ((c.enter (.tse { tag := c.tag, tse := wHome (c.r a), act := .cancel (c.r a) (c.r b), returns := false,
                              det := c.det })).bumpSeq.retire 4 1)
/-- `wfloor` (R307, R314): in a DET launch it neither commits nor waits, and its group is checked at the TSE. -/
def execWfloor (b a : Reg) (s : State) : Out :=
  onCore s fun p c =>
    let g := c.r a
    let o (ret : Bool) : EBody := .tse { tag := c.tag, tse := wRid g % 16, act := .floor g (c.r b).toInt, returns := ret, det := c.det }
    match c.wait with
    | .got _ => put s (c.retire 4 1)
    | .failed cause x i => trap s cause x i
    | .reply => put s c.stall
    | _ =>
      match p.routed (wRid g) with
      | none => trap s 0x72 (BitVec.ofNat 64 (wRid g)) 0
      | some r =>
        if c.det then put s ((c.enter (o false)).retire 4 1)
        else if fld g 31 6 ≠ 0 ∨ fld g 63 44 ≠ 0 ∨ fld g 5 0 > r.ng then trap s 0x7A g 0
        else put s { (c.enterRet (o true)).stall with wait := .reply }
/-- `wprobe` (R308). -/
def execWprobe (a d : Reg) (s : State) : Out :=
  onCore s fun p c =>
    match c.wait with
    | .got ws => put s (((c.setG d (ws.getD 0 0)).setG (d + 1) (ws.getD 1 0)).retire 4 1)
    | .failed cause x i => trap s cause x i 4 (some d)
    | .reply => put s c.stall
    | _ =>
      match wKey p (c.r a) with
      | .error (cause, x, i) => trap s cause x i 4 (some d)
      | .ok _ =>
        if c.det then trap s 0x42 (c.r a) 0
        else put s { (c.enterRet (.tse { tag := c.tag, tse := wHome (c.r a), act := .probe (c.r a), returns := true })).stall with
                     wait := .reply }
/-- `wreg` (R284, R310). -/
def execWreg (a d : Reg) (s : State) : Out :=
  onCore s fun _ c =>
    match c.wait with
    | .got ws => put s ((c.setG d (ws.getD 0 0)).retire 4 1)
    | .failed cause x i => trap s cause x i
    | .reply => put s c.stall
    | _ =>
      if c.det then trap s 0x42 (c.r a) 0
      else match ownOffset (c.r a) 64 with
        | .error (cause, x, i) => trap s cause x i
        | .ok off =>
          if lmBad c off 64 then trap s 0x23 (c.r a) (Config.freeWord off 0)
          else
            let ws := (List.range 8).map fun i => c.lm.word (off + 8 * i)
            let r := regionOf ws
            if !regionOk ws then put s { c.commit.stall with wait := .failed 0x72 (BitVec.ofNat 64 r.rid) 0 }
            else put s { (c.enterRet (.tse { tag := c.tag, tse := 16, act := .reg r, returns := true })).stall with wait := .reply }
/-- `wreg.free` (R311). -/
def execWregFree (a d : Reg) (s : State) : Out :=
  onCore s fun p c =>
    match c.wait with
    | .got ws => put s ((c.setG d (ws.getD 0 0)).retire 4 1)
    | .failed cause x i => trap s cause x i
    | .reply => put s c.stall
    | _ =>
      if c.det then trap s 0x42 (c.r a) 0
      else if fld (c.r a) 63 12 ≠ 0 ∨ (p.routed (fld (c.r a) 11 0)).isNone then trap s 0x72 (c.r a) 0
      else put s { (c.enterRet (.tse { tag := c.tag, tse := 16, act := .free (fld (c.r a) 11 0), returns := true })).stall with
                   wait := .reply }

end Sys2Proof.Machine
end

