-- ==== Sys2Proof/Machine/WorldEngine.lean ====
section
/-! DEFINITION. The translation-and-state engines (R287, R288, R293 to R312): what a TSE does with each arriving operation, the
value rules, answers, the wait table, floors, and registration. An event names the operation by its place `j` among those in
flight to the TSEs of plot `p`, or the waiting one by its place in the wait tables. -/
namespace Sys2Proof.Machine

/-! The value rules (R302 to R306). -/

/-- A value with the exceptions recorded so far. -/
abbrev Val := Ext × Flags
/-- One rounding to nearest even (R303). -/
def rndV (f : Ty) (x : Val) : Val :=
  let (c, g) := roundFp f .rne false 0 x.1
  (readTy f c, orFlags x.2 g)
/-- A weight: rnd_f(rnd_f64(n / d)), d positive. -/
def weight (f : Ty) (n : Int) (d : Nat) : Val := rndV f (rndV .f64 (extRat n d, {}))
/-- rnd_f(b - a). -/
def diffV (f : Ty) (a b : Ext) : Val := rndV f (addExt .rne b (negExt a))
/-- An exact product. -/
def mulV (a b : Val) : Val :=
  let (x, g) := mulExt a.1 b.1
  (x, orFlags (orFlags a.2 b.2) g)
/-- An exact sum. Infinities of both signs among the terms are invalid, and a quiet NaN beside them hides nothing (R107). -/
def sumV (xs : List Val) : Val :=
  let r : Val := match xs with
    | [] => (extZero, {})
    | x :: rest => rest.foldl (fun (a b : Val) =>
        let (v, g) := addExt .rne a.1 b.1
        (v, orFlags (orFlags a.2 b.2) g)) x
  if (xs.any fun x => x.1 == .inf false) && xs.any fun x => x.1 == .inf true then (r.1, { r.2 with nv := true }) else r
/-- The linear rule for an element, from `base` (R303). -/
def linV (f : Ty) (w : Val) (a b base : Ext) : Val := rndV f (sumV [mulV w (diffV f a b), (base, {})])
/-- The quadratic rule for an element (R304). -/
def quadV (f : Ty) (w1 w2 q : Val) (a b c : Ext) : Val :=
  let d1 := diffV f a b
  let d2 := diffV f b c
  let cc := rndV f (sumV [d2, mulV (negExt q.1, q.2) d1])
  rndV f (sumV [(a, {}), mulV w1 d1, mulV w2 cc])

/-- An element of a state (R283). -/
def Region.elem (r : Region) (s : List Byte) (i : Nat) : Ext :=
  let b := r.ef.width / 8
  readTy r.ef (leNat ((s.drop (b * i)).take b))
/-- The bytes and flags of a state whose elements a rule gives. -/
def Region.form (r : Region) (f : Nat → Val) : List Byte × Flags :=
  let xs := (List.range r.elems).map f
  (xs.flatMap fun x => leBytes (r.ef.width / 8) (roundFp r.ef .rne false 0 x.1).1, xs.foldl (fun g x => orFlags g x.2) {})

/-- A formed answer: CODE, ORD, the lowest and highest instants used, flags, the state (R299, R302). -/
structure Formed where
  code : Nat
  ord : Nat
  lo : Int
  hi : Int
  fl : Flags
  state : List Byte
  deriving DecidableEq, Repr

/-- Sample i of a furrow. -/
def sampleAt (ss : List Sample) (i : Nat) : Sample := ss.getD i ⟨0, []⟩
/-- The linear rule over a state, interpolating or extrapolating (R303). -/
def Region.linear (r : Region) (code : Nat) (a b : Sample) (t : Int) (ext : Bool) : Formed :=
  let w := weight r.ef (t - (if ext then b.t else a.t)) (b.t - a.t).toNat
  let (bs, g) := r.form fun i =>
    let x := r.elem a.data i
    let y := r.elem b.data i
    linV r.ef w x y (if ext then y else x)
  ⟨code, 1, a.t, b.t, g, bs⟩
/-- The quadratic rule over a state (R304). -/
def Region.quadratic (r : Region) (a b c : Sample) (t : Int) : Formed :=
  let w1 := weight r.ef (t - a.t) (b.t - a.t).toNat
  let w2 := weight r.ef ((t - a.t) * (t - b.t)) ((c.t - a.t) * (c.t - b.t)).toNat
  let q := weight r.ef (c.t - b.t) (b.t - a.t).toNat
  let (bs, g) := r.form fun i => quadV r.ef w1 w2 q (r.elem a.data i) (r.elem b.data i) (r.elem c.data i)
  ⟨1, 2, a.t, c.t, g, bs⟩
/-- The cubic Hermite rule over a state (R305). -/
def Region.hermite (r : Region) (a b : Sample) (t : Int) : Formed :=
  let h : Int := b.t - a.t
  let n : Int := t - a.t
  let c00 := weight r.ef (2 * n ^ 3 - 3 * n ^ 2 * h + h ^ 3) (h ^ 3).toNat
  let c01 := weight r.ef (3 * n ^ 2 * h - 2 * n ^ 3) (h ^ 3).toNat
  let c10 := weight r.ef (n ^ 3 - 2 * n ^ 2 * h + n * h ^ 2) (h ^ 2).toNat
  let c11 := weight r.ef (n ^ 3 - n ^ 2 * h) (h ^ 2).toNat
  let w := weight r.ef n h.toNat
  let m := r.elems / 2
  let (bs, g) := r.form fun i =>
    let x := r.elem a.data i
    let y := r.elem b.data i
    if i < m then
      rndV r.ef (sumV [mulV c00 (x, {}), mulV c01 (y, {}), mulV c10 (r.elem a.data (i + m), {}), mulV c11 (r.elem b.data (i + m), {})])
    else linV r.ef w x y x
  ⟨1, 3, a.t, b.t, g, bs⟩
/-- The answer of a load that is inside or near, from its samples (R302). -/
def Region.value (r : Region) (ss : List Sample) (t : Int) : Formed :=
  let n := ss.length
  let last := sampleAt ss (n - 1)
  let copy (code : Nat) (x : Sample) : Formed := ⟨code, 0, x.t, x.t, {}, x.data⟩
  if t > last.t then
    if r.xo = 0 ∨ n = 1 then copy 2 last else r.linear 2 (sampleAt ss (n - 2)) last t true
  else match ss.find? fun x => x.t == t with
    | some x => copy 0 x
    | none =>
      let j := (ss.filter fun x => decide (x.t < t)).length - 1
      let a := sampleAt ss j
      let b := sampleAt ss (j + 1)
      if r.io = 0 then copy 1 a
      else if r.io = 2 ∧ n ≠ 2 then
        let m0 := j - 1
        r.quadratic (sampleAt ss m0) (sampleAt ss (m0 + 1)) (sampleAt ss (m0 + 2)) t
      else if r.io = 3 then r.hermite a b t
      else r.linear 1 a b t false

/-! Classes, outcome words and answers (R297 to R301). -/

/-- What a load is answered with, if it need not wait: CODE 1 stands for a formed answer (R297). -/
def judge (r : Region) (ss : List Sample) (l : WLoad) : Option Nat :=
  let lim : Int := (l.lim.getD r.lim : Nat)
  match ss with
  | [] => if l.mode = 0 then some 16 else none
  | s0 :: _ =>
    let last := sampleAt ss (ss.length - 1)
    if l.t < s0.t then some 17
    else if l.t ≤ last.t then some 1
    else if l.t - last.t ≤ lim then (if l.mode = 2 then none else some 1)
    else if l.mode = 0 then some 16 else none
/-- A signed field of 24 bits, saturated (R299). -/
def sat24 (x : Int) : Nat := ((max (-(2 ^ 23 - 1)) (min (2 ^ 23 - 1) x)) % 2 ^ 24).toNat
/-- The outcome word (R299). -/
def outcomeWord (code ord : Nat) (empty tfull : Bool) (g : Flags) (lo hi : Int) : Word :=
  BitVec.ofNat 64 (code + 2 ^ 8 * ord + 2 ^ 10 * boolNat empty + 2 ^ 11 * boolNat tfull + 2 ^ 12 * boolNat g.nx + 2 ^ 13 * boolNat g.uf
    + 2 ^ 14 * boolNat g.of + 2 ^ 15 * boolNat g.nv + 2 ^ 16 * sat24 lo + 2 ^ 40 * sat24 hi)
/-- The effect of an outcome (R301). -/
def outcomeEffect (code : Nat) (tfull : Bool) : Option Cause :=
  match code with
  | 16 => if tfull then some 0x74 else some 0x77
  | 17 => some 0x78
  | 18 => some 0x79
  | 20 => some 0x73
  | _ => none
/-- The samples of a furrow. -/
def Plot.samples (p : Plot) (kw : Word) : List Sample := ((p.furrows.find? fun f => f.kw == kw).map (·.samples)).getD []
/-- Changes a furrow's samples. -/
def Plot.setSamples (p : Plot) (kw : Word) (ss : List Sample) : Plot :=
  { p with furrows := ⟨kw, ss⟩ :: p.furrows.filter fun f => f.kw != kw }
/-- The data-arrival message of an answer (R300, R301), with the LM writes that come just before it. -/
def worldMsg (o : TseOp) (l : WLoad) (code : Nat) (tfull : Bool) (word : Word) (state : List Byte) : Msg :=
  let mark := if l.eff then (outcomeEffect code tfull).map fun c => (⟨c, BitVec.ofNat 64 l.dst, word⟩ : MarkedEffect) else none
  { src := 0x3FFD, seq := o.tag.seq, lid := o.tag.lid, cls := l.cls, tag := o.tag, acq := some .package,
    body := .data l.pc (BitVec.ofNat 64 code) (BitVec.ofNat 64 l.dst) l.a0 l.a1 l.a2 l.a3 l.htop o.tag.wid mark,
    pay := (if state.isEmpty then [] else [(l.dst + 8, state)]) ++ [(l.dst, leBytes 8 word.toNat)] }
/-- An answer sets out for its core; one to a DET launch, in a suspended image too (R56), waits for the start of its next phase, and counts
as received meanwhile (R52, R314). -/
def Plot.sendAnswer (p : Plot) (c : CoreId) (m : Msg) : Plot :=
  let keep (x : Launch) : Launch := if x.lid = m.lid ∧ x.det then { x with heldAnswers := x.heldAnswers ++ [(c, m)] } else x
  if ((p.launches ++ (p.image.map (·.launches)).getD []).any fun x => x.lid == m.lid && x.det) then
    { p with launches := p.launches.map keep, image := p.image.map fun i => { i with launches := i.launches.map keep } }
  else p.sendTo c m
/-- The message that answers a load (R299, R300): `code` 1 forms a value; 20 when its region is not registered. -/
def Plot.answerMsg (p : Plot) (o : TseOp) (l : WLoad) (code : Nat) (tfull : Bool) : Msg :=
  let ss := p.samples l.kw
  let refusal : Msg := match ss with
    | [] => worldMsg o l code tfull (outcomeWord code 0 true tfull {} 0 0) []
    | s0 :: _ => worldMsg o l code tfull
        (outcomeWord code 0 false tfull {} (l.t - s0.t) (l.t - (sampleAt ss (ss.length - 1)).t)) []
  if code = 20 then worldMsg o l 20 false 20 []
  else if code ≠ 1 then refusal
  else match p.region? (wRid l.kw) with
    | none => worldMsg o l 20 false 20 []
    | some r =>
      let f := r.value ss l.t
      worldMsg o l f.code false (outcomeWord f.code f.ord false false f.fl (l.t - f.lo) (l.t - f.hi)) f.state
/-- A waiting operation of plot pid has ended: the plot on which its launch has been resumed knows it (R57). -/
def State.noMore (s : State) (pid : Nat) (o : TseOp) : State :=
  s.modPlot (o.home.getD pid) fun q => { q with away := q.away.filter fun x => x.tag != o.tag }
/-- A load is answered from plot pid's world store, on the plot on which its launch has been resumed (R57). -/
def State.answer (s : State) (pid : Nat) (o : TseOp) (l : WLoad) (code : Nat) (tfull : Bool := false) : State :=
  match s.plot? pid with
  | none => s
  | some p => (s.noMore pid o).modPlot (o.home.getD pid) fun q => q.sendAnswer o.tag.cid (p.answerMsg o l code tfull)

/-! The wait table (R298). -/

/-- A waiter is a load of a key. -/
def Waiter.loadOf (w : Waiter) (kw : Word) : Option WLoad :=
  match w.op.act with
  | .ld l => if l.kw = kw then some l else none
  | _ => none
/-- A waiter is a store of a key. -/
def Waiter.storeOf (w : Waiter) : Option Word :=
  match w.op.act with
  | .st kw _ _ _ => some kw
  | _ => none
/-- The entries that a plot holds in the wait table of a TSE: its loads, and the first store of each key. -/
def Plot.waitUsed (p : Plot) (tse : Nat) : Nat :=
  let ws := p.waiters.filter fun w => w.op.tse == tse
  (ws.filter fun w => w.storeOf.isNone).length + ((ws.filterMap (·.storeOf)).eraseDups).length
/-- The deadline of a waiter that arrived at a time (R298, R314). -/
def deadlineOf (r : Region) (o : TseOp) (arrived dl : Nat) : Option Nat :=
  let d := if dl ≠ 0 then dl else r.dl
  if o.det ∨ d = 0 then none else some (arrived + d)
/-- The deadline of a waiter has come. -/
def Waiter.due (w : Waiter) (now : Nat) : Bool := (w.deadline.map fun d => decide (d ≤ now)).getD false
/-- The plot that a waiting operation of a plot answers to (R57). -/
def Waiter.homeOf (w : Waiter) (pid : Nat) : Nat := w.op.home.getD pid
/-- A waiter is a load. -/
def Waiter.isLoad (w : Waiter) : Bool := match w.op.act with
  | .ld _ => true
  | _ => false
/-- A load that waits at plot pid has expired while its launch is suspended: it is answered at resume, and by nothing before it (R56). -/
def State.overdue (s : State) (pid : Nat) (w : Waiter) : Bool :=
  w.isLoad && w.due s.dev.time && ((s.plot? (w.homeOf pid)).map fun q => decide (q.susp = .taken)).getD false
/-- The loads that an append releases, in arrival order (R297, R298). -/
def State.release (s : State) (pid : Nat) (r : Region) (kw : Word) : State :=
  match s.plot? pid with
  | none => s
  | some p =>
    let ss := p.samples kw
    let out (w : Waiter) : Bool := match w.loadOf kw with
      | some l => (judge r ss l).isSome && !s.overdue pid w
      | none => false
    let s := s.modPlot pid fun p => { p with waiters := p.waiters.filter fun w => !out w }
    (p.waiters.filter out).foldl (fun (s : State) w => match w.loadOf kw with
      | some l => s.answer pid w.op l ((judge r ss l).getD 1)
      | none => s) s

/-! Stores (R288, R293, R294). -/

/-- What becomes of the first store of a key. -/
inductive Fate where
  | append (prune : Bool)
  | discard (c : Cause)
  | waits
  deriving DecidableEq, Repr
/-- The pruning span (R288). -/
def Region.span (r : Region) : Nat := if r.io = 2 then 2 else 1
/-- The least floor at a TSE (R287). -/
def Plot.fmin (p : Plot) (r : Region) (tse : Nat) : Int :=
  match (p.floors.find? fun f => f.rid == r.rid && f.tse == tse).map (·.fs) with
  | some (x :: xs) => xs.foldl min x
  | _ => r.floor0
/-- The rows of R293 from the third on; `held` when the store already holds an entry of the wait table. Stores of the key behind
it hold none. -/
def Plot.fate (p : Plot) (r : Region) (tse : Nat) (kw : Word) (t : Int) (wt held : Bool) : Fate :=
  let ss := p.samples kw
  let n := ss.length
  if n ≠ 0 ∧ t ≤ (sampleAt ss (n - 1)).t then .discard 0x70
  else if n < r.depth then .append false
  else if (sampleAt ss r.span).t ≤ p.fmin r tse then .append true
  else if !wt then .discard 0x71
  else if !held ∧ ({ p with waiters := p.waiters.filter fun w => w.storeOf != some kw } : Plot).waitUsed tse ≥ p.wshare then
    .discard 0x74
  else .waits
/-- A discarded store is reported (R294). -/
def State.dropStore (s : State) (pid : Nat) (o : TseOp) (cause : Cause) : State :=
  match o.act with
  | .st kw t _ _ => (s.noMore pid o).postTag (o.home.getD pid) o.tag cause kw (if cause = 0x72 then 0 else BitVec.ofInt 64 t)
  | _ => s
/-- A store that is first of its key meets its fate; whether it left. -/
def State.examine (s : State) (pid : Nat) (r : Region) (o : TseOp) (held : Bool) : State × Bool :=
  match s.plot? pid, o.act with
  | some p, .st kw t data wt =>
    match p.fate r o.tse kw t wt held with
    | .append prune =>
      let ss := p.samples kw
      (((s.noMore pid o).modPlot pid fun p => p.setSamples kw ((if prune then ss.drop 1 else ss) ++ [⟨t, data⟩])).release pid r kw, true)
    | .discard c => (s.dropStore pid o c, true)
    | .waits => (s, false)
  | _, _ => (s, true)
/-- The place of the first waiting store of a key. -/
def Plot.firstStore (p : Plot) (kw : Word) : Option Nat := p.waiters.findIdx? fun w => w.storeOf == some kw
/-- The waiting stores of a key are examined again, in arrival order, until one must go on waiting (R293). `held` tells whether
the first holds an entry. -/
def drainKey (s : State) (pid : Nat) (r : Region) (kw : Word) (held : Bool) : Nat → State
  | 0 => s
  | fuel + 1 =>
    match (s.plot? pid).bind fun p => (p.firstStore kw).bind fun i => (p.waiters[i]?).map fun w => (i, w) with
    | none => s
    | some (i, w) =>
      -- a store that does not hold an entry is not counted while it is examined
      let s0 := if held then s else s.modPlot pid fun p => { p with waiters := p.waiters.eraseIdx i }
      match s0.examine pid r w.op held with
      | (_, false) => s
      | (s1, true) =>
        let s2 := if held then s1.modPlot pid fun p => match p.firstStore kw with
            | some k => { p with waiters := p.waiters.eraseIdx k }
            | none => p
          else s1
        drainKey s2 pid r kw false fuel
/-- The region that TSE n holds (R285, R310, R311). -/
def Plot.regionAt (p : Plot) (rid n : Nat) : Option Region := p.regions.find? fun r => r.rid == rid && r.at_.contains n
/-- A store arrives (R293). -/
def State.storeArrives (s : State) (pid : Nat) (o : TseOp) : State :=
  match s.plot? pid, o.act with
  | some p, .st kw _ _ _ =>
    let p := p.spendFor o.tag 500
    match p.regionAt (wRid kw) o.tse with
    | none => (s.modPlot pid fun _ => p).dropStore pid o 0x72
    | some r =>
      let w : Waiter := ⟨o, s.dev.time, deadlineOf r o s.dev.time 0⟩
      let s := s.modPlot pid fun _ => p
      if (p.firstStore kw).isSome then s.modPlot pid fun p => { p with waiters := p.waiters ++ [w] }
      else match s.examine pid r o false with
        | (s1, true) => s1
        | (_, false) => s.modPlot pid fun p => { p with waiters := p.waiters ++ [w] }
  | _, _ => s
/-- A load arrives (R297). -/
def State.loadArrives (s : State) (pid : Nat) (o : TseOp) : State :=
  match s.plot? pid, o.act with
  | some p, .ld l =>
    let p := p.spendFor o.tag (500 + 300 * (((p.region? (wRid l.kw)).map fun r => (r.size + 71) / 64).getD 0))
    let s := s.modPlot pid fun _ => p
    match p.regionAt (wRid l.kw) o.tse with
    | none => s.answer pid o l 20
    | some r =>
      match judge r (p.samples l.kw) l with
      | some code => s.answer pid o l code
      | none =>
        if p.waitUsed o.tse ≥ p.wshare then s.answer pid o l 16 true
        else s.modPlot pid fun p => { p with waiters := p.waiters ++ [⟨o, s.dev.time, deadlineOf r o s.dev.time l.dl⟩] }
  | _, _ => s
/-- A request to a TSE counts its energy (R47). -/
def State.asked (s : State) (pid : Nat) (t : Tag) : State := s.modPlot pid fun p => p.spendFor t 500
/-- A cancel arrives (R309). -/
def State.cancelArrives (s : State) (pid : Nat) (o : TseOp) : State :=
  let s := s.asked pid o.tag
  match o.act with
  | .cancel kw id =>
    match s.plot? pid with
    | none => s
    | some p =>
      match p.waiters.findIdx? fun w => (w.loadOf kw).isSome && w.op.tag.ident == id && !s.overdue pid w with
      | none => s
      | some i => match (p.waiters[i]?).bind fun w => (w.loadOf kw).map fun l => (w, l) with
        | none => s
        | some (w, l) => (s.modPlot pid fun p => { p with waiters := p.waiters.eraseIdx i }).answer pid w.op l 19
  | _ => s

/-! Floors (R307). -/

/-- Changes a region's floors at a TSE; number 16 is the master's. -/
def Plot.modFloors (p : Plot) (rid tse : Nat) (f : List Int → List Int) : Plot :=
  { p with floors := p.floors.map fun x => if x.rid = rid ∧ x.tse = tse then { x with fs := f x.fs } else x }
/-- A floor is applied at a TSE, and the region's waiting stores there are examined again in arrival order (R293, R307). -/
def State.floorAt (s : State) (pid tse rid g : Nat) (t : Int) : State :=
  match (s.plot? pid).bind fun p => p.regionAt rid tse with
  | none => s
  | some r =>
    let s := s.modPlot pid fun p => p.modFloors rid tse fun fs => fs.modify g fun x => max x t
    match s.plot? pid with
    | none => s
    | some p =>
      let keys := (p.waiters.filterMap fun w => if w.op.tse = tse then w.storeOf.bind fun k => if wRid k = rid then some k else none else none).eraseDups
      keys.foldl (fun s k => drainKey s pid r k true (p.waiters.length + 1)) s
/-- The floor master takes a request (R307): the failure, or the floors to send. -/
def State.floorMaster (s : State) (pid : Nat) (g : Word) (t : Int) : State × Option Bad :=
  match (s.plot? pid).bind fun p => (p.regionAt (wRid g) (wRid g % 16)).map fun r => (p, r) with
  | none => (s, some (0x72, BitVec.ofNat 64 (wRid g), 0))
  | some (p, r) =>
    let now : Int := (((p.floors.find? fun f => f.rid == r.rid && f.tse == 16).bind fun f => f.fs[fld g 5 0]?)).getD r.floor0
    if fld g 31 6 ≠ 0 ∨ fld g 63 44 ≠ 0 ∨ fld g 5 0 > r.ng then (s, some (0x7A, g, 0))
    else if t < now then (s, some (0x76, g, BitVec.ofInt 64 now))
    else (s.modPlot pid fun p => p.modFloors r.rid 16 fun fs => fs.modify (fld g 5 0) fun _ => t, none)

/-! The events. -/

/-- An operation of a core is the first of that core in flight to its TSE; floors that the master sends are in order too (R312). -/
def Plot.tseFirst (p : Plot) (j : Nat) (o : TseOp) : Bool :=
  let sent (x : TseOp) : Bool := match x.act with
    | .floorAt _ _ _ => true
    | _ => false
  !((p.tseq.take j).any fun x => x.tse == o.tse && (if sent o then sent x else !sent x && x.tag.cid == o.tag.cid))
/-- An event on the operation `j` in flight, when it is one of a kind and first. -/
def onTse (s : State) (kind : TseAct → Bool) (k : State → Plot → TseOp → State) : Out :=
  match (s.plot? s.ev.p).bind fun p => (p.tseq[s.ev.j]?).map fun o => (p, o) with
  | none => .next s
  | some (p, o) => .next (if kind o.act && p.tseFirst s.ev.j o then k s p o else s)
/-- The operation leaves the path. -/
def State.tookTse (s : State) : State := s.modPlot s.ev.p fun p => { p with tseq := p.tseq.eraseIdx s.ev.j }
/-- Changes the operation in flight. -/
def State.modTse (s : State) (f : TseOp → TseOp) : State := s.modPlot s.ev.p fun p => { p with tseq := p.tseq.modify s.ev.j f }

/-- WORLD_STORE_ARRIVE (R293). -/
def execWorldStoreArrive (s : State) : Out :=
  onTse s (fun | .st _ _ _ _ => true | _ => false) fun s _ o => s.tookTse.storeArrives s.ev.p o
/-- WORLD_LOAD_ARRIVE (R297). -/
def execWorldLoadArrive (s : State) : Out :=
  onTse s (fun | .ld _ => true | _ => false) fun s _ o => s.tookTse.loadArrives s.ev.p o
/-- WCANCEL_ARRIVE (R309). -/
def execWcancelArrive (s : State) : Out :=
  onTse s (fun | .cancel _ _ => true | _ => false) fun s _ o => s.tookTse.cancelArrives s.ev.p o
/-- WPROBE_ARRIVE (R308). -/
def execWprobeArrive (s : State) : Out :=
  onTse s (fun | .probe _ => true | _ => false) fun s p o =>
    match o.act with
    | .probe kw =>
      let s := s.tookTse.asked s.ev.p o.tag
      if (p.regionAt (wRid kw) o.tse).isNone then s.fail s.ev.p o.tag 0x72 kw 0
      else match p.samples kw with
        | [] => s.reply s.ev.p o.tag [0x8000000000000000, 0x7FFFFFFFFFFFFFFF]
        | s0 :: rest => s.reply s.ev.p o.tag [BitVec.ofInt 64 (sampleAt (s0 :: rest) rest.length).t, BitVec.ofInt 64 s0.t]
    | _ => s
/-- FLOOR_MASTER_ARRIVE (R307). -/
def execFloorMasterArrive (s : State) : Out :=
  onTse s (fun | .floor _ _ => true | _ => false) fun s _ o =>
    match o.act with
    | .floor g t =>
      let s := s.tookTse.asked s.ev.p o.tag
      match s.floorMaster s.ev.p g t with
      | (s, some (cause, a, i)) => s.fail s.ev.p o.tag cause a i
      | (s, none) => s.modPlot s.ev.p fun p =>
          { p with tseq := p.tseq ++ (List.range 16).map fun n => { o with tse := n, act := .floorAt (wRid g) (fld g 5 0) t } }
    | _ => s
/-- FLOOR_APPLY (R307): the stint goes on when every TSE has applied the floor. -/
def execFloorApply (s : State) : Out :=
  onTse s (fun | .floorAt _ _ _ => true | _ => false) fun s _ o =>
    match o.act with
    | .floorAt rid g t =>
      let s := s.tookTse.floorAt s.ev.p o.tse rid g t
      let left := ((s.plot? s.ev.p).map fun p => p.tseq.any fun x => x.tag == o.tag).getD true
      if left then s else s.reply s.ev.p o.tag []
    | _ => s
/-- Waiter j ends at its deadline (R298): a load is answered TIMEOUT; a store, which waits for its turn first, is discarded. -/
def State.expire (s : State) (pid j : Nat) : State :=
  match (s.plot? pid).bind fun p => (p.waiters[j]?).map fun w => (p, w) with
  | none => s
  | some (p, w) =>
    match w.op.act with
    | .ld l => (s.modPlot pid fun p => { p with waiters := p.waiters.eraseIdx j }).answer pid w.op l 18
    | .st kw _ _ _ =>
      if p.firstStore kw ≠ some j then s
      else
        let s := (s.modPlot pid fun p => { p with waiters := p.waiters.eraseIdx j }).dropStore pid w.op 0x71
        match p.regionAt (wRid kw) w.op.tse with
        | some r => drainKey s pid r kw false (p.waiters.length + 1)
        | none => s
    | _ => s
/-- WAIT_DEADLINE (R298): waiter `j` of plot `p`. That of a suspended plot's load comes at resume (R56). -/
def execWaitDeadline (s : State) : Out :=
  match (s.plot? s.ev.p).bind fun p => (p.waiters[s.ev.j]?).map fun w => (p, w) with
  | none => .next s
  | some (p, w) =>
    .next (if !w.due s.dev.time ∨ s.overdue p.pid w then s else s.expire s.ev.p s.ev.j)
/-- The loads of a plot's launches that wait at plot pid, and whose deadline came while that plot was suspended, are answered (R56). -/
def expireLoads (s : State) (home pid : Nat) : Nat → State
  | 0 => s
  | fuel + 1 =>
    let j := (s.plot? pid).bind fun p => p.waiters.findIdx? fun w => w.due s.dev.time && w.homeOf pid == home && w.isLoad
    match j with
    | none => s
    | some j => expireLoads (s.expire pid j) home pid fuel
/-- The same at every plot. -/
def State.expireFor (s : State) (home : Nat) : State :=
  s.plots.foldl (fun (s : State) p => expireLoads s home p.pid (p.waiters.length + 1)) s
/-- The plot's world-store pool in use (R284). -/
def Plot.poolUsed (p : Plot) : Nat := (p.regions.map (·.charge)).sum
/-- REGION_REGISTER_APPLY (R284, R285, R310): request `j` is entered at TSE `n`, or at the tile routers when `n` is 16; the first
step also refuses it. -/
def execRegionRegisterApply (s : State) : Out :=
  onTse s (fun | .reg _ => true | _ => false) fun s p o =>
    match o.act with
    | .reg r =>
      let n := s.ev.n
      let entered := r.routed || !r.at_.isEmpty
      if !entered ∧ (p.region? r.rid).isSome then s.tookTse.fail s.ev.p o.tag 0x72 (BitVec.ofNat 64 r.rid) 0
      else if !entered ∧ p.poolUsed + r.charge > p.pool then
        s.tookTse.fail s.ev.p o.tag 0x75 (BitVec.ofNat 64 r.rid) (BitVec.ofNat 64 r.charge)
      else if n > 16 ∨ (n = 16 ∧ r.routed) ∨ r.at_.contains n then s
      else
        let r' := if n = 16 then { r with routed := true } else { r with at_ := n :: r.at_ }
        let fs := List.replicate (r.ng + 1) r.floor0
        let s := (s.modTse fun o => { o with act := .reg r' }).modPlot s.ev.p fun p =>
          { p with regions := r' :: p.regions.filter fun x => x.rid != r.rid,
                   floors := (if entered then [] else [⟨r.rid, 16, fs⟩]) ++ (if n < 16 then [⟨r.rid, n, fs⟩] else []) ++ p.floors }
        if r'.routed ∧ r'.at_.length = 16 then s.tookTse.reply s.ev.p o.tag [BitVec.ofNat 64 r.charge] else s
    | _ => s
/-- What a freed region leaves at one TSE (R311). -/
def State.freeAt (s : State) (pid n rid : Nat) : State :=
  match s.plot? pid with
  | none => s
  | some p =>
    let mine (w : Waiter) : Bool := w.op.tse == n && !s.overdue pid w && (match w.op.act with
      | .ld l => wRid l.kw == rid
      | .st kw _ _ _ => wRid kw == rid
      | _ => false)
    let s := s.modPlot pid fun p => { p with waiters := p.waiters.filter fun w => !mine w }
    let s := (p.waiters.filter mine).foldl (fun s w => match w.op.act with
      | .ld l => s.answer pid w.op l 20
      | _ => s.dropStore pid w.op 0x72) s
    s.modPlot pid fun p =>
      { p with furrows := p.furrows.filter fun f => !(wRid f.kw == rid && wHome f.kw == n),
               floors := p.floors.filter fun f => !(f.rid == rid && f.tse == n),
               regions := p.regions.map fun r => if r.rid = rid then { r with at_ := r.at_.filter fun x => x != n } else r }
/-- REGION_FREE_APPLY (R311): request `j`: the routers first, when `n` is 16; then TSE `n`. -/
def execRegionFreeApply (s : State) : Out :=
  onTse s (fun | .free _ => true | _ => false) fun s p o =>
    match o.act with
    | .free rid =>
      match p.region? rid with
      | none => s.tookTse.fail s.ev.p o.tag 0x72 (BitVec.ofNat 64 rid) 0
      | some r =>
        let n := s.ev.n
        -- `returns` falls when this request has taken the region from the routers
        if o.returns then
          if !r.routed then s.tookTse.fail s.ev.p o.tag 0x72 (BitVec.ofNat 64 rid) 0
          else if r.at_.length < 16 then s
          else (s.modTse fun o => { o with returns := false }).modPlot s.ev.p fun p =>
            { p with regions := p.regions.map fun x => if x.rid = rid then { x with routed := false } else x }
        else if !r.at_.contains n then s
        else
          let s := s.freeAt s.ev.p n rid
          if r.at_.length > 1 then s
          else
            let s := s.tookTse.modPlot s.ev.p fun p =>
              { p with regions := p.regions.filter fun x => x.rid != rid, floors := p.floors.filter fun f => f.rid != rid }
            s.reply s.ev.p o.tag [BitVec.ofNat 64 r.charge]
    | _ => s

end Sys2Proof.Machine
end

