-- ==== Sys2Proof/Machine/Claim.lean ====
section
/-! DEFINITION. Major 0x27, claims at a core (R317 to R331, R336 to R339), and what the CLUs share: groups, tickets, replicas,
plane messages and outcomes. -/
namespace Sys2Proof.Machine

/-! Operands (R324, R325). -/

/-- GROUP of a claim operand. -/
def gwGroup (w : Word) : Nat := fld w 15 8
/-- WORD of a claim operand. -/
def gwWord (w : Word) : Nat := fld w 7 0
/-- A reserved bit of a claim operand is set; `ld` when E and OFF must be zero too (R324, R326). -/
def gwBad (w : Word) (ld : Bool) : Bool := w.getLsbD 17 || fld w 63 33 != 0 || (ld && (w.getLsbD 16 || fld w 32 18 != 0))
/-- MEMBER of a ticket. -/
def tkMember (t : Word) : Nat := fld t 11 0
/-- GROUP of a ticket. -/
def tkGroup (t : Word) : Nat := fld t 19 12
/-- WORD of a ticket. -/
def tkWord (t : Word) : Nat := fld t 27 20
/-- SEQ of a ticket. -/
def tkSeq (t : Word) : BitVec 32 := BitVec.ofNat 32 (fld t 59 28)
/-- A ticket (R325). -/
def ticketOf (member gid word : Nat) (seq : BitVec 32) : Word :=
  BitVec.ofNat 64 (member + 2 ^ 12 * gid + 2 ^ 20 * word + 2 ^ 28 * seq.toNat)
/-- Serial order of SEQ (R325). -/
def seqLess (a b : BitVec 32) : Bool :=
  let d := (b - a).toNat
  if d = 2 ^ 31 then decide (a.toNat < b.toNat) else decide (0 < d ∧ d < 2 ^ 31)
/-- T0 of a claim, read as a signed 64-bit value (R325). -/
def t0Of (t : Nat) : Int := (BitVec.ofNat 64 t).toInt
/-- The key of one claim is smaller than that of another: T0, MEMBER, SEQ (R325). -/
def keyLess (t0 : Nat) (a : Word) (t1 : Nat) (b : Word) : Bool :=
  decide (t0Of t0 < t0Of t1) || (decide (t0Of t0 = t0Of t1) && (decide (tkMember a < tkMember b)
    || (decide (tkMember a = tkMember b) && seqLess (tkSeq a) (tkSeq b))))

/-! Groups and replicas (R320 to R322). -/

/-- The declared group of an id. -/
def Plot.group? (p : Plot) (gid : Nat) : Option Group := p.groups.find? fun g => g.gid == gid
/-- Changes a group. -/
def Plot.modGroup (p : Plot) (gid : Nat) (f : Group → Group) : Plot :=
  { p with groups := p.groups.map fun g => if g.gid = gid then f g else g }
/-- The members of a group now. -/
def Group.live (g : Group) : List Member := g.members.filter fun m => !m.left
/-- The members on this device now. -/
def Group.here (g : Group) : List Member := g.live.filter fun m => m.dev.isNone
/-- The core's own membership. -/
def Group.mine (g : Group) (c : CoreId) : Option Member := g.here.find? fun m => m.cid == c
/-- Changes the members that a test picks. -/
def Group.modMembers (g : Group) (pick : Member → Bool) (f : Member → Member) : Group :=
  { g with members := g.members.map fun m => if pick m then f m else m }
/-- The number of a CLU of another device. -/
def farClu (d t : Nat) : Nat := 2 ^ 16 * (d + 1) + t
/-- The CLU that serves a member (R317). -/
def Member.clu (m : Member) : Nat :=
  match m.dev with
  | none => tileOf m.cid
  | some d => farClu d (tileOf m.cid)
/-- The CLUs that serve a member. -/
def Group.tiles (g : Group) : List Nat := (g.live.map Member.clu).eraseDups
/-- The CLUs that a group event goes to: those that serve a member, and the first one of every device that the plot's job has, which knows the
group by its declaration (R367, log 46). -/
def Plot.hearers (p : Plot) (d : Device) (g : Group) : List Nat :=
  (g.tiles ++ (d.peers.filter fun x => x.job == p.job).map fun x => farClu x.dev 0).eraseDups
/-- A member lies where the group does not reach (R318, R367): on another device, and the group lies in one package, or the path there
crosses more switch tiers than the group allows. -/
def Group.beyond (g : Group) (d : Device) (m : Member) : Bool :=
  match m.dev with
  | none => false
  | some n => !g.span || (d.peers.any fun x => x.dev == n && decide (x.tiers > g.tiers))
/-- A CLU learns of a group event (R317). -/
def Replica.learn (r : Replica) (e : Roll) : Replica := { r with roll := e :: r.roll }
/-- Every member index has joined at least once, as a CLU knows it (R322). -/
def Replica.complete (r : Replica) (g : Group) : Bool := (List.range g.size).all fun i => r.roll.any fun e => e.idx == i && e.kind == .join
/-- The last event of a member, by the stamps up to h; of equal stamps, the one heard last. -/
def Replica.lastAt (r : Replica) (h i : Nat) : Option Roll :=
  r.roll.reverse.foldl (fun (b : Option Roll) e =>
    if e.idx = i ∧ e.stamp ≤ h ∧ (b.map fun x => decide (x.stamp ≤ e.stamp)).getD true then some e else b) none
/-- The members that are in the group by the events with stamps up to h (R322, R333). -/
def Replica.liveAt (r : Replica) (h : Nat) : List Nat :=
  (r.roll.map (·.idx)).eraseDups.filter fun i => ((r.lastAt h i).map fun e => e.kind == .join).getD false
/-- The members marked absent for a claim that considers stamps up to h: a removal that comes after the mark, by such a stamp, has taken the
mark away (R334, R367). -/
def Replica.markedAt (r : Replica) (h : Nat) : List Nat :=
  (r.marks.filter fun x => !r.roll.any fun e => e.idx == x.1 && e.kind == .remove && decide (x.2 < e.stamp ∧ e.stamp ≤ h)).map (·.1)
/-- The members marked absent as the CLU now knows (R338). -/
def Replica.marked (r : Replica) : List Nat :=
  (r.marks.filter fun x => !r.roll.any fun e => e.idx == x.1 && e.kind == .remove && decide (x.2 < e.stamp)).map (·.1)
/-- The events of a group whose stamps are known no more, as its members show them: every one has joined, some have left. -/
def Group.history (g : Group) : List Roll := (g.members.filter (·.left)).map (⟨·.idx, 0, .leave⟩) ++ g.members.map (⟨·.idx, 0, .join⟩)
/-- A tile's replica of a group. -/
def Plot.replica? (p : Plot) (t gid : Nat) : Option Replica := (p.tiles[t]?).bind fun x => x.clu.find? fun r => r.gid == gid
/-- Changes a tile's replica of a group. -/
def Plot.modReplica (p : Plot) (t gid : Nat) (f : Replica → Replica) : Plot :=
  p.modTile t fun x => { x with clu := x.clu.map fun r => if r.gid = gid then f r else r }
/-- The value and version of a word. -/
def Replica.word (r : Replica) (w : Nat) : Word × BitVec 32 := ((r.vals.find? fun x => x.1 == w).map (·.2)).getD (0, 0)
/-- A claim that a CLU knows as announced and has not decided. -/
def Replica.pending (r : Replica) (t : Word) : Option Pend := r.pend.find? fun x => x.ticket == t

/-- The check of R327 on a group that an operand names: its group and the own membership. -/
def claimGroup (p : Plot) (c : Core) (gid : Nat) (operand : Word) (det : Bool) : Except Bad (Group × Member) :=
  match (p.group? gid).bind fun g => (g.mine c.cid).map fun m => (g, m) with
  | none => .error (0x81, 0, operand)
  | some x => if det && c.det then .error (0x87, 0, 0) else .ok x
/-- The claims of a core in a group that are buffered or pending (R328, R329). -/
def claimsOpen (p : Plot) (c : Core) (gid : Nat) : Nat :=
  ((c.ob ++ c.ct).filter fun e => match e.body with
    | .claim q => tkGroup q.ticket == gid
    | _ => false).length + (p.claims.filter fun q => q.tag.cid == c.cid && tkGroup q.ticket == gid).length

/-- `clm.st` (R328). -/
def execClmSt (h : BitVec 10) (b a d : Reg) (s : State) : Out :=
  onCore s fun p c =>
    let gw := c.r d
    if gwBad gw false then trap s 0x01 0 (wordHere s p c)
    else match claimGroup p c (gwGroup gw) gw true with
      | .error (cause, x, i) => trap s cause x i
      | .ok (g, m) => match handlerPc p c h with
        | .error (cause, x, i) => trap s cause x i
        | .ok pc =>
          let dst := 8 * fld gw 32 18
          if dst + 16 > 0x38000 then trap s 0x21 (BitVec.ofNat 64 dst) 16
          else if claimsOpen p c g.gid ≥ 4 then trap s 0x83 0 gw
          else
            -- the ticket is written first; the value and the argument words are read after it
            let c' := c.setG b (ticketOf m.idx g.gid (gwWord gw) m.count)
            let q : Claim :=
              { tag := c.tag, ticket := ticketOf m.idx g.gid (gwWord gw) m.count, value := c'.r a, dst := dst, eff := gw.getLsbD 16,
                pc := pc, a0 := c'.r 8, a1 := c'.r 9, a2 := c'.r 10, a3 := c'.r 11, htop := c.htop, cls := c.sendCls }
            if c.noPlace 1 then put s (if c.ob.isEmpty then c.stall else c.commit.stall)
            else
              .next ((s.modMine fun p => p.modGroup g.gid fun g =>
                g.modMembers (fun x => x.idx == m.idx && !x.left) fun x => { x with count := x.count + 1 }).modMe fun _ =>
                  (((c.enter (.claim q) none 1).setG b q.ticket).bumpSeq).retire 4 1)

/-- A commit point and a round trip to the tile's CLU (R336 to R338): the check at issue, then the act, one step later. -/
def cluTrip (s : State) (check : Plot → Core → Except Bad (Group × Member)) (act : Plot → Core → Group → Member → Out) : Out :=
  onCore s fun p c =>
    match check p c with
    | .error (cause, x, i) => trap s cause x i
    | .ok (g, m) => match c.wait with
      | .begun => act p c g m
      | _ => put s { c.commit.stall with wait := .begun }
/-- The check of a ticket operand (R327). -/
def ticketCheck (p : Plot) (c : Core) (t : Word) : Except Bad (Group × Member) :=
  if fld t 63 60 ≠ 0 then .error (0x85, 0, t) else claimGroup p c (tkGroup t) t true

/-- The plane time of a tile's CLU. -/
def Plot.clock (p : Plot) (d : Device) (t : Nat) : Nat := d.time + ((p.tiles[t]?).map (·.skew)).getD 0
/-- A plane message goes from a tile's CLU to others (R317), but not over a failed path (R341), and not at all for a group of several
devices while the device's CLUs are silent (R389). -/
def Plot.tell (p : Plot) (d : Device) (t : Nat) (dsts : List Nat) (g : Group) (stamp : Nat) (act : PlaneAct) (seq : BitVec 32) : Plot :=
  if d.syncLost && g.span then p
  else
    { p with plane := p.plane ++
        ((dsts.filter fun x => x != t && !p.cut.contains (t, x)).map fun x => ⟨t, x, g.gid, stamp, act, seq, false⟩) }
/-- A plane message goes to every other CLU that serves the group. -/
def State.speak (s : State) (pid t : Nat) (g : Group) (stamp : Nat) (act : PlaneAct) (seq : BitVec 32) : State :=
  s.modPlot pid fun p => p.tell s.dev t g.tiles g stamp act seq
/-- What a CLU hears: the stamp that speaks for a member (R334). -/
def Replica.hear (r : Replica) (m stamp : Nat) : Replica := { r with heard := (m, stamp) :: r.heard }
/-- An objection joins the set of its claim (R331), or waits for the announcement, when another CLU's path brings it first. -/
def Replica.object (r : Replica) (t : Word) (m stamp : Nat) : Replica :=
  if (r.pending t).isNone then { r.hear m stamp with early := r.early ++ [(t, m, stamp)] }
  else { r.hear m stamp with pend := r.pend.map fun x =>
      if x.ticket = t then { x with objs := if x.objs.any fun o => o.1 == m then x.objs else x.objs ++ [(m, stamp)] } else x }

/-- `clm.obj` (R24, R331): the objection enters OB, which commits, and the stint waits for the answer of its CLU. -/
def execClmObj (a : Reg) (s : State) : Out :=
  onCore s fun p c =>
    match c.wait with
    | .got _ => put s (c.retire 4 1)
    | .failed cause x i => trap s cause x i
    | .reply => put s c.stall
    | _ => match ticketCheck p c (c.r a) with
      | .error (cause, x, i) => trap s cause x i
      | .ok (g, m) => put s { (c.enterRet (.objection (c.r a) g.gid m.idx)).stall with wait := .reply }
/-- An objection reaches its tile's CLU (R331), which takes it and tells the others, or refuses it; the stint hears which. -/
def State.takeObjection (s : State) (pid : Nat) (tag : Tag) (t : Word) (gid m : Nat) : State :=
  let tile := tileOf tag.cid
  match (s.plot? pid).bind fun p => (p.group? gid).bind fun g => (p.replica? tile gid).map fun r => (p, g, r) with
  | none => s.fail pid tag 0x85 0 t
  | some (p, g, r) => match r.pending t with
    | some x =>
      let now := planeTime s p tile
      if now > x.t0 + g.w - g.skew then s.fail pid tag 0x80 0 t
      else
        ((s.modPlot pid fun p => (p.modReplica tile gid fun r => r.object t m now).spendFor tag 1000).speak pid tile g now
          (.object t m) 0).reply pid tag []
    | none => s.fail pid tag (if r.decided.any fun x => x.ticket == t then 0x80 else 0x85) 0 t
/-- `clm.ld` (R336). -/
def execClmLd (a d : Reg) (s : State) : Out :=
  cluTrip s (fun p c => if gwBad (c.r a) true then .error (0x01, 0, wordHere s p c) else claimGroup p c (gwGroup (c.r a)) (c.r a) true)
    fun p c g _ =>
      let (v, n) := ((p.replica? (tileOf c.cid) g.gid).map fun r => r.word (gwWord (c.r a))).getD (0, 0)
      put s ((((c.setG d v).setG (d + 1) (n.setWidth 64)).acquire .system).retire 4 1)
/-- `clm.res` (R337). -/
def execClmRes (a d : Reg) (s : State) : Out :=
  cluTrip s (fun p c => ticketCheck p c (c.r a)) fun p c g _ =>
    let t := c.r a
    let r := p.replica? (tileOf c.cid) g.gid
    match r.bind fun r => (r.decided.take 1024).find? fun x => x.ticket == t with
    | some x => put s (((c.setG d x.word0).acquire .system).retire 4 1)
    | none => put s ((c.setG d (if ((r.bind fun r => r.pending t).isSome) then 0xFF else 0xFE)).retire 4 1)
/-- `clm.grp` (R338). -/
def execClmGrp (a d : Reg) (s : State) : Out :=
  cluTrip s (fun p c => claimGroup p c (fld (c.r a) 7 0) (c.r a) false) fun p c g m =>
    let abs := ((p.replica? (tileOf c.cid) g.gid).map fun r => r.marked.length).getD 0
    put s ((c.setG d (BitVec.ofNat 64 (m.idx + 2 ^ 12 * g.size + 2 ^ 25 * abs + 2 ^ 38 * boolNat g.notice.isSome))).retire 4 1)

/-! Outcomes (R335). -/

/-- A replica whose values have not come yet takes those of a live member's CLU (R340); what it has heard itself meanwhile stays. -/
def Replica.merge (r v : Replica) : Replica :=
  if r.synced then r
  else
    let base : Replica := { v with
      gid := r.gid, synced := true, heard := r.heard ++ v.heard, roll := r.roll ++ v.roll.filter fun e => !r.roll.contains e,
      pend := v.pend ++ r.pend.filter fun x => (v.pending x.ticket).isNone }
    (r.early ++ r.pend.flatMap fun x => x.objs.map fun o => (x.ticket, o.1, o.2)).foldl (fun (y : Replica) o => y.object o.1 o.2.1 o.2.2) base

/-- The outcome message of a claim. -/
def claimMsg (q : Claim) (code : Nat) (word0 t0 : Word) : Msg :=
  { src := 0x3FFC, seq := q.tag.seq, lid := q.tag.lid, cls := q.cls, tag := q.tag, acq := some .system,
    body := .data q.pc (BitVec.ofNat 64 code) (BitVec.ofNat 64 q.dst) q.a0 q.a1 q.a2 q.a3 q.htop q.tag.wid
      (if q.eff ∧ code = 2 then some ⟨0x86, BitVec.ofNat 64 q.dst, word0⟩ else none),
    pay := [(q.dst + 8, leBytes 8 t0.toNat), (q.dst, leBytes 8 word0.toNat)] }
/-- The outcome of a claim sets out for its claimant. -/
def Plot.outcome (p : Plot) (q : Claim) (word0 : Word) : Plot :=
  let claims := p.claims.map fun (x : Claim) => if x.tag = q.tag then { x with done := true } else x
  { p with claims := claims }.sendTo q.tag.cid (claimMsg q (fld word0 7 0) word0 (BitVec.ofNat 64 (q.t0.getD 0)))
/-- Word 0 of an outcome record. -/
def outcomeOf (code who : Nat) (version : BitVec 32) : Word := BitVec.ofNat 64 (code + 2 ^ 8 * who + 2 ^ 32 * version.toNat)
/-- A group is dissolved (R335): its pending claims are answered DISSOLVED; those still on their way to a CLU will be. -/
def Plot.dissolve (p : Plot) (gid : Nat) : Plot :=
  let word0 (q : Claim) : Word := outcomeOf 4 0 (((p.replica? (tileOf q.tag.cid) gid).map fun r => (r.word (tkWord q.ticket)).2).getD 0)
  let doom (e : Entry) : Entry := match e.body with
    | .claim q => if tkGroup q.ticket = gid ∧ q.gone.isNone then { e with body := .claim { q with gone := some (word0 q) } } else e
    | _ => e
  let p1 := (p.claims.filter fun q => tkGroup q.ticket == gid && !q.done).foldl (fun (p : Plot) q => p.outcome q (word0 q)) p
  { p1 with groups := p1.groups.filter fun g => g.gid != gid,
            cores := p1.cores.map fun c => { c with ob := c.ob.map doom, ct := c.ct.map doom },
            tiles := p1.tiles.map fun t => { t with clu := t.clu.filter fun r => r.gid != gid },
            plane := p1.plane.filter fun x => x.gid != gid }
/-- A member leaves its group (R321): its own CLU knows at once, and tells the others. -/
def Plot.leave1 (d : Device) (g : Group) (p : Plot) (m : Member) : Plot :=
  let t := tileOf m.cid
  let p := p.modGroup g.gid fun g => g.modMembers (fun x => x.idx == m.idx && !x.left) fun x => { x with left := true }
  (p.modReplica t g.gid fun r => r.learn ⟨m.idx, p.clock d t, .leave⟩).tell d t (p.hearers d g) g (p.clock d t) (.leave m.idx) 0
/-- The members of this device that a test picks leave a group. -/
def Plot.leaves (p : Plot) (d : Device) (gid : Nat) (pick : Member → Bool) : Plot :=
  match p.group? gid with
  | none => p
  | some g => (g.here.filter pick).foldl (Plot.leave1 d g) p

end Sys2Proof.Machine
end

