-- ==== Sys2Proof/Machine/ClaimUnit.lean ====
section
/-! DEFINITION. The events of the claim units (R317, R322, R329 to R335, R341): announcing, hearing, deciding. `p` names the plot,
`t` the tile of a CLU, `j` the place of a claim or a plane message, `n` a group. -/
namespace Sys2Proof.Machine

/-- The notices that a CLU queues for a claim (R330): for every member it serves but the claimant. -/
def Plot.notices (p : Plot) (t : Nat) (g : Group) (tag : Tag) (x : Pend) : Plot :=
  match g.notice with
  | none => p
  | some pc =>
    (g.here.filter fun m => tileOf m.cid == t && m.cid != tag.cid).foldl (fun (p : Plot) m =>
      p.sendTo m.cid
        { src := 0x3FFC, seq := tag.seq, lid := m.lid, cls := 1, tag := tag, acq := some .system,
          body := .notice pc x.ticket x.value (BitVec.ofNat 64 x.t0) (BitVec.ofNat 64 (x.t0 + g.w - g.skew))
            (BitVec.ofNat 64 (256 * g.gid + tkWord x.ticket)) (BitVec.ofNat 64 (tkMember x.ticket)) m.wid }) p
/-- A CLU records an announced claim (R330), with the objections to it that have come already. -/
def Replica.record (r : Replica) (ticket value : Word) (t0 : Nat) : Replica :=
  let mine (o : Word × Nat × Nat) : Bool := o.1 == ticket
  let add (os : List (Nat × Nat)) (o : Word × Nat × Nat) : List (Nat × Nat) := if os.any fun y => y.1 == o.2.1 then os else os ++ [o.2]
  { r.hear (tkMember ticket) t0 with
    pend := r.pend ++ [⟨ticket, value, t0, (r.early.filter mine).foldl add []⟩], early := r.early.filter fun o => !mine o }
/-- The announcement reaches a tile's CLU. -/
def Plot.record (p : Plot) (t : Nat) (g : Group) (tag : Tag) (ticket value : Word) (t0 : Nat) : Plot :=
  (p.modReplica t g.gid fun r => r.record ticket value t0).notices t g tag ⟨ticket, value, t0, []⟩
/-- CLAIM_ANNOUNCE (R322, R329): claim `j` of the plot, when its group is complete and its release is done. -/
def execClaimAnnounce (s : State) : Out :=
  match (s.plot? s.ev.p).bind fun p => (p.claims[s.ev.j]?).map fun q => (p, q) with
  | none => .next s
  | some (p, q) =>
    match q.gone, p.group? (tkGroup q.ticket), p.core? q.tag.cid.toNat with
    | some w, _, _ => .next (if q.done then s else s.modPlot s.ev.p fun p => p.outcome q w)
    | none, some g, some c =>
      let full := ((p.replica? (tileOf q.tag.cid) g.gid).map (·.complete g)).getD false
      if q.done ∨ q.t0.isSome ∨ !full ∨ notPerformed p c q.tag.ord .system then .next s
      else
        let t := tileOf q.tag.cid
        let t0 := planeTime s p t
        let mark (q : Claim) : Claim := { q with t0 := some t0 }
        .next ((s.modPlot s.ev.p fun p =>
          ({ p with claims := p.claims.modify s.ev.j mark }.record t g q.tag q.ticket q.value t0).spend
            q.tag.lid 1000).speak s.ev.p t g t0 (.announce q.ticket q.value) q.tag.seq)
    | none, _, _ => .next s
/-- A plane message whose tag fails is discarded, logged and posted (R319, R386). -/
def State.planeBad (s : State) (pid : Nat) (x : Plane) : State :=
  let r : Report := { cause := 0xB0, kind := 1, info := BitVec.ofNat 64 pid, pid := pid, time := BitVec.ofNat 64 s.dev.time }
  (s.modDev fun d => d.event 0 r).log (some pid) 0xB0 5 x.dst 0 0 (BitVec.ofNat 64 pid)
/-- Plane message `j` arrives, when it is of a kind and the first between its CLUs (R317), and the path between them has not failed
(R341). -/
def onPlane (s : State) (kind : PlaneAct → Bool) (k : Plot → Group → Plane → Plot) : Out :=
  match (s.plot? s.ev.p).bind fun p => (p.plane[s.ev.j]?).map fun x => (p, x) with
  | none => .next s
  | some (p, x) =>
    if !kind x.act || ((p.plane.take s.ev.j).any fun y => y.src == x.src && y.dst == x.dst) || p.cut.contains (x.src, x.dst) then .next s
    else
      let off : State := s.modPlot s.ev.p fun p => { p with plane := p.plane.eraseIdx s.ev.j }
      if x.bad then .next (if x.dst < p.tiles.length then off.planeBad s.ev.p x else off)
      else
        .next (off.modPlot s.ev.p fun p =>
          match p.group? x.gid, x.act with
          | none, .declare g => if x.src < 2 ^ 16 then p else { p with groups := p.groups ++ [g] }
          | none, _ => p
          | some g, _ => k p g x)
/-- The tag of the claim that an announcement names; a claimant on another device is no core of this one. -/
def Plot.claimTag (p : Plot) (x : Plane) (t : Word) : Tag :=
  ((p.claims.find? fun q => q.ticket == t && decide (x.src < 2 ^ 16)).map (·.tag)).getD ⟨0x3FFC, 0, x.seq, 0, 0⟩
/-- ANNOUNCEMENT_ARRIVE (R330). -/
def execAnnouncementArrive (s : State) : Out :=
  onPlane s (fun | .announce _ _ => true | _ => false) fun p g x =>
    match x.act with
    | .announce t v => p.record x.dst g (p.claimTag x t) t v x.stamp
    | _ => p
/-- OBJECTION_ARRIVE (R331). -/
def execObjectionArrive (s : State) : Out :=
  onPlane s (fun | .object _ _ => true | _ => false) fun p g x =>
    match x.act with
    | .object t m => p.modReplica x.dst g.gid fun r => r.object t m x.stamp
    | _ => p
/-- A group event reaches a CLU (R317, R321, R322). One from another device changes the group itself as well, which the functions of R367
have done for those of this device (log 46); the CLU of the first live member answers another device's join with what it holds. -/
def Plot.groupEvent (d : Device) (p : Plot) (g : Group) (x : Plane) : Plot :=
  let far := decide (x.src ≥ 2 ^ 16)
  let group (f : Group → Group) : Plot := if far then p.modGroup g.gid f else p
  let gone (i : Nat) : Group → Group := fun g => g.modMembers (fun m => m.idx == i && !m.left) fun m => { m with left := true }
  match x.act with
  | .join m =>
    let m' : Member := { m with dev := some (x.src / 2 ^ 16 - 1) }
    let p := (group fun g => { g with members := m' :: g.members.filter fun y => y.idx != m.idx }).modReplica x.dst g.gid fun r =>
      (r.learn ⟨m.idx, x.stamp, .join⟩).hear m.idx x.stamp
    match p.replica? x.dst g.gid with
    | some r =>
      if far && r.synced && g.live.head?.map Member.clu == some x.dst then
        p.tell d x.dst [x.src] g (p.clock d x.dst) (.values r) 0
      else p
    | none => p
  | .leave i => (group (gone i)).modReplica x.dst g.gid fun r => r.learn ⟨i, x.stamp, .leave⟩
  | .remove i => (group (gone i)).modReplica x.dst g.gid fun r => r.learn ⟨i, x.stamp, .remove⟩
  | .values v => p.modReplica x.dst g.gid fun r => r.merge v
  | .dissolve => if far then p.dissolve g.gid else p
  | _ => p
/-- A plane message that is none of the first two kinds. -/
def PlaneAct.other (a : PlaneAct) : Bool :=
  match a with
  | .announce _ _ => false
  | .object _ _ => false
  | _ => true
/-- HEARTBEAT (R334): a CLU sends one for a member that it serves when 2,000 ns have passed since the last; with `flag`, message `j`
arrives, a heartbeat or a group event. -/
def execHeartbeat (s : State) : Out :=
  if s.ev.flag then
    onPlane s PlaneAct.other fun p g x =>
      match x.act with
      | .heartbeat m => p.modReplica x.dst g.gid fun r => r.hear m x.stamp
      | _ => p.groupEvent s.dev g x
  else match (s.plot? s.ev.p).bind fun p => (p.group? s.ev.n).map fun g => (p, g) with
    | none => .next s
    | some (p, g) => match g.here.find? fun m => m.idx == s.ev.j with
      | none => .next s
      | some m =>
        let t := tileOf m.cid
        let now := planeTime s p t
        if p.susp = .taken ∨ now < m.beat + 2000 ∨ (s.dev.syncLost ∧ g.span) then .next s
        else
          .next ((s.modPlot s.ev.p fun p =>
            (p.modGroup g.gid fun g => g.modMembers (fun x => x.idx == m.idx && !x.left) fun x => { x with beat := now }).modReplica
              t g.gid fun r => r.hear m.idx now).speak s.ev.p t g now (.heartbeat m.idx) 0)
/-- A CLU of another device of the job sends a message to one of the plot (R317, R320): its stamp is that CLU's plane time, which the
skew bounds (R318). -/
def State.planeIn (s : State) (pid : Nat) (x : Plane) : State :=
  match s.plot? pid with
  | none => s
  | some p =>
    let now := p.clock s.dev x.dst
    let dev := x.src / 2 ^ 16
    if x.dst < p.tiles.length ∧ dev ≠ 0 ∧ (s.dev.peers.any fun y => y.dev + 1 == dev && y.job == p.job) ∧ !s.dev.syncLost
        ∧ !p.cut.contains (x.src, x.dst) ∧ x.stamp ≤ now + 100 ∧ now ≤ x.stamp + 100 then
      s.modPlot pid fun p => { p with plane := p.plane ++ [x] }
    else s
/-- The tag of plane message j will fail (R319). -/
def Plot.planeTag (p : Plot) (j : Nat) : Plot := { p with plane := p.plane.modify j fun x => { x with bad := true } }
/-- The path between two CLUs fails, in both directions, or is there again (R341). -/
def Plot.path (p : Plot) (a b : Nat) (up : Bool) : Plot :=
  let rest := p.cut.filter fun x => x != (a, b) && x != (b, a)
  { p with cut := if up then rest else (a, b) :: (b, a) :: rest }

/-! Deciding (R333, R334). -/

/-- The last stamp that the decision of a claim considers (R333). -/
def Group.horizon (g : Group) (t0 : Nat) : Nat := t0 + g.w - g.skew
/-- The members that a device treats as absent: those on other devices, while synchronisation is lost (R389). -/
def Group.lost (g : Group) (d : Device) : List Nat := (g.live.filter fun m => d.syncLost && m.dev.isSome).map (·.idx)
/-- The members that are absent for a claim at a CLU (R334): those marked, and the live ones unheard in the span; and those of R389. Nothing
with a later stamp than the decision considers counts (R333). -/
def absentFor (g : Group) (r : Replica) (lost : List Nat) (t0 : Nat) : List Nat :=
  let h := g.horizon t0
  (r.markedAt h ++ (r.liveAt h).filter fun m =>
    lost.contains m || !(r.heard.any fun x => x.1 == m && decide (t0 ≤ x.2 + 4000 ∧ x.2 ≤ h))).eraseDups
/-- The least of a list of numbers. -/
def least (xs : List Nat) : Nat :=
  match xs with
  | [] => 0
  | x :: rest => rest.foldl min x
/-- The other claim of row 1 with the smallest key (R333): its ticket. -/
def collider (g : Group) (r : Replica) (x : Pend) : Option Word :=
  let all : List (Nat × Word) := r.pend.map (fun y => (y.t0, y.ticket)) ++ r.decided.map fun y => (y.t0, y.ticket)
  let cs := all.filter fun y => tkWord y.2 == tkWord x.ticket && (y.2 != x.ticket || y.1 != x.t0) && keyLess y.1 y.2 x.t0 x.ticket
    && decide (t0Of x.t0 ≤ t0Of y.1 + g.w)
  match cs with
  | [] => none
  | y :: rest => some (rest.foldl (fun (a b : Nat × Word) => if keyLess b.1 b.2 a.1 a.2 then b else a) y).2
/-- The decision of one claim at a CLU (R333): the replica after it. -/
def Replica.decide1 (g : Group) (lost : List Nat) (r : Replica) (x : Pend) : Replica :=
  let abs := absentFor g r lost x.t0
  let objs : List (Nat × Nat) := x.objs.filter fun o => decide (o.2 ≤ g.horizon x.t0)
  let w := tkWord x.ticket
  let (v, n) := r.word w
  let (code, who) := match collider g r x with
    | some t => (2, tkMember t)
    | none =>
      if abs ≠ [] then (3, least abs)
      else if objs ≠ [] then (1, least (objs.map (·.1)))
      else (0, tkMember x.ticket)
  let (v', n') := if code = 0 then (x.value, n + 1) else (v, n)
  { r with vals := (w, v', n') :: r.vals.filter fun y => y.1 != w, pend := r.pend.filter fun y => y.ticket != x.ticket || y.t0 != x.t0,
           decided := ⟨x.ticket, x.t0, outcomeOf code who n'⟩ :: r.decided,
           marks := abs.map (fun m => (m, g.horizon x.t0)) ++ r.marks.filter fun (y : Nat × Nat) => !abs.contains y.1 }
/-- CLAIM_DECIDE (R333, R335): at the CLU of tile `t`, the claims of group `n` whose time has come, in key order, once every plane
message with a stamp that they consider has arrived, and while no message of the group is outstanding beyond D (R341). A CLU that waits for
the values of a live member's decides nothing yet (R340). -/
def execClaimDecide (s : State) : Out :=
  match (s.plot? s.ev.p).bind fun p => (p.group? s.ev.n).bind fun g => (p.replica? s.ev.t s.ev.n).map fun r => (p, g, r) with
  | none => .next s
  | some (p, g, r) =>
    let now := planeTime s p s.ev.t
    let due := sortBy (fun (a b : Pend) => !keyLess b.t0 b.ticket a.t0 a.ticket) (r.pend.filter fun x => decide (x.t0 + g.w + g.d ≤ now))
    match due.getLast? with
    | none => .next s
    | some z =>
      let late (m : Plane) : Bool := g.tiles.contains m.dst && decide (m.stamp + g.d < now)
      if p.plane.any fun m => m.gid == g.gid && (late m || (m.dst == s.ev.t && decide (m.stamp ≤ g.horizon z.t0))) ∨ !r.synced then .next s
      else
        .next (s.modPlot s.ev.p fun p =>
          due.foldl (fun (p : Plot) x =>
            match p.replica? s.ev.t g.gid with
            | none => p
            | some r =>
              let r' := r.decide1 g (g.lost s.dev) x
              let p := p.modReplica s.ev.t g.gid fun _ => r'
              match p.claims.find? fun q => q.ticket == x.ticket && q.t0 == some x.t0 && tileOf q.tag.cid == s.ev.t && !q.done with
              | none => p
              | some q => p.outcome q ((r'.decided.head?.map (·.word0)).getD 0)) p)

end Sys2Proof.Machine
end

