-- ==== Sys2Proof/Machine/System.lean ====
section
/-! DEFINITION. Major 0x28, system and service instructions (R361 to R366), and what they share with the service itself: the way a
record returns from service (R349, R363), and the invalidation of translations (R365). -/
namespace Sys2Proof.Machine

/-- `svc` (R362): class S, with n in INFO. -/
def execSvc (n : BitVec 12) (s : State) : Out := trap s 0x0C 0 (n.setWidth 64)
/-- `brk` (R362). -/
def execBrk (n : BitVec 8) (s : State) : Out := trap s 0x0B 0 (n.setWidth 64)
/-- Compact `brk` (R68). -/
def execBrkCompact (n : BitVec 8) (s : State) : Out := trap s 0x0B 0 (n.setWidth 64) 2

/-! Return from service (R349 step 5, R363). -/

/-- How a record returns. -/
inductive SrAct where
  | retry
  | skip
  | abort (cause : Cause)
  deriving DecidableEq, Repr

/-- The record of a slot at a tile. -/
def Plot.served (p : Plot) (t slot : Nat) : Option SvRec := (svcOf p t).slots[slot]?.join
/-- Empties a slot, and its place in SVQ if it still has one. -/
def SvcCore.free (v : SvcCore) (slot : Nat) : SvcCore := { v with slots := v.slots.set slot none, svq := v.svq.filter fun x => x != slot }
/-- The length of the instruction at a PC (R64). -/
def Plot.lengthAt (p : Plot) (pc : Word) : Nat :=
  skipLen (leNat ((fetch (((p.obj? (fld pc 47 32)).map (·.code)).getD []) (fld pc 31 0)).take 4))
/-- The time that a service has taken is counted, in us (R398). -/
def State.counted (s : State) (p : Plot) (t : Nat) (r : SvRec) : State :=
  match r.taken with
  | none => s
  | some at_ => s.modDev fun d => d.counts (lifeMeasured 4 (((p.tiles[t]?).map (·.num)).getD 0) ((planeTime s p t - at_) / 1000))
/-- The record of a slot returns to its core with an action (R349 step 5, R363). DEDUCED (log 96): an instruction that its service has
done, and so returns with SKIP, has retired, and counts in I (R103). -/
def State.sret (s : State) (pid t slot : Nat) (act : SrAct) : State :=
  match (s.plot? pid).bind fun p => (p.served t slot).map fun r => (p, r) with
  | none => s
  | some (p, r) =>
    let i := 32 * t + slot
    let s := (s.counted p t r).modPlot pid fun p =>
      (p.modTile t fun x => x.modSvc fun v => v.free slot).modCore i fun c => c.fromService r.rcd
    match act with
    | .retry => s
    | .skip => s.modPlot pid fun q => q.modCore i fun c =>
        { c with off := c.off + BitVec.ofNat 32 (p.lengthAt r.rcd.pc), stint := c.stint.map Stint.tick }
    | .abort cause => s.abortAs false pid i cause false r.rcd.pc r.addr r.info

/-- An instruction on the record that a handle names (R363): SVC_SLOT for a handle without one. -/
def onHandle (s : State) (h : Word) (k : Plot → Core → Nat → SvRec → Out) : Out :=
  serviceCore s <| onCore s fun p c =>
    if fld h 63 5 ≠ 0 then trap s 0x01 0 (wordHere s p c)
    else match p.served s.cur.idx (fld h 4 0) with
      | none => trap s 0x0D 0 h
      | some r => k p c (fld h 4 0) r
/-- `sret` (R363). -/
def execSret (a h : Reg) (s : State) : Out :=
  onCore s fun _ c =>
    let w := c.r a
    let hv := c.r h
    onHandle s hv fun p c slot _ =>
      let act := fld w 1 0
      if fld w 63 16 ≠ 0 ∨ fld w 7 2 ≠ 0 ∨ act = 3 ∨ (act = 2 ∧ fld w 15 8 > 0xBF) then trap s 0x01 0 (wordHere s p c)
      else
        let s1 := s.modMe fun c => c.retire 4 1
        .next (s1.sret s.cur.pid s.cur.idx slot
          (if act = 0 then .retry else if act = 1 then .skip else .abort (BitVec.ofNat 8 (fld w 15 8))))

/-- Word w of a record (R364). -/
def Rec.word (r : Rec) (w : Nat) : Word :=
  if w < 16 then r.g.toList.getD w 0
  else match w with
    | 16 => r.pc
    | 17 => r.st
    | 18 => r.wid
    | 19 => r.htop
    | _ => match r.vec with
      | none => 0
      | some x =>
        if w < 84 then BitVec.ofNat 64 ((x.v.toList.getD ((w - 20) / 8) 0).toNat / 2 ^ (64 * ((w - 20) % 8)) % 2 ^ 64)
        else if w = 84 then 0xFFFFFFFFFFFFFFFF else x.k.toList.getD (w - 84) 0
/-- A vector register with one 64-bit word replaced. -/
def vecWord (v : BitVec 512) (j : Nat) (x : Word) : BitVec 512 :=
  BitVec.ofNat 512 (v.toNat - v.toNat / 2 ^ (64 * j) % 2 ^ 64 * 2 ^ (64 * j) + x.toNat * 2 ^ (64 * j))
/-- A record with word w written (R364). -/
def Rec.setWord (r : Rec) (w : Nat) (x : Word) : Rec :=
  if h : w < 16 then { r with g := r.g.set w x h }
  else match w with
    | 16 => { r with pc := x }
    | 17 => { r with st := writeRecSt r.st x }
    | 18 => r
    | 19 => { r with htop := x &&& 0xFFFFFFFF }
    | _ => { r with vec := r.vec.map fun y =>
        if w < 84 then
          { y with v := Vector.ofFn fun i => if i.val = (w - 20) / 8 then vecWord y.v[i] ((w - 20) % 8) x else y.v[i] }
        else if w = 84 then y else { y with k := Vector.ofFn fun i => if i.val = w - 84 then x else y.k[i] } }
/-- `rrec` (R364). -/
def execRrec (n : BitVec 7) (h d : Reg) (s : State) : Out :=
  onCore s fun _ c =>
    onHandle s (c.r h) fun p c _ r =>
      if n.toNat > 87 then trap s 0x01 0 (wordHere s p c) else put s ((c.setG d (r.rcd.word n.toNat)).retire 4 1)
/-- `rrec.w` (R364). -/
def execRrecW (n : BitVec 7) (h d : Reg) (s : State) : Out :=
  onCore s fun _ c =>
    onHandle s (c.r h) fun p c slot r =>
      let x := c.r d
      if n.toNat > 87 ∨ (n.toNat ≥ 20 ∧ r.rcd.vec.isNone) ∨ (n = 16 ∧ fld x 63 48 ≠ 0) then trap s 0x01 0 (wordHere s p c)
      else
        let r' : SvRec := { r with rcd := r.rcd.setWord n.toNat x }
        .next ((s.modMine fun p => p.modTile s.cur.idx fun t => t.modSvc fun v => { v with slots := v.slots.set slot (some r') }).modMe
          fun c => c.retire 4 1)

/-! Translations (R168, R365). -/

/-- A translation maps an address, or any when none is named. -/
def TlbEntry.maps (e : TlbEntry) (va : Option Nat) : Bool :=
  match va with
  | none => true
  | some a => decide (e.page ≤ a ∧ a < e.page + e.size)
/-- The accesses to device memory and to peers that are short of package scope (R173): in a buffer, at a tile router, or, unless a store, at
home or on the fabric. Each is given by its core, its place in the issue order and an address. -/
def Plot.pending (p : Plot) : List (CoreId × Nat × Nat) :=
  let buffered (c : Core) : List (CoreId × Nat × Nat) := (c.ob ++ c.ct).flatMap fun e => match e.body with
    | .store bs => bs.map fun b => (c.cid, e.tag.ord, b.va)
    | .atom _ _ _ v _ _ _ _ => [(c.cid, e.tag.ord, v)]
    | _ => []
  let under (e : HEntry) : List (CoreId × Nat × Nat) := e.tags.map fun t => (t.cid, t.ord, e.va)
  (p.cores ++ p.tiles.map (·.svc.ctx)).flatMap buffered
    ++ (p.tiles.flatMap (·.toq) ++ (p.wq.filter fun e => !e.isStore) ++ p.fabric).flatMap under
/-- Two of those are one access, or, of an engine's job, whose writes share one tag, its bytes in one line. -/
def sameAccess (x y : CoreId × Nat × Nat) : Bool := x.1 == y.1 && x.2.1 == y.2.1 && (decide (x.2.1 < 2 ^ 64) || x.2.2 / 64 == y.2.2 / 64)
/-- An invalidation by `key` drops the translations of a plot from every tile router, all, or those that map an address (R365). It waits
for the accesses that were translated through one of them. -/
def Plot.dropTlb (p : Plot) (key : Nat) (va : Option Nat) : Plot :=
  let through (x : CoreId × Nat × Nat) : Bool := ((p.tiles[tileOf x.1]?).map fun (t : Tile) =>
    t.tlb.any fun e => e.maps va && e.maps (some x.2.2)).getD false
  { p with tiles := p.tiles.map fun (t : Tile) => { t with tlb := t.tlb.filter fun e => !e.maps va },
           dropping := ⟨key, (p.pending.filter through).eraseDups⟩ :: p.dropping.filter fun d => d.key != key }
/-- Every access that was translated through what the invalidation dropped is performed at package scope (R365). -/
def Plot.tlbQuiet (p : Plot) (key : Nat) : Bool :=
  (p.dropping.filter fun d => d.key == key).all fun d => !p.pending.any fun x => d.held.any (sameAccess x)
/-- An invalidation is complete. -/
def Plot.tlbDone (p : Plot) (key : Nat) : Plot := { p with dropping := p.dropping.filter fun d => d.key != key }
/-- The key of an invalidation by TLBINV. -/
def hostKey : Nat := 0
/-- The key of the invalidation that goes with the answer to a fault of a core. -/
def faultKey (core : Nat) : Nat := 1 + core
/-- The key of an invalidation by `tlbi` of a service core. -/
def tlbiKey (pid tile : Nat) : Nat := 2 ^ 16 + 1024 * pid + tile
/-- A `tlbi` on a plot: the entries drop, and the core stalls until the accesses through them are performed. -/
def tlbiOp (s : State) (w : Word) (va : Option Word) : Out :=
  serviceCore s <| onCore s fun p c =>
    if fld w 63 4 ≠ 0 ∨ (va.map fun v => fld v 63 48).getD 0 ≠ 0 then trap s 0x01 0 (wordHere s p c)
    else
      let pid := fld w 3 0
      let a := va.map (·.toNat)
      let key := tlbiKey s.cur.pid s.cur.idx
      let s1 := match c.wait with
        | .begun => s
        | _ => (s.modPlot pid fun p => p.dropTlb key a).modMe fun c => { c with wait := .begun }
      if ((s1.plot? pid).map fun p => p.tlbQuiet key).getD true then upd (s1.modPlot pid fun p => p.tlbDone key) fun c => c.retire 4 1
      else upd s1 fun c => c.stall
/-- `tlbi` (R365). -/
def execTlbi (a : Reg) (s : State) : Out := onCore s fun _ c => tlbiOp s (c.r a) none
/-- `tlbi.va` (R365). -/
def execTlbiVa (a v : Reg) (s : State) : Out := onCore s fun _ c => tlbiOp s (c.r a) (some (c.r v))

/-! The mailbox (R354, R366). -/

/-- The service core's mailbox slot of a device tile (R354). -/
def svcSlot (tile : Nat) : Nat := 1536 + tile % 48
/-- The report that 64 bytes of software make, KIND 11 cleared to 10. -/
def rawReport (ws : List Word) : Report :=
  let w0 := ws.getD 0 0
  let w0 := if fld w0 9 8 = 3 then setFld w0 8 2 2 else w0
  { cause := BitVec.ofNat 8 (fld w0 7 0), kind := BitVec.ofNat 2 (fld w0 9 8), raw := some (w0 :: ws.drop 1) }
/-- `mbox` (R366). -/
def execMbox (a d : Reg) (s : State) : Out :=
  serviceCore s <| onCore s fun p c =>
    let w := c.r a
    if w.toNat + 64 > 0x100000 then trap s 0x21 w 64
    else if w.toNat % 64 ≠ 0 then trap s 0x20 w 64
    else
      let tile := ((p.tiles[s.cur.idx]?).map (·.num)).getD 0
      let die := tile / 48
      let pending := ((s.dev.mboxes[die]?).map fun m => m.slots.any fun x => x.1 == svcSlot tile).getD true
      if pending then put s ((c.setG d 1).retire 4 1)
      else
        let r := rawReport ((List.range 8).map fun i => c.lm.word (w.toNat + 8 * i))
        .next ((s.modDev fun x => { x with mboxes := x.mboxes.modify die fun m =>
          { m with slots := (svcSlot tile, r) :: m.slots } }).modMe fun _ => (c.setG d 0).retire 4 1)

end Sys2Proof.Machine
end

