-- ==== Sys2Proof/Machine/Service.lean ====
section
/-! DEFINITION. The service as Haruesol gives it (R350 to R354, R359, R360, R375, R376) and its `svc` functions (R367, R391). `p`
names the plot, `t` the plot tile, `j` the service slot. -/
namespace Sys2Proof.Machine

/-! The host at a VF. -/

/-- Gives the host or the operator an answer: 0 and data, 1 for Unsupported Request, 2 for Completer Abort. -/
def State.answers (s : State) (ws : List Word) : State := s.modDev fun d => { d with replies := ws :: d.replies }
/-- The TDI state of a plot's VF. -/
def State.tdi (s : State) (p : Plot) : Tdi := ((s.dev.vfs.find? fun v => v.num == p.vf).map (·.tdi)).getD .unlocked
/-- The state of the plot's TDI lets a host access through (R377): in RUN only a request on the TDI's stream with the T bit, which
`opt = some 1` says it lacks. -/
def State.takes (s : State) (p : Plot) : Bool :=
  match s.tdi p with
  | .error => false
  | .run => s.ev.opt != some 1
  | _ => true
/-- The VF accepts a host access (R370). -/
def State.barOk (s : State) (p : Plot) : Bool := !p.torn && s.takes p
/-- A host access to a VF's BAR, answered with Unsupported Request when it is not accepted. -/
def onBar (s : State) (k : Plot → State) : Out :=
  match s.plot? s.ev.p with
  | none => .next (s.answers [1])
  | some p => .next (if s.barOk p then k p else s.answers [1])

/-! SVQ and the page-fault queue (R350, R351, R376). -/

/-- The access that an instruction makes: 0 load, 1 store, 2 atomic. -/
def accessOf (i : Option Instr) : Nat :=
  match i with
  | some (.gst _ _ _ _) => 1
  | some (.gstRel _ _ _ _ _) => 1
  | some (.gvst _ _ _ _ _) => 1
  | some (.gvsct _ _ _ _ _) => 1
  | some (.atom _ _ _ _ _ _ _) => 2
  | some (.red _ _ _ _ _ _) => 2
  | some (.cas _ _ _ _ _) => 2
  | _ => 0
/-- The access of a record at service. -/
def Plot.accessAt (p : Plot) (r : SvRec) : Nat :=
  if r.cause = 0x31 then r.info.toNat
  else accessOf (match decode (fetch (((p.obj? (fld r.rcd.pc 47 32)).map (·.code)).getD []) (fld r.rcd.pc 31 0)) with
    | .ok i _ => some i
    | _ => none)
/-- The page-fault queue takes entries and is not full (R376). -/
def Plot.pfqOpen (p : Plot) : Bool :=
  p.pfqBase.getLsbD 63 && decide (4 ≤ fld p.pfqBase 51 48 ∧ fld p.pfqBase 51 48 ≤ 12)
    && decide ((p.pfqPi - p.pfqCi).toNat < 2 ^ fld p.pfqBase 51 48)
/-- A fault is offered to the owner (R376): the entry, PI, and the interrupt of vector 16 behind it (R372). -/
def State.offerFault (s : State) (pid t slot : Nat) (r : SvRec) : State :=
  match s.plot? pid with
  | none => s
  | some p =>
    let cid := 32 * t + slot
    let lid : Lid := ((p.core? cid).map (·.lid)).getD 0
    let a := fld p.pfqBase 47 0 + 32 * (p.pfqPi.toNat % 2 ^ fld p.pfqBase 51 48)
    let ws : List Word := [r.addr,
      BitVec.ofNat 64 (r.cause.toNat + 2 ^ 8 * p.accessAt r + 2 ^ 16 * (slot + 32 * t)),
      BitVec.ofNat 64 (cid + 2 ^ 16 * lid.toNat), BitVec.ofNat 64 (planeTime s p t)]
    let s := s.toHost pid (.mem { tags := [], line := lineOf a, va := a, act := storeAct a (wordsBytes ws), tile := t })
    let s := s.modPlot pid fun p =>
      { p.modTile t fun x => x.modSvc fun v => { v with slots := v.slots.set slot (some { r with offered := true }) } with
        pfqPi := p.pfqPi + 1 }
    s.toHost pid (.msix 16)
/-- The tile's firmware is to be switched, so that it takes no further entry of SVQ (R359). -/
def State.switching (s : State) (v : SvcCore) : Bool := (s.dev.svcNext.map fun i => i.version != v.svver).getD false
/-- SVQ_READ (R350, R351, R360, R376): Haruesol takes the head of SVQ; a translation fault is offered to the owner, or returned with
ABORT at once when the queue is off or full; a BRK is, unless a debugger holds the plot. -/
def execSvqRead (s : State) : Out :=
  match s.plot? s.ev.p with
  | none => .next s
  | some p =>
    let v := svcOf p s.ev.t
    if s.switching v ∨ v.stopped then .next s else
    let (w, v') := v.takeSvq (planeTime s p s.ev.t)
    let s := (s.modPlot s.ev.p fun p => p.modTile s.ev.t fun x => x.modSvc fun _ => v').answers [w]
    let slot := fld w 4 0
    match (if w.getLsbD 63 then v'.slots[slot]?.join else none) with
    | none => .next s
    | some r =>
      if r.cause = 0x30 ∨ r.cause = 0x31 then
        .next (if p.pfqOpen then s.offerFault s.ev.p s.ev.t slot r else s.sret s.ev.p s.ev.t slot (.abort r.cause))
      else if r.cause = 0x0B ∧ !p.debug then .next (s.sret s.ev.p s.ev.t slot (.abort 0x0B))
      else .next s
/-- A debugger takes a plot, or lets it go: its records at BRK are then returned with ABORT (R351). -/
def State.debugger (s : State) (pid : Nat) (on : Bool) : State :=
  let s1 := s.modPlot pid fun p => { p with debug := on }
  if on then s1
  else
    let held (p : Plot) (i : Nat) : Bool := ((p.served (i / 32) (i % 32)).map fun r =>
      r.taken.isSome && r.cause == 0x0B).getD false && !(svcOf p (i / 32)).stopped
    match s1.plot? pid with
    | none => s1
    | some p => ((List.range (32 * p.tiles.length)).filter (held p)).foldl (fun (s : State) i => s.sret pid (i / 32) (i % 32) (.abort 0x0B)) s1
/-- A fault that the owner has answered returns (R351): with ABORT when the answer refuses, else with RETRY once the invalidation of its
address, which begins it, is complete. A service core that a machine check has stopped does nothing. -/
def State.answerFault (s : State) (pid t slot : Nat) : State :=
  match (s.plot? pid).bind fun p => (p.served t slot).map fun r => (p, r) with
  | none => s
  | some (p, r) =>
    let key := faultKey (32 * t + slot)
    if !r.answered || (svcOf p t).stopped then s
    else if r.refused then s.sret pid t slot (.abort r.cause)
    else
      let q := if p.dropping.any fun d => d.key == key then p else p.dropTlb key (some r.addr.toNat)
      if q.tlbQuiet key then (s.modPlot pid fun _ => q.tlbDone key).sret pid t slot .retry else s.modPlot pid fun _ => q
/-- PFANS_WRITE (R351, R376): the owner's answer v; one that names no fault awaiting an answer is ignored. With `flag`, what the service core
does about an answer goes on. -/
def execPfansWrite (s : State) : Out :=
  let slot := fld s.ev.v 4 0
  let t := fld s.ev.v 13 5
  if s.ev.flag then .next (s.answerFault s.ev.p t slot)
  else onBar s fun p =>
    match p.served t slot with
    | none => s
    | some r =>
      if !r.offered ∨ r.answered then s
      else
        (s.modPlot s.ev.p fun p => p.modTile t fun x => x.modSvc fun v =>
          { v with slots := v.slots.set slot (some { r with answered := true, refused := s.ev.v.getLsbD 16 }) }).answerFault s.ev.p t slot
/-- The addresses that TLBINV names: all, or one (R374). -/
def Plot.tlbinvVa (p : Plot) : Option Nat := if p.tlbinv.getLsbD 62 then none else some (fld p.tlbinv 47 0)
/-- Haruesol's invalidation completes once the plot is quiet (R365, R375): GO reads 0, and a whole one puts PTROOT into effect, so that no
translation of the old tables is left. -/
def Plot.tlbinvEnds (p : Plot) : Plot :=
  if !p.tlbinv.getLsbD 63 ∨ !p.tlbQuiet hostKey then p
  else
    let turns := p.tlbinvVa.isNone && p.ptrootEff != p.ptroot
    { p.tlbDone hostKey with
      tlbinv := setFld p.tlbinv 63 1 0, ptrootEff := if turns then p.ptroot else p.ptrootEff,
      tiles := if turns then p.tiles.map fun (t : Tile) => { t with tlb := [] } else p.tiles }
/-- TLBINV_WRITE (R375): a host write of v; with `flag`, the invalidation in progress goes on. -/
def execTlbinvWrite (s : State) : Out :=
  if s.ev.flag then .next (s.modPlot s.ev.p Plot.tlbinvEnds)
  else onBar s fun p =>
    if p.tlbinv.getLsbD 63 then s
    else
      let w : Word := s.ev.v &&& 0xC000FFFFFFFFFFFF
      s.modPlot s.ev.p fun p =>
        let p := { p with tlbinv := w }
        if w.getLsbD 63 then (p.dropTlb hostKey p.tlbinvVa).tlbinvEnds else p
/-- WATCHDOG_SERVICE (R350, R351, R376): slot `j` of tile `t` has gone SVLIM without its `sret`. A fault without an answer returns
with ABORT; any other service is posted and its runner aborted. A BRK that a debugger holds has no limit. -/
def execWatchdogService (s : State) : Out :=
  match (s.plot? s.ev.p).bind fun p => (p.served s.ev.t s.ev.j).map fun r => (p, r) with
  | none => .next s
  | some (p, r) =>
    let lim := (svcOf p s.ev.t).svlim.toNat
    match r.taken with
    | none => .next s
    | some at_ =>
      if lim = 0 ∨ planeTime s p s.ev.t < at_ + 1000 * lim ∨ (r.cause = 0x0B ∧ p.debug) then .next s
      else if r.offered ∧ !r.answered ∧ !(svcOf p s.ev.t).stopped then .next (s.sret s.ev.p s.ev.t s.ev.j (.abort r.cause))
      else
        let i := 32 * s.ev.t + s.ev.j
        let h : Word := BitVec.ofNat 64 s.ev.j
        let c := (p.core? i).getD (Core.init 0x3FFF)
        let s := s.post s.ev.p s.ev.t
          { c.abortReport 0xB3 1 false 0 h (r.cause.setWidth 64) with part := false, ret := false, commits := 0 }
        let s := (s.counted p s.ev.t r).modPlot s.ev.p fun p =>
          (p.modTile s.ev.t fun x => x.modSvc fun v => v.free s.ev.j).modCore i fun c => c.fromService r.rcd
        .next (s.abortCore s.ev.p i 0xB3 false r.rcd.pc h (r.cause.setWidth 64))
/-- Haruesol logs the identifier of a message that it drops after its third return in a row (R352). -/
def State.logThrice (s : State) (pid : Nat) (c : Core) : State :=
  match c.thrice with
  | none => s
  | some w => s.logNote (some pid) ((Config.freeWord s.fresh 2).toNat % 16) ((Config.freeWord s.fresh 4).toNat % 2 ^ 14) 0 w 0
/-- SVREL_WRITE (R352): Haruesol releases slot `j`; DROP is set when the same message has been returned three times in a row, and as
`flag` says. -/
def execSvrelWrite (s : State) : Out :=
  match (s.plot? s.ev.p).bind fun p => (p.core? (32 * s.ev.t + s.ev.j)).map fun c => (p, c) with
  | none => .next s
  | some (p, c) =>
    if (svcOf p s.ev.t).stopped then .next s else
    let s1 := if c.hold = .svrel ∧ c.report.isNone then s.logThrice s.ev.p c else s
    .next (s1.modPlot s.ev.p fun p => p.svrel s.ev.t s.ev.j (s.ev.flag || c.thrice.isSome))
/-- The plot and the plot tile of a device tile. -/
def State.tileAt (s : State) (num : Nat) : Option (Nat × Nat) :=
  s.plots.findSome? fun p => (p.tiles.findIdx? fun t => t.num == num).map fun i => (p.pid, i)
/-- A tile that no plot holds: what it has kept, or what a tile is since reset (R12, R62, R360). Its service core takes no turns meanwhile
(log 96). -/
def Device.spareOf (d : Device) (n : Nat) : Spare :=
  let v := SvcCore.init d.bootSvc
  (d.spares.find? fun x => x.num == n).getD ⟨n, { v with ctx := { v.ctx with cyc := d.cyc } }, List.replicate 32 d.cyc⟩
/-- A tile that no plot holds is as given. -/
def Device.setSpare (d : Device) (x : Spare) : Device := { d with spares := x :: d.spares.filter fun y => y.num != x.num }
/-- A plot takes a tile. -/
def Device.noSpare (d : Device) (n : Nat) : Device := { d with spares := d.spares.filter fun y => y.num != n }
/-- A number names a logical tile of the device's shape (R15, R18). -/
def Device.hasTile (d : Device) (n : Nat) : Bool := decide (n < 384) && decide (n % 48 < d.dieTiles.getD (n / 48) 0)
/-- A stopped service core restarts at an entry of its image that the manual does not place: a free value (R353). -/
def SvcCore.restarts (v : SvcCore) (seed : Nat) : SvcCore :=
  if v.stopped then { v with stopped := false, ctx := { v.ctx with off := (Config.freeWord seed 1).setWidth 32, wait := .none } } else v
/-- Haruesol logs a report before it releases the slot (R353): an instruction fetch's in the core's instruction cache, a table walk's in HBM,
of which the manual names no stack. -/
def State.logReport (s : State) (r : Report) : State :=
  if r.cause = 0x03 then s.log (some r.pid) 0x03 4 r.cid.toNat r.lid.toNat r.addr r.info
  else if r.cause = 0x34 then s.log (some r.pid) 0x34 1 ((Config.freeWord r.addr.toNat 1).toNat % 16) r.lid.toNat r.addr r.info
  else s.logOpen (some r.pid) r.cause.toNat r.lid.toNat r.addr r.info
/-- MBREL_WRITE (R353, R354): slot `n` of die `c`, with DROP as `flag` says, or after the third return in a row; a slot that is not
pending is ignored. A service core restarts. -/
def execMbrelWrite (s : State) : Out :=
  match (s.dev.mboxes[s.ev.c]?).bind fun m => m.slots.find? fun x => x.1 == s.ev.n with
  | none => .next s
  | some (_, r) =>
      let s1 := (s.logReport r).modDev fun d => { d with mboxes := d.mboxes.modify s.ev.c fun m =>
        { m with slots := m.slots.filter fun x => x.1 != s.ev.n } }
      let compute := decide (s.ev.n < 1536)
      let tile := 48 * s.ev.c + (if compute then s.ev.n / 32 else s.ev.n - 1536)
      match s1.tileAt tile with
      | none =>
        if compute then .next s1
        else .next { s1.modDev (fun d => d.setSpare { d.spareOf tile with svc := (d.spareOf tile).svc.restarts s1.fresh }) with fresh := s1.fresh + 1 }
      | some (pid, t) =>
        if compute then
          match (s1.plot? pid).bind fun p => p.core? (32 * t + s.ev.n % 32) with
          | none => .next s1
          | some c =>
            if c.hold ≠ .mbrel then .next s1
            else .next ((s1.logThrice pid c).modPlot pid fun p => p.modCore (32 * t + s.ev.n % 32) fun c =>
              c.released (s.ev.flag || c.thrice.isSome))
        else .next { s1.modPlot pid (fun p => p.modTile t fun x => x.modSvc fun v => v.restarts s1.fresh) with fresh := s1.fresh + 1 }
/-- The management core's external interrupt (R354): a slot is pending, or the event ring holds reports not consumed. -/
def Mbox.meip (m : Mbox) : Bool := !m.slots.isEmpty || m.head != m.tail
/-- What a word of the mailbox reads as (R8, R354): at an offset that the map does not define, and in MBREL, zero. -/
def Mbox.read (m : Mbox) (off : Nat) : Word :=
  let word (r : Option Report) (i : Nat) : Word := ((r.map Report.words).getD []).getD i 0
  if off < 64 * 1584 then word (m.slots.lookup (off / 64)) (off % 64 / 8)
  else if 0x18C00 ≤ off ∧ off < 0x18CC8 then
    BitVec.ofNat 64 ((List.range 64).map fun i => 2 ^ i * boolNat (m.slots.any fun x => x.1 == 8 * (off - 0x18C00) + i)).sum
  else if off = 0x18D08 then m.head.setWidth 64
  else if off = 0x18D10 then m.tail.setWidth 64
  else if off = 0x18D18 then m.lost.setWidth 64
  else if 0x19000 ≤ off ∧ off < 0x1D000 then
    let i := (off - 0x19000) / 64
    word ((List.range m.events.length).findSome? fun k =>
      if (m.head.toNat + 2 ^ 32 - 1 - k) % 256 = i then m.events[k]? else none) (off % 64 / 8)
  else 0
/-- A management core reads a word of its mailbox, and sees MEIP (R354). -/
def State.readMbox (s : State) (die off : Nat) : State :=
  match s.dev.mboxes[die]? with
  | none => s
  | some m => s.answers [m.read (off - off % 8), boolWord m.meip]
/-- FW_SWITCH (R359): tile `t` of plot `p`, or with `flag` the device tile `n` that no plot holds, goes over to the accepted image when no
service is open but those that a debugger holds. -/
def execFwSwitch (s : State) : Out :=
  match s.dev.svcNext with
  | none => .next s
  | some img =>
    let inForce (d : Device) : Device := { d with svcVer := img.version, svcSec := img.secVersion }
    let r (n : Nat) : Report := { cause := 0xB4, kind := 1, addr := BitVec.ofNat 64 n, info := img.version.setWidth 64 }
    if s.ev.flag then
      let x := s.dev.spareOf s.ev.n
      if !s.dev.hasTile s.ev.n ∨ (s.tileAt s.ev.n).isSome ∨ x.svc.stopped ∨ x.svc.svver = img.version then .next s
      else .next (s.modDev fun d => (inForce (d.setSpare { x with svc := { x.svc with svver := img.version } })).event (s.ev.n / 48)
        { r s.ev.n with time := BitVec.ofNat 64 d.time })
    else match (s.plot? s.ev.p).bind fun p => (p.tiles[s.ev.t]?).map fun t => (p, t) with
      | none => .next s
      | some (p, t) =>
        let open_ := t.svc.slots.any fun x => match x with
          | some r => r.taken.isSome && !(r.cause == 0x0B && p.debug)
          | none => false
        if open_ ∨ t.svc.stopped ∨ t.svc.svver = img.version then .next s
        else
          let s1 := s.modPlot s.ev.p fun p => p.modTile s.ev.t fun x => x.modSvc fun v => { v with svver := img.version }
          .next ((s1.modDev inForce).post s.ev.p s.ev.t (r t.num))

/-! The functions (R367, R391). -/

/-- A function's answer: the status, and what g1 to g3 receive. -/
structure SvcAns where
  status : Cause
  g1 : Option Word := none
  g2 : Option Word := none
  g3 : Option Word := none
  deriving DecidableEq, Repr
/-- The status alone. -/
def SvcAns.st (c : Cause) : SvcAns := { status := c }
/-- The request of slot `j` that a function serves (R351): it was taken with cause SVC, and `which` picks its function. A stopped service core
serves none. -/
def State.request (s : State) (which : Nat → Bool) : Option (Plot × SvRec × Core) :=
  match (s.plot? s.ev.p).bind fun p => (p.served s.ev.t s.ev.j).bind fun r =>
      (p.core? (32 * s.ev.t + s.ev.j)).map fun c => (p, r, c) with
  | none => none
  | some (p, r, c) => if r.taken.isNone ∨ r.cause ≠ 0x0C ∨ !which r.info.toNat ∨ (svcOf p s.ev.t).stopped then none else some (p, r, c)
/-- The answer of a function is written, and the record returns with SKIP (R351, R367). -/
def State.gives (s : State) (r : SvRec) (a : SvcAns) : State :=
  let g := r.rcd.g.set 0 (a.status.setWidth 64)
  let g := g.set 1 (a.g1.getD g[1])
  let g := g.set 2 (a.g2.getD g[2])
  let g := g.set 3 (a.g3.getD g[3])
  let r' : SvRec := { r with rcd := { r.rcd with g := g } }
  (s.modPlot s.ev.p fun p => p.modTile s.ev.t fun x => x.modSvc fun v => { v with slots := v.slots.set s.ev.j (some r') }).sret
    s.ev.p s.ev.t s.ev.j .skip
/-- Serves the request of slot `j`. -/
def serveSvc (s : State) (which : Nat → Bool) (k : Plot → Core → Rec → State × SvcAns) : Out :=
  match s.request which with
  | none => .next s
  | some (p, r, c) =>
    let (s1, a) := k p c r.rcd
    .next (s1.gives r a)
/-- The numbers that have a function. -/
def svcListed (n : Nat) : Bool := n ∈ [0x000, 0x010, 0x011, 0x012, 0x013, 0x014, 0x100, 0x101, 0x102]
/-- NULL (R367); an unlisted number returns SVC_FUNC. -/
def execNull (s : State) : Out :=
  serveSvc s (fun n => n == 0 || !svcListed n) fun p _ _ =>
    match (p.served s.ev.t s.ev.j).map fun r => r.info.toNat with
    | some 0 => (s, { status := 0, g1 := some ((svcOf p s.ev.t).svver.setWidth 64) })
    | _ => (s, .st 0x0A)
/-- A group is declared (R317, R318, R320): a CLU of tile t tells the other devices that it may span. -/
def State.declareGroup (s : State) (pid t : Nat) (g : Group) : State :=
  s.modPlot pid fun p =>
    ({ p with groups := p.groups ++ [g] } : Plot).tell s.dev t (p.hearers s.dev g) g (p.clock s.dev t) (.declare g) 0
/-- CLM_DECLARE with its arguments g1 to g5 (R318, R320, R367): the machine after it, and the status. -/
def State.clmDeclare (s : State) (pid t : Nat) (g1 g2 g3 nh g5 : Word) : State × Cause :=
  let gid := g1.toNat
  let n := g2.toNat
  let k := fld g5 2 0
  let span := g5.getLsbD 3
  let d := if span then 400 + 300 * k else 400
  let sk := if span then 100 else 20
  let w := if g3 = 0 then Config.defaultWindow d sk else g3.toNat
  if gid > 255 ∨ n = 0 ∨ n > 4096 ∨ fld g5 63 4 ≠ 0 ∨ (!span ∧ k ≠ 0) ∨ fld nh 62 48 ≠ 0 then (s, 0x01)
  else if (((s.plot? pid).bind fun p => p.group? gid)).isSome then (s, 0x82)
  else if w < 2 * d + 2 * sk ∨ w > 1000000 then (s, 0x84)
  else
    (s.declareGroup pid t ⟨gid, n, w, d, sk, if nh.getLsbD 63 then some (pcOf (fld nh 47 32) (fld nh 31 0)) else none, span, k, []⟩, 0)
/-- No declaration of a group is still on its way. -/
def Plot.declared (p : Plot) (gid : Nat) : Bool := !p.plane.any fun x => x.gid == gid && (match x.act with
  | .declare _ => true
  | _ => false)
/-- CLM_DECLARE (R318, R320, R367): it returns once the declaration has reached every device of the plot's job. -/
def execClmDeclare (s : State) : Out :=
  match s.request (· == 0x010) with
  | none => .next s
  | some (_, r, _) =>
    let w (i : Nat) : Word := r.rcd.word i
    let told (s : State) : Bool := ((s.plot? s.ev.p).map fun p => p.declared (w 1).toNat).getD true
    match r.begun with
    | some st => .next (if told s then s.gives r (.st st) else s)
    | none =>
      let (s1, st) := s.clmDeclare s.ev.p s.ev.t (w 1) (w 2) (w 3) (w 4) (w 5)
      if st ≠ 0 ∨ told s1 then .next (s1.gives r (.st st))
      else .next (s1.modPlot s.ev.p fun p => p.modTile s.ev.t fun x => x.modSvc fun v =>
        { v with slots := v.slots.set s.ev.j (some { r with begun := some st }) })
/-- A replica for a member that joins at a tile (R340): a live member's CLU of this device gives what it holds, and the messages on their way
to that CLU come to the new one as well; where live members are on other devices alone, their values come by a plane message; with no member
left every word starts at zero, and the marks of R334 stay. -/
def Plot.joinReplica (p : Plot) (g : Group) (t : Nat) : Plot :=
  let gid := g.gid
  if (g.here.any fun m => tileOf m.cid == t) && (p.replica? t gid).isSome then p
  else
    let old := p.tiles.findSome? fun x => x.clu.find? fun r => r.gid == gid
    let fresh : Replica := { gid := gid, vals := [], pend := [], decided := [], heard := [] }
    let give (p : Plot) (r : Replica) : Plot := p.modTile t fun x => { x with clu := r :: x.clu.filter fun y => y.gid != gid }
    match g.here.findSome? fun m => ((p.replica? (tileOf m.cid) gid).filter (·.synced)).map fun r => (tileOf m.cid, r) with
    | some (u, r) =>
      give { p with plane := p.plane.filter (fun x => !(x.gid == gid && x.dst == t)) ++
        (p.plane.filter fun x => x.gid == gid && x.dst == u && x.src != t).map fun x => { x with dst := t } } r
    | none =>
      if g.live.isEmpty then
        let zero (y : Replica) : Replica := if y.gid = gid then { y with vals := [] } else y
        give { p with tiles := p.tiles.map fun (x : Tile) => { x with clu := x.clu.map zero } }
          { fresh with roll := g.history, marks := (old.map fun r => r.marks).getD [] }
      else give p { fresh with synced := false }
/-- The join of a core at tile t has its values (R340): they have come, or no live member remains elsewhere that could give them. -/
def Plot.joined (p : Plot) (t gid : Nat) : Bool :=
  match p.group? gid, p.replica? t gid with
  | some g, some r => r.synced || !g.live.any fun m => m.dev.isSome
  | _, _ => true
/-- CLM_JOIN (R321, R322, R340, R367): the member's CLU sends a heartbeat at once, and the function returns once the CLU has its values. -/
def execClmJoin (s : State) : Out :=
  match s.request (· == 0x011) with
  | none => .next s
  | some (p, r, c) =>
    let gid := (r.rcd.word 1).toNat
    let done (s : State) : State :=
      if ((s.plot? s.ev.p).map fun p => p.joined s.ev.t gid).getD true then
        (s.modPlot s.ev.p fun p => p.modReplica s.ev.t gid fun y =>
          if y.synced then y else { y with synced := true, roll := y.roll ++ ((p.group? gid).map (·.history)).getD [] }).gives r (.st 0)
      else s.modPlot s.ev.p fun p => p.modTile s.ev.t fun x => x.modSvc fun v =>
        { v with slots := v.slots.set s.ev.j (some { r with begun := some 0 }) }
    if r.begun.isSome then .next (done s)
    else match p.group? gid with
    | none => .next (s.gives r (.st 0x81))
    | some g =>
      let i := (r.rcd.word 2).toNat
      if i ≥ g.size ∨ (g.live.any fun m => m.idx == i) ∨ (g.mine c.cid).isSome then .next (s.gives r (.st 0x82))
      else if g.live.any (g.beyond s.dev) then .next (s.gives r (.st 0x84))
      else
        let now := planeTime s p s.ev.t
        let m : Member := ⟨i, c.cid, c.lid, r.rcd.wid, 0, false, now, none⟩
        let s1 := s.modPlot s.ev.p fun p =>
          let p := ((p.joinReplica g s.ev.t).modGroup g.gid fun g => { g with members := m :: g.members.filter fun y => y.idx != i }).modReplica
            s.ev.t g.gid fun y => (y.learn ⟨i, now, .join⟩).hear i now
          p.tell s.dev s.ev.t (p.hearers s.dev g) g now (.join m) 0
        let g' := ((s1.plot? s.ev.p).bind fun p => p.group? g.gid).getD g
        .next (done (s1.speak s.ev.p s.ev.t g' now (.heartbeat i) 0))
/-- CLM_LEAVE (R367). -/
def execClmLeave (s : State) : Out :=
  serveSvc s (· == 0x012) fun p c r =>
    match (p.group? (r.word 1).toNat).bind fun g => (g.mine c.cid).map fun m => (g, m) with
    | none => (s, .st 0x81)
    | some (g, _) => (s.modPlot s.ev.p fun p => p.leaves s.dev g.gid fun m => m.cid == c.cid, .st 0)
/-- CLM_REMOVE (R334, R367): the absence mark is cleared at every CLU: at this tile's at once, at the others as they hear of it. -/
def execClmRemove (s : State) : Out :=
  serveSvc s (· == 0x013) fun p _ r =>
    match p.group? (r.word 1).toNat with
    | none => (s, .st 0x81)
    | some g =>
      let i := (r.word 2).toNat
      if !(g.members.any fun m => m.idx == i) then (s, .st 0x81)
      else
        (s.modPlot s.ev.p fun p =>
          let now := p.clock s.dev s.ev.t
          -- a tile that serves no member any more hears nothing by the plane
          let at_ (n : Nat) : Bool := n == s.ev.t || !g.tiles.contains n
          let p := p.modGroup g.gid fun g => g.modMembers (fun m => m.idx == i && !m.left) fun m => { m with left := true }
          let p := ((List.range p.tiles.length).filter at_).foldl (fun (p : Plot) n =>
            p.modReplica n g.gid fun y => y.learn ⟨i, now, .remove⟩) p
          p.tell s.dev s.ev.t (p.hearers s.dev g) g now (.remove i) 0, .st 0)
/-- CLM_DISSOLVE (R335, R367): the CLUs of other devices are told. -/
def execClmDissolve (s : State) : Out :=
  serveSvc s (· == 0x014) fun p _ r =>
    match p.group? (r.word 1).toNat with
    | none => (s, .st 0x81)
    | some g => (s.modPlot s.ev.p fun p =>
        (p.dissolve g.gid).tell s.dev s.ev.t ((p.hearers s.dev g).filter fun x => decide (2 ^ 16 ≤ x)) g (p.clock s.dev s.ev.t) .dissolve 0, .st 0)

/-- A device of the plot's job (R391). -/
def State.jobDev (s : State) (p : Plot) (d : Nat) : Bool := d == s.dev.fabNum || s.dev.peers.any fun x => x.dev == d && x.job == p.job
/-- COLL_ALLOC (R390, R391): of the free slot numbers the lowest is taken (DESIGN CHOICE, log 96: R391 names none). -/
def execCollAlloc (s : State) : Out :=
  serveSvc s (· == 0x100) fun p c r =>
    let op := (r.word 1).toNat
    let n := (r.word 2).toNat
    let us := (r.word 3).toNat
    let off := (r.word 4).toNat
    if op > 3 ∨ n = 0 ∨ n > 64 ∨ us = 0 ∨ us > 1000000 ∨ off + 4 * n > 0x38000 then (s, .st 0x01)
    else
      let devs := (List.range n).map fun i => c.lm.num (off + 4 * i) 4
      if devs.any fun d => !s.jobDev p d then (s, .st 0x01)
      else if (s.dev.slots.filter fun x => x.owner == s.ev.p && x.job == p.job).length ≥ p.swshare then (s, .st 0xA8)
      else match (List.range (s.dev.slots.length + 1)).find? fun i => (s.slot? i).isNone with
        | none => (s, .st 0xA8)
        | some i =>
          if i ≥ 4096 then (s, .st 0xA8)
          else
            ({ s.modDev fun d => { d with slots :=
                ⟨i, p.job, s.ev.p, op, devs, 1000 * us, 0, none, 0, none, s.fresh⟩ :: d.slots } with fresh := s.fresh + 1 },
             { status := 0, g1 := some (BitVec.ofNat 64 (i + 2 ^ 32)) })
/-- COLL_FREE (R391): waiting requests are answered 0xA8. -/
def execCollFree (s : State) : Out :=
  serveSvc s (· == 0x101) fun _ _ r =>
    let n := hSlot (r.word 1)
    match s.slot? n with
    | none => (s, .st 0xA8)
    | some x =>
      if x.owner ≠ s.ev.p then (s, .st 0xA8)
      else ((s.modDev fun d => { d with slots := d.slots.filter fun y => y.num != n }).answerColl n, .st 0)
/-- SHAPE (R18, R391). -/
def execShape (s : State) : Out :=
  serveSvc s (· == 0x102) fun _ _ r =>
    let die := (r.word 1).toNat
    if die > 7 then (s, .st 0x01)
    else
      let lanes (i : Nat) : Nat := ((s.dev.ports[i]?).map (·.lanes)).getD 0
      let hbm (i : Nat) : Nat := s.dev.hbm.getD (2 * die + i) 0
      (s, { status := 0, g1 := some (BitVec.ofNat 64 (s.dev.dieTiles.getD die 0)),
            g2 := some (BitVec.ofNat 64 ((List.range 16).map fun i => lanes i * 2 ^ (4 * i)).sum),
            g3 := some (BitVec.ofNat 64 (((List.range 8).map fun i => lanes (16 + i) * 2 ^ (4 * i)).sum + 2 ^ 32 * hbm 0 + 2 ^ 40 * hbm 1)) })

end Sys2Proof.Machine
end

