-- ==== Sys2Proof/Machine/Order.lean ====
section
/-! DEFINITION. The steps of the abstract machine as events (R172): Pass, Home, Apply, Drop, Arrive, the message context (R182),
Deliver (R181), and the retries of receiver-not-ready (R355). `p` names the plot, `c` a core, `t` a tile, `j` a place in a queue. -/
namespace Sys2Proof.Machine

/-! Pass. -/

/-- The parts of a store at some places, one for each 8-byte word (R177): those that `at_` gives a place, for the tile, peer and words
there; the first part in a line counts it, and the last one of a line that it covers whole is marked so (R358). -/
def storeParts (t : Tag) (rel : Option Scope) (peer : Nat) (xs : List (WByte × Nat)) : List HEntry :=
  let words := (xs.map fun x => x.2 / 8).eraseDups
  let full (l : Nat) : Bool := decide (((xs.filter fun x => x.2 / 64 == l && x.1.mask == 0xFF).map (·.2)).eraseDups.length = 64)
  (words.zip (List.range words.length)).map fun wi =>
    let ys := xs.filter fun x => x.2 / 8 == wi.1
    let l := wi.1 / 8
    { tags := [t], line := l, va := ((ys.head?.map fun x => x.1.va)).getD 0,
      act := .store (ys.map fun x => (x.2, x.1.val, x.1.mask)), rel := rel, tile := tileOf t.cid, peer := peer,
      counts := !(words.take wi.2).any fun v => v / 8 == l,
      whole := if !full l then 0 else if (words.drop (wi.2 + 1)).any fun v => v / 8 == l then 1 else 2 }
/-- The bytes of a store that lie in device memory, as TOQ entries (R172). -/
def homeParts (t : Tag) (rel : Option Scope) (bs : List WByte) : List HEntry :=
  storeParts t rel 0 (bs.filterMap fun b => match b.loc with
    | .dev a => some (b, a)
    | _ => none)
/-- The bytes of a store that lie in host memory (R187). -/
def hostParts (t : Tag) (bs : List WByte) : List HEntry :=
  storeParts t none 0 (bs.filterMap fun b => match b.loc with
    | .host a => some (b, a)
    | _ => none)
/-- The bytes of a store that lie at fabric peers, by device (R385). -/
def peerParts (t : Tag) (bs : List WByte) : List HEntry :=
  let xs : List (WByte × Nat × Nat) := bs.filterMap fun b => match b.loc with
    | .peer d a => some (b, d, a)
    | _ => none
  ((xs.map fun x => x.2.1).eraseDups).flatMap fun d =>
    storeParts t none d ((xs.filter fun x => x.2.1 == d).map fun x => (x.1, x.2.2))
/-- An operation of a DET launch is kept for the phase close (R53): it stands as received until then. -/
def Plot.hold (p : Plot) (l : Lid) (f : Launch → Launch) : Plot := p.modLaunch l fun x => f { x with recv := x.recv + 1 }
/-- The launch is deterministic. -/
def Plot.isDet (p : Plot) (l : Lid) : Bool := ((p.launch? l).map (·.det)).getD false
/-- A remote operation sets out, or is held (R53). -/
def Plot.setOut (p : Plot) (r : RemOp) : Plot :=
  if p.isDet r.tag.lid && !r.returns then p.hold r.tag.lid fun l => { l with heldOps := l.heldOps ++ [r] }
  else { p with paths := p.paths ++ [r] }
/-- The order number of a multicast: 1 when plain, the root's next number when rooted (R190, R211). -/
def Plot.mcMode (p : Plot) (rooted : Bool) : Nat := if rooted then p.roots + 2 else 1
/-- The scope at which an entry waits at the head of CT for the core's earlier accesses (R178, R179, R186, R291). -/
def passScope (e : Entry) : Option Scope :=
  match e.body with
  | .fence sc => some sc
  | .copy j => some (if j.cpy.isSome then .cluster else .die)
  | .mx _ => some .cluster
  | .mxRel _ => some .cluster
  | .tse o => (match o.act with
    | .st _ _ _ _ => some .package
    | .ld _ => some .package
    | .cancel _ _ => some .package
    | _ => none)
  | .store bs => (match e.rel with
    | none => none
    | some sc =>
      let away := bs.any fun b => match b.loc with
        | .dev _ => false
        | _ => true
      if away ∨ sc = .core ∨ sc = .cluster ∨ sc = .tile then some sc else none)
  | _ => none
/-- The command queue of the cluster's MXE has room (R12, R234). -/
def Plot.mxRoom (p : Plot) (c : CoreId) : Bool := ((p.mxes[clusterOf c]?).map fun m => decide (m.queue.length < 32)).getD false
/-- The command FIFO of a copy's CPY has room (R221): its depth is the implementation's. -/
def Plot.cpyRoom (p : Plot) (j : CopyJob) : Bool :=
  j.cpy.isNone || decide ((p.copies.filter fun y => y.cpy == j.cpy && !y.moved).length < Config.cpyDepth + 1)
/-- Whether the head of CT may pass now. -/
def canPass (p : Plot) (c : Core) (e : Entry) : Bool :=
  (match passScope e with
   | some sc => !notPerformed p c e.tag.ord sc
   | none => true)
  && (match e.body with
      | .mx _ => p.mxRoom c.cid
      | .mxRel _ => p.mxRoom c.cid
      | .copy j => p.cpyRoom j
      | _ => true)
/-- Where an entry goes (R172). -/
def passTo (s : State) (pid : Nat) (e : Entry) : State :=
  let t := e.tag
  match e.body with
  | .store bs =>
    let s := s.modPlot pid fun p => p.modTile (tileOf t.cid) fun x => { x with toq := x.toq ++ homeParts t e.rel bs }
    let s := (peerParts t bs).foldl (fun (s : State) h => s.toFabric pid h) s
    (hostParts t bs).foldl (fun s h => s.toHost pid (.mem h)) s
  | .atom o wide u va loc b cmp returns =>
    let ent (a : Nat) (act : HAct) (d : Nat) : HEntry :=
      { tags := [t], line := lineOf a, va := va, act := act, tile := tileOf t.cid, peer := d }
    (match loc with
     | .dev a => s.modPlot pid fun p => p.modTile (tileOf t.cid) fun x =>
         { x with toq := x.toq ++ [ent a (if returns then .atom o wide u a b cmp true else .red o wide u a b) 0] }
     | .host a =>
       let h := ent a (.atom o wide u a b cmp returns) 0
       if returns then s.modPlot pid fun p => { p with link := p.link ++ [.mem h] } else s.toHost pid (.mem h)
     | .peer d a => s.toFabric pid (ent a (.atom o wide u a b cmp returns) d))
  | .remote r => s.modPlot pid fun p => p.setOut r
  | .msg dst m => s.modPlot pid fun p => { p with flights := p.flights ++ [{ dst := dst, msg := m, byCore := true }] }
  | .mcast dsts m rooted => s.modPlot pid fun p =>
      { p with flights := p.flights ++ dsts.map fun d =>
                 { dst := d, msg := { m with acq := some (p.pairScope t.cid d) }, mode := p.mcMode rooted, byCore := true },
               roots := p.roots + boolNat rooted }
  | .mcastSt dsts r rooted => s.modPlot pid fun p =>
      { dsts.foldl (fun (q : Plot) d => q.setOut { r with dst := d, mode := p.mcMode rooted }) p with
        roots := p.roots + boolNat rooted }
  | .copy j => s.modPlot pid fun p => { p with copies := p.copies ++ [j] }
  | .mx j => s.modPlot pid fun p => p.modMxe (clusterOf t.cid) fun m => { m with queue := m.queue ++ [.job j] }
  | .mxRel mask => s.modPlot pid fun p => p.modMxe (clusterOf t.cid) fun m => { m with queue := m.queue ++ [.rel t mask] }
  | .tse o => s.modPlot pid fun p =>
      if o.det then
        let x : Nat := if e.sends = 0 then 0 else 1
        p.modLaunch t.lid fun l => { l with heldTse := l.heldTse ++ [o], recv := l.recv + x }
      else { p with tseq := p.tseq ++ [o] }
  | .claim c => s.modPlot pid fun p => { p with claims := p.claims ++ [c] }
  | .objection w gid m => s.takeObjection pid t w gid m
  | .hostq n ws => s.modPlot pid fun p => { p with hqIn := p.hqIn ++ [(n, t, ws)] }
  | .spawn ws => s.modPlot pid fun p =>
      if p.isDet t.lid then p.hold t.lid fun l => { l with heldSpawns := l.heldSpawns ++ [(t, ws)] }
      else { p with spawns := p.spawns ++ [(t, ws)] }
  | .collRed h v => s.modPlot pid fun p => { p with collIn := p.collIn ++ [(t, h, v)] }
  | .collRes h off pc a0 a1 a2 a3 htop cls => s.modPlot pid fun p =>
      { p with collReqs := p.collReqs ++ [⟨t, h, off, pc, a0, a1, a2, a3, htop, cls, false⟩] }
  | .fence _ => s
/-- The core that an event names: core `c`, or, with `flag`, the service core of tile `t`. -/
def Plot.named (p : Plot) (a : EvArgs) : Option Core := if a.flag then p.ctx? (svcCid a.t) else p.core? a.c
/-- Changes the core that an event names. -/
def Plot.modNamed (p : Plot) (a : EvArgs) (f : Core → Core) : Plot := if a.flag then p.modCtx (svcCid a.t) f else p.modCore a.c f
/-- PASS (R172): the head of CT of core `c`, or, with `flag`, of the service core of tile `t`, passes on. -/
def execPass (s : State) : Out :=
  match (s.plot? s.ev.p).bind fun p => (p.named s.ev).bind fun c => c.ct.head?.map fun e => (p, c, e) with
  | none => .next s
  | some (p, c, e) =>
    .next (if canPass p c e then passTo (s.modPlot s.ev.p fun p => p.modNamed s.ev fun c => { c with ct := c.ct.drop 1 }) s.ev.p e else s)

/-! Home, Apply, Drop. -/

/-- The words of two reductions overlap. -/
def Red.meets (x y : Red) : Bool := decide (x.a < y.a + aopSize y.wide ∧ y.a < x.a + aopSize x.wide)
/-- A reduction joins those of an entry (R184): one of the same operation on the same word takes it into its operand, with one rounding
for a floating sum, unless a later one of another kind meets that word; else it stands behind them. -/
def mergeReds (n : Red) : List Red → List Red
  | [] => [n]
  | x :: xs =>
    if x.o = n.o ∧ x.wide = n.wide ∧ x.u = n.u ∧ x.a = n.a ∧ !xs.any (·.meets n) then
      { x with b := BitVec.ofNat 64 (aopNew x.o x.wide x.u (aopArg x.wide x.b) (aopArg n.wide n.b) 0) } :: xs
    else x :: mergeReds n xs
/-- The reductions of an entry, none for another act. -/
def HAct.reds? (a : HAct) : Option (List Red) :=
  match a with
  | .red o w u a b => some [⟨o, w, u, a, b⟩]
  | .reds rs => some rs
  | _ => none
/-- The act of a reduction entry. -/
def redAct (rs : List Red) : HAct :=
  match rs with
  | [r] => .red r.o r.wide r.u r.a r.b
  | _ => .reds rs
/-- A `red` merges into a reduction entry (R184). -/
def mergeRed (e : HEntry) (n : HEntry) : Option HEntry :=
  match e.act.reds?, n.act with
  | some rs, .red o w u a b => some { e with tags := e.tags ++ n.tags, act := redAct (mergeReds ⟨o, w, u, a, b⟩ rs) }
  | _, _ => none
/-- An entry joins WQ: a `red` merges into a reduction entry that is the youngest of its line (R184). -/
def Plot.joinHome (p : Plot) (n : HEntry) : Plot :=
  let i := (List.range p.wq.length).reverse.find? fun i => ((p.wq[i]?).map fun e => e.line == n.line).getD false
  match i.bind fun i => ((p.wq[i]?).bind fun e => mergeRed e n).map fun e => (i, e) with
  | some (i, e) => { p with wq := p.wq.set i e }
  | none => { p with wq := p.wq ++ [n] }
/-- A store updates its bytes in its tile's copy; an atomic or reduction drops the copy (R172). -/
def Tile.homed (t : Tile) (e : HEntry) : Tile :=
  match e.act with
  | .store bs =>
    { t with tc := t.tc.map fun x => if x.1 = e.line then
        (x.1, bs.foldl (fun (l : List Byte) b => l.modify (b.1 % 64) fun old => (old &&& ~~~b.2.2) ||| (b.2.1 &&& b.2.2)) x.2) else x }
  | _ => { t with tc := t.tc.filter fun x => x.1 != e.line }
/-- An earlier access of the core of an operation is not yet performed at a scope (R173). -/
def Plot.waitsFor (p : Plot) (t : Tag) (sc : Scope) : Bool := ((p.ctx? t.cid).map fun c => notPerformed p c t.ord sc).getD false
/-- HOME (R172, R178): entry `j` of the TOQ of tile `t`. -/
def execHome (s : State) : Out :=
  match (s.plot? s.ev.p).bind fun p => (p.tiles[s.ev.t]?).bind fun t => (t.toq[s.ev.j]?).map fun e => (p, t, e) with
  | none => .next s
  | some (p, t, e) =>
    let older := (t.toq.take s.ev.j).any fun x => x.line == e.line
    let held : Bool := match e.rel with
      | none => false
      | some sc => e.tags.any fun g => p.waitsFor g sc
    if older ∨ held then .next s
    else
      let pj := if e.isStore && e.counts && t.tc.any fun x => x.1 == e.line then 60 else 0
      let s1 := s.modPlot s.ev.p fun p =>
        let p := p.modTile s.ev.t fun t => ({ t with toq := t.toq.eraseIdx s.ev.j } : Tile).homed e
        (e.tags.head?.elim p fun g => p.spendFor g pj).joinHome e
      .next (if e.isStore then s1.wakeGlob s.ev.p e.act.touches else s1)
/-- APPLY (R172): entry `j` of WQ, with no older entry for its line, is applied. -/
def execApply (s : State) : Out :=
  match (s.plot? s.ev.p).bind fun p => (p.wq[s.ev.j]?).map fun e => (p, e) with
  | none => .next s
  | some (p, e) =>
    if (p.wq.take s.ev.j).any fun x => x.line == e.line then .next s
    else .next ((s.modPlot s.ev.p fun p => { p with wq := p.wq.eraseIdx s.ev.j }).applyHome s.ev.p e)
/-- DROP (R172): tile `t` loses its copy of line `n`. -/
def execDrop (s : State) : Out :=
  .next (s.modPlot s.ev.p fun p => p.modTile s.ev.t fun t => { t with tc := t.tc.filter fun x => x.1 != s.ev.n })

/-! Receiver-not-ready (R355). -/

/-- The LM-window address of an offset of a core (R139). -/
def window (c : CoreId) (off : Nat) : Word := BitVec.ofNat 64 (0xF000000000000000 + c.toNat * 2 ^ 18 + off)
/-- An operation ends without being executed: a returning one fails at its stint, another is reported, and it counts as received
(R130, R198, R355). -/
def State.endOp (s : State) (pid : Nat) (r : RemOp) (cause : Cause) (addr info : Word) : State :=
  let s := if r.returns then s.fail pid r.tag cause addr info else s.postTag pid r.tag cause addr info
  s.modPlot pid fun p => p.discard r.tag
/-- A returning operation is retried: its stint is paused as at service (R355). -/
def State.paused (s : State) (pid : Nat) (t : Tag) : State :=
  s.modPlot pid fun p => p.modCtx t.cid fun c => if c.awaits t then c.setSt 38 1 1 else c
/-- A returning operation that was retried has been taken: its stint is paused no more (R355). -/
def State.unpaused (s : State) (pid : Nat) (t : Tag) : State :=
  s.modPlot pid fun p => p.modCtx t.cid fun c => if c.awaits t then c.setSt 38 1 0 else c
/-- A refused operation: what remains of it, if its tries are not used up (R355). -/
def State.refused (s : State) (pid : Nat) (r : RemOp) : State × Option RemOp :=
  let lim := ((s.plot? pid).map (·.rtries)).getD 20
  if r.tries + 1 ≥ lim then (s.endOp pid r 0x40 (r.dst.setWidth 64) (BitVec.ofNat 64 (r.tries + 1)), none)
  else
    (if r.returns then s.paused pid r.tag else s,
     some { r with tries := r.tries + 1, nextTry := s.dev.time + rnrWait (r.tries + 1) })
/-- The path of a remote operation: the bank of its offset; ring deliveries have a path of their own (R171). -/
def RemOp.bank (r : RemOp) : Nat :=
  match r.act with
  | .ring _ _ => 8
  | _ => bankOf r.off
/-- An operation stands behind another on its path, behind an earlier plain copy of its source, or behind an earlier rooted copy
(R174, R190). -/
def RemOp.behind (r x : RemOp) : Bool :=
  x.dst == r.dst && ((x.tag.cid == r.tag.cid && (x.bank == r.bank || decide (x.mode = 1 ∧ r.mode = 1)))
    || decide (2 ≤ x.mode ∧ x.mode < r.mode))
/-- A plain message copy that its source sent earlier than a plain store copy to the same member (R190). -/
def Flight.ahead (f : Flight) (r : RemOp) : Bool :=
  f.dst == r.dst && f.byCore && f.msg.tag.cid == r.tag.cid && decide (f.mode = 1 ∧ r.mode = 1 ∧ f.msg.tag.ord < r.tag.ord)
/-- A plain store copy that its source sent earlier than a plain message copy to the same member (R190). -/
def RemOp.ahead (r : RemOp) (f : Flight) : Bool :=
  r.dst == f.dst && f.byCore && r.tag.cid == f.msg.tag.cid && decide (r.mode = 1 ∧ f.mode = 1 ∧ r.tag.ord < f.msg.tag.ord)
/-- Path entry j tries to join its target's MQ. -/
def tryArrive (s : State) (retry : Bool) : Out :=
  match (s.plot? s.ev.p).bind fun p => (p.paths[s.ev.j]?).map fun r => (p, r) with
  | none => .next s
  | some (p, r) =>
    let early := (p.paths.take s.ev.j).any (r.behind ·)
      || (p.flights.any fun f => f.ahead r || f.dst == r.dst && decide (2 ≤ f.mode ∧ f.mode < r.mode))
    -- a ring delivery waits for the sender's earlier accesses (R181, R209)
    let gated : Bool := match r.act with
      | .ring _ _ => p.waitsFor r.tag (p.pairScope r.tag.cid r.dst)
      | _ => false
    if early ∨ gated ∨ (decide (r.tries ≠ 0) != retry) ∨ s.dev.time < r.nextTry then .next s
    else if ((p.core? r.dst.toNat).map fun c => decide (c.mq.length < 16)).getD false then
      .next ((if r.returns && retry then s.unpaused s.ev.p r.tag else s).modPlot s.ev.p fun p =>
        { p with paths := p.paths.eraseIdx s.ev.j }.modCore r.dst.toNat fun c => { c with mq := c.mq ++ [r] })
    else
      match s.refused s.ev.p r with
      | (s1, none) => .next (s1.modPlot s.ev.p fun p => { p with paths := p.paths.eraseIdx s.ev.j })
      | (s1, some r') => .next (s1.modPlot s.ev.p fun p => { p with paths := p.paths.set s.ev.j r' })
/-- ARRIVE (R172): entry `j` of the remote-LM paths. -/
def execArrive (s : State) : Out := tryArrive s false

/-! The message context (R182). -/

/-- The bytes of the bank step. -/
def RemAct.size : RemAct → Nat
  | .load n => n
  | .store bs => bs.length
  | .atom _ wide _ _ _ => aopSize wide
  | _ => 0
/-- The LM bytes that an operation touches on its target: the first and how many; a ring delivery its slot at TAIL (R149). -/
def RemOp.span (c : Core) (r : RemOp) : Nat × Nat :=
  match r.act with
  | .ring q _ =>
    let g := c.q[q]
    if g.v then (g.slotAt g.tail.toNat, g.bytes) else (0, 0)
  | _ => (r.off, r.act.size)
/-- The first bytes of an operation in each 8-byte word that it touches. -/
def RemOp.touched (c : Core) (r : RemOp) : List Nat :=
  let (o, n) := r.span c
  (List.range (wordsOf o n)).map fun i => if i = 0 then o else (o / 8 + i) * 8
/-- The banks that an operation addresses (R163). -/
def RemOp.banks (c : Core) (r : RemOp) : BitVec 8 := (r.touched c).foldl (fun b a => b ||| BitVec.ofNat 8 (2 ^ bankOf a)) 0
/-- Two operations go from one source to one bank, or one ring delivery path, of a target, the first of them issued earlier (R174). -/
def RemOp.before (x r : RemOp) : Bool := x.dst == r.dst && x.tag.cid == r.tag.cid && x.bank == r.bank && decide (x.tag.ord < r.tag.ord)
/-- A ring delivery that its ring refused goes back to its path, behind the earlier ones of its source (R174, R209). -/
def putBack (r : RemOp) (xs : List RemOp) : List RemOp :=
  let n := ((List.range xs.length).filter fun i => ((xs[i]?).map fun x => x.before r).getD false).foldl (fun m i => max m (i + 1)) 0
  xs.take n ++ r :: xs.drop n
/-- The energy of the LM words that an operation reads and writes (R47). -/
def RemOp.pj (c : Core) (r : RemOp) : Nat :=
  let (o, n) := r.span c
  match r.act with
  | .claim _ _ _ _ => 5
  | .kill _ _ _ => 5
  | .query _ _ _ => 5
  | .atom _ _ _ _ _ => 2 * lmPj o n
  | _ => lmPj o n
/-- The operation conflicts with a live hand-off (R130). -/
def Core.conflicts (c : Core) (r : RemOp) : Option CoreId :=
  match c.retain with
  | none => none
  | some (succ, banks) =>
    if (r.touched c).any (fun x => banks.getLsbD (bankOf x)) && r.tag.cid != succ && r.tag.cid != c.cid then some succ else none
/-- Whether an operation on a bad LM word fails (R143, R358): a store of whole words is applied. -/
def RemOp.meetsBad (c : Core) (r : RemOp) : Bool :=
  lmBad c r.off r.act.size && (match r.act with
    | .store bs => !(r.off % 8 == 0 && bs.length % 8 == 0)
    | _ => true)
/-- One operation executes on its target: the target core after it, and what it returns. -/
def Core.serve (c : Core) (r : RemOp) : Core × List Word :=
  let slab (slot : Nat) (f : Slot → Word × Slot) : Core × List Word :=
    let (w, x) := f ((c.slab[slot]?).getD {})
    (c.modSlot slot fun _ => x, [w])
  match r.act with
  | .load n => (c, [BitVec.ofNat 64 (c.lm.num r.off n)])
  | .store bs => (c.store r.off bs, [])
  | .atom o wide u b cmp =>
    let n := aopSize wide
    let old := c.lm.num r.off n
    (c.store r.off (leBytes n (aopNew o wide u old (aopArg wide b) (aopArg wide cmp))), [BitVec.ofNat 64 old])
  | .ring q ws => (c.ringPush q (wordsBytes ws), [])
  | .claim slot gen kind vec => slab slot fun x => let (e, y) := x.claim r.tag.lid gen kind vec; (e.setWidth 64, y)
  | .kill slot gen kind => slab slot fun x => let (e, y) := x.kill r.tag.lid gen kind; (e.setWidth 64, y)
  | .query slot gen kind => slab slot fun x => (x.query r.tag.lid gen kind, x)
/-- Banks that are powered down wake with zeros, and LM_BANK_OFF is posted for each, with the core that holds it as the core concerned
(R35, R348, R368). -/
def State.wakeBanks (s : State) (pid i : Nat) (c : Core) (r : RemOp) : State :=
  (r.touched c).foldl (fun (s : State) a =>
    let b := bankOf a
    let off := (((s.plot? pid).bind fun p => p.core? i).map fun c => c.bankOff.getLsbD b).getD false
    if !off then s
    else
      (s.modPlot pid fun p => p.modCore i fun c => { c with bankOff := c.bankOff &&& ~~~(BitVec.ofNat 8 (2 ^ b)) }).post
        pid (tileOf r.tag.cid)
        { cause := 0x24, kind := 1, cid := c.cid, lid := r.tag.lid, msgid := r.tag.ident, addr := window c.cid a,
          info := r.tag.cid.setWidth 64, wid := r.tag.wid }) s
/-- The message context of core i counts energy for an operation (R47); what a service core causes counts for no launch. -/
def State.spendAt (s : State) (pid i : Nat) (t : Tag) (pj : Nat) : State :=
  if isSvcCid t.cid then s else s.modPlot pid fun p => p.modCore i fun c => c.modCount t.lid fun x => { x with pj := x.pj + pj }
/-- A remote operation executes on its target core (R130, R182, R209): it fails, is refused by a full ring and goes back to its path,
where a later delivery of its source to that ring follows it untried, or is done. DESIGN CHOICE (log 96): a ring delivery of a DET
launch that finds its ring full at the phase close is tried again in plane time, during the phase that follows. -/
def State.contextRun (s : State) (pid : Nat) (r : RemOp) : State :=
  let i := r.dst.toNat
  match (s.plot? pid).bind fun p => (p.core? i).map fun c => (p, c) with
  | none => s
  | some (p, c) =>
    let s := s.spendAt pid i r.tag 20
    match c.conflicts r with
    | some succ => s.endOp pid r 0x52 (window c.cid (r.span c).1) (succ.setWidth 64)
    | none =>
      let run : State :=
        let s1 := ((s.spendAt pid i r.tag (r.pj c)).wakeBanks pid i c r).modPlot pid fun p => p.modCore i fun c =>
          { (c.serve r).1 with msgBank := some (c.cyc.toNat, r.banks c) }.modCount r.tag.lid fun x => { x with recv := x.recv + 1 }
        if r.returns then s1.reply pid r.tag (c.serve r).2 else s1
      match r.act with
      | .ring q _ =>
        if p.paths.any (·.before r) then s.modPlot pid fun p => { p with paths := putBack r p.paths }
        else if !c.q[q].v then s.endOp pid r 0x55 0 (BitVec.ofNat 64 q.val)
        else if c.q[q].fill = 2 ^ c.q[q].cnt then
          match s.refused pid r with
          | (s1, none) => s1
          | (s1, some r') => s1.modPlot pid fun p => { p with paths := putBack r' p.paths }
        else run
      | _ =>
        if r.meetsBad c then
          let syn := Config.freeWord r.off 0
          (((s.spendAt pid i r.tag (lmPj r.off r.act.size)).wakeBanks pid i c r).endOp pid r 0x23 (window c.cid r.off) syn).log
            (some pid) 0x23 0 i r.tag.lid.toNat (window c.cid r.off) syn
        else run
/-- MESSAGE_CONTEXT_EXECUTE (R182): the head of MQ of core `c` executes. -/
def execMessageContextExecute (s : State) : Out :=
  match (s.plot? s.ev.p).bind fun p => (p.core? s.ev.c).bind fun c => c.mq.head? with
  | none => .next s
  | some r => .next ((s.modPlot s.ev.p fun p => p.modCore s.ev.c fun c => { c with mq := c.mq.drop 1 }).contextRun s.ev.p r)

/-! Deliver (R181). -/

/-- A message stands behind another on its way (R181, R190): of the same core to the same target, or an earlier rooted copy. -/
def Flight.behind (f x : Flight) : Bool :=
  x.dst == f.dst && ((f.byCore && x.byCore && x.msg.tag.cid == f.msg.tag.cid) || decide (2 ≤ x.mode ∧ x.mode < f.mode))
/-- A claim's outcome message ends its claim when it is enqueued or discarded (R329, R339). -/
def Plot.claimEnds (p : Plot) (m : Msg) : Plot :=
  match m.body with
  | .data _ _ _ _ _ _ _ _ _ _ => if m.src = 0x3FFC then { p with claims := p.claims.filter fun q => q.tag != m.tag } else p
  | _ => p
/-- The token that a resume message names (R270). -/
def Msg.token (m : Msg) (dst : CoreId) : Word :=
  match m.body with
  | .resume slot gen kind _ => tokenOf dst slot kind.toNat gen m.lid
  | _ => 0
/-- A resume message finds its continuation (R271), or its parked runner; another message always may enter. -/
def Plot.current (p : Plot) (dst : Nat) (m : Msg) : Bool :=
  match m.body with
  | .resume slot gen kind _ => (((p.core? dst).bind fun c => c.slab[slot]?).map fun x =>
      x.gen == gen && x.kind == kind && x.lid == m.lid
        && (if kind = 0 then x.state == 2 else if kind = 1 then x.state == 1 || x.state == 3 else x.state == 1)).getD false
  | _ => true
/-- A message enters its target (R43, R45, R330): a notice counts as sent there too. -/
def Plot.lands (p : Plot) (dst : Nat) (m : Msg) : Plot :=
  let p := p.receive dst m
  let p := match m.body with
    | .notice _ _ _ _ _ _ _ _ => p.modCore dst fun c => c.sentOne m.lid
    | _ => p
  p.claimEnds m
/-- Message j in transit tries to enter its target's run queue. Of an answer that is not for a DET launch, each word that it writes to
LM is a step of its own before that (R300, R335). -/
def tryDeliver (s : State) (retry : Bool) : Out :=
  match (s.plot? s.ev.p).bind fun p => (p.flights[s.ev.j]?).map fun f => (p, f) with
  | none => .next s
  | some (p, f) =>
    let early := (p.flights.take s.ev.j).any (f.behind ·) || p.paths.any (·.ahead f)
      || (decide (2 ≤ f.mode) && ((p.paths.any fun x => x.dst == f.dst && decide (2 ≤ x.mode ∧ x.mode < f.mode))
        || p.cores.any fun c => c.cid == f.dst && c.mq.any fun x => decide (2 ≤ x.mode ∧ x.mode < f.mode)))
    let gated := f.byCore && p.waitsFor f.msg.tag (p.pairScope f.msg.tag.cid f.dst)
    -- an answer to a launch in a suspended image comes at resume (R56)
    let asleep := p.susp == .taken && ((p.image.map (·.launches)).getD []).any fun l => l.lid == f.msg.lid
    if early ∨ gated ∨ asleep ∨ (decide (f.tries ≠ 0) != retry) ∨ s.dev.time < f.nextTry then .next s
    else
      let gone : Plot → Plot := fun p => { p with flights := p.flights.eraseIdx s.ev.j }
      if !p.current f.dst.toNat f.msg then
        .next ((s.modPlot s.ev.p fun p => (gone p).dropMsg f.msg).postMsg s.ev.p f.msg 0x61 0 (f.msg.token f.dst))
      else if (p.launch? f.msg.lid).isNone ∧ !isSvcCid f.msg.tag.cid then .next (s.modPlot s.ev.p fun p => (gone p).claimEnds f.msg)
      else
        let det := p.isDet f.msg.lid
        match (if det then none else payNext f.msg.pay) with
        | some (x, rest) =>
          .next (s.modPlot s.ev.p fun p => { p.modCore f.dst.toNat (·.payWord f.msg.lid x) with
            flights := p.flights.set s.ev.j { f with msg := { f.msg with pay := rest } } })
        | none =>
          if !det && ((p.core? f.dst.toNat).map fun c => c.queueFull f.msg).getD true then
            if f.tries + 1 ≥ p.rtries then
              .next ((s.modPlot s.ev.p fun p => ((gone p).dropMsg f.msg).claimEnds f.msg).postMsg s.ev.p f.msg 0x44 (f.dst.setWidth 64) 0)
            else
              let f' : Flight := { f with tries := f.tries + 1, nextTry := s.dev.time + rnrWait (f.tries + 1) }
              .next (s.modPlot s.ev.p fun p => { p with flights := p.flights.set s.ev.j f' })
          else .next (s.modPlot s.ev.p fun p => (gone p).lands f.dst.toNat f.msg)
/-- DELIVER (R181, R381): message `j` in transit; with `flag`, a packet of plot `n` reaches tile `t` of plot `p` for core `c`, and
is dropped there when the plots differ. -/
def execDeliver (s : State) : Out :=
  if s.ev.flag then
    .next (if s.ev.n = s.ev.p then s
      else (s.post s.ev.p s.ev.t { cause := 0xB0, kind := 1, addr := BitVec.ofNat 64 s.ev.c, info := BitVec.ofNat 64 s.ev.n }).log
        (some s.ev.p) 0xB0 ((Config.freeWord s.fresh 2).toNat % 16) s.ev.t 0 (BitVec.ofNat 64 s.ev.c) (BitVec.ofNat 64 s.ev.n))
  else tryDeliver s false
/-- A returning atomic that waits on the link of a lost host is tried again (R355, R392). -/
def retryHost (s : State) : Out :=
  match (s.plot? s.ev.p).bind fun p => (p.link[s.ev.j]?).map fun x => (p, x) with
  | some (p, .mem e) =>
    if !s.dev.hostlost ∨ !e.act.returns ∨ s.dev.time < e.nextTry then .next s
    else if e.tries + 1 ≥ p.rtries then
      .next ((e.tags.foldl (fun (s : State) t => s.fail s.ev.p t 0x40 (BitVec.ofNat 64 e.va) (BitVec.ofNat 64 (e.tries + 1))) s).modPlot
        s.ev.p fun p => { p with link := p.link.eraseIdx s.ev.j })
    else
      let e' : HEntry := { e with tries := e.tries + 1, nextTry := s.dev.time + rnrWait (e.tries + 1) }
      .next ((e.tags.foldl (fun (s : State) t => s.paused s.ev.p t) s).modPlot s.ev.p fun p => { p with link := p.link.set s.ev.j (.mem e') })
  | _ => .next s
/-- The first resume of core `c`'s own that its full run queue refused is tried again (R43, R355). -/
def retryLate (s : State) : Out :=
  match (s.plot? s.ev.p).bind fun p => (p.core? s.ev.c).bind fun c => c.late.head?.map fun f => (p, c, f) with
  | none => .next s
  | some (p, c, f) =>
    let gone : Core → Core := fun c => { c with late := c.late.drop 1 }
    if s.dev.time < f.nextTry then .next s
    else if !p.current s.ev.c f.msg then
      .next ((s.modPlot s.ev.p fun p => (p.modCore s.ev.c gone).dropMsg f.msg).postMsg s.ev.p f.msg 0x61 0 (f.msg.token f.dst))
    else if c.queueFull f.msg then
      if f.tries + 1 ≥ p.rtries then
        .next ((s.modPlot s.ev.p fun p => (p.modCore s.ev.c gone).dropMsg f.msg).postMsg s.ev.p f.msg 0x44 (f.dst.setWidth 64) 0)
      else
        let f' : Flight := { f with tries := f.tries + 1, nextTry := s.dev.time + rnrWait (f.tries + 1) }
        .next (s.modPlot s.ev.p fun p => p.modCore s.ev.c fun c => { c with late := f' :: c.late.drop 1 })
    else .next (s.modPlot s.ev.p fun p =>
      { p.modCore s.ev.c fun c => (gone c).enqueue c.cyc.toNat p.enqs f.msg with enqs := p.enqs + 1 })
/-- RNR_RETRY (R355): `n` is 0 for a remote-LM path, 1 for a message, 2 for the host link, 3 for a core's own resumes. -/
def execRnrRetry (s : State) : Out :=
  match s.ev.n with
  | 0 => tryArrive s true
  | 1 => tryDeliver s true
  | 3 => retryLate s
  | _ => retryHost s

end Sys2Proof.Machine
end

