-- ==== Sys2Proof/Machine/Stint.lean ====
section
/-! DEFINITION. The start of a stint (R21, R22, R44): which message a core selects and the state that it sets; and the watchdog of the
budget (R31). -/
namespace Sys2Proof.Machine

/-- The effective class of a message in a core's queue (R44). -/
def Plot.effClass (p : Plot) (c : Core) (m : Msg) : Int :=
  if m.cls = 0 then 0
  else
    let e : Int := boolNat (((p.launch? m.lid).map (·.demoted)).getD false)
    let a : Int := max 0 (((c.cyc.toNat : Int) - m.enq) / 65536)
    max 1 (min 3 ((m.cls.toNat : Int) + e - a))
/-- One message is selected before another: by effective class, enqueue cycle, sender CID, and then the enqueue itself (R44). -/
def Plot.first (p : Plot) (c : Core) (a b : Msg) : Bool :=
  let x := p.effClass c a
  let y := p.effClass c b
  decide (x < y) || (decide (x = y) && (decide (a.enq < b.enq) || (decide (a.enq = b.enq) &&
    (decide (a.src.toNat < b.src.toNat) || (decide (a.src = b.src) && decide (a.enqNo < b.enqNo))))))
/-- The plot lets a message start a stint: a suspension lets only deterministic launches go on, to the end of their phase (R55). -/
def Plot.lets (p : Plot) (m : Msg) : Bool :=
  match p.susp with
  | .no => true
  | .pausing => p.isDet m.lid
  | .taken => false
/-- The message that a free core takes, and the core without it: one that an abort returned first (R29), else by R44. DESIGN CHOICE (log 99):
while a suspension pauses and that first message is of a launch that is not deterministic, the core starts no stint at all. -/
def Plot.select (p : Plot) (c : Core) : Option (Msg × Core) :=
  match c.back with
  | some m => if p.lets m then some (m, { c with back := none }) else none
  | none =>
    match (c.runq.filter p.lets) with
    | [] => none
    | m0 :: rest =>
      let m := rest.foldl (fun (a b : Msg) => if p.first c b a then b else a) m0
      some (m, { c with runq := c.runq.erase m })
/-- The registers of a fresh stint at a handler: ST of R22, the first general registers as given, the others 0. -/
def Core.atHandler (c : Core) (p : Plot) (m : Msg) (pc htop wid : Word) (gs : List Word) : Core :=
  { c with g := Vector.ofFn fun i => gs.getD i.val 0, obj := BitVec.ofNat 16 (fld pc 47 32), off := BitVec.ofNat 32 (fld pc 31 0),
           st := freshSt (p.isDet m.lid) m.cls, htop := htop, wid := wid }
/-- The value that a resume message brings (R242, R279). -/
def Core.takeResume (c : Core) (x : Slot) (l : Lid) (how : ResumeHow) : Core :=
  match how with
  | .parked => c
  | .mxStatus d id => c.setG d ((((c.count l).jdone.find? fun y => y.1 == id).map (·.2)).getD 0xFFFFFFFFFFFFFFFF)
  | .scalar v => if x.dv then { c with g := Vector.ofFn fun i => if i.val = x.dreg then v else c.g[i] } else c
  | .vector v t =>
    if x.dv then
      { c with v := Vector.ofFn fun i => if i.val = x.dreg then
          setLanes t.width c.v[i] ((List.range t.lanes).map fun j =>
            if x.mask.getLsbD j then some (v.toNat / 2 ^ (t.width * j) % 2 ^ t.width) else none)
        else c.v[i] }
    else c
/-- What a resumed stint leaves of its slot (R132, R271); RESUMES saturates (R267). -/
def Slot.resumed (x : Slot) : Slot :=
  if x.kind = 1 then
    let y : Slot := { x with queued := x.queued - 1, resumes := if x.resumes = 0xFFFF then x.resumes else x.resumes + 1 }
    if y.state = 3 ∧ y.queued = 0 then y.release else y
  else x.release
/-- The core at the start of the stint that a message triggers (R21, R22), with the effect that the message marks. XFID and JOBID keep what an
engine completion last gave them, also in a stint that no completion started (DESIGN CHOICE, log 4). -/
def Plot.begin (p : Plot) (c : Core) (m : Msg) (seed : Nat) : Core × Option MarkedEffect :=
  let c := c.fresh seed (p.budgetOf m.lid)
  let c := { c with stint := some { lid := m.lid, trig := some m, token := 0, commits := 0, icount := 0 }, bankOff := 0 }
  let c := match m.acq with
    | some sc => c.acquire sc
    | none => c
  match m.body with
  | .task pc wid a0 a1 a2 a3 => (c.atHandler p m pc 0 wid [wid, a0, a1, a2, a3], none)
  | .runner r => ((c.restore r).setSt 32 1 0, none)
  | .data pc g0 g1 a0 a1 a2 a3 htop wid eff => (c.atHandler p m pc htop wid [g0, g1, a0, a1, a2, a3], eff)
  | .engine pc status a0 a1 a2 a3 job id wid =>
    let c := c.atHandler p m pc 0 wid [status, a0, a1, a2, a3]
    (if job then { c with jobid := id } else { c with xfid := id }, none)
  | .notice pc ticket value t0 deadline gw idx wid => (c.atHandler p m pc 0 wid [ticket, value, t0, deadline, gw, idx], none)
  | .resume slot _ _ how =>
    let x := (c.slab[slot]?).getD {}
    match x.rcd with
    | none => (c, none)
    | some r => ((((c.words m.lid r.slotWords).restore r).takeResume x m.lid how).modSlot slot Slot.resumed, none)
/-- The core selects its next message and starts its stint (R21, R44); a resume message whose continuation has gone is discarded and
reported, after which the core may go idle (R35, R271), so that a resume which an abort returned after its start had freed its slot goes the
same way (DESIGN CHOICE, log 99); a marked effect is performed before the first instruction (R272). -/
def State.startStint (s : State) (pid i : Nat) : State :=
  match (s.plot? pid).bind fun p => (p.core? i).map fun c => (p, c) with
  | none => s
  | some (p, c) =>
    if c.hold ≠ .free ∨ c.stint.isSome then s
    else match p.select c with
      | none => s
      | some (m, c1) =>
        if !p.current i m then (s.modPlot pid fun p => p.modCore i fun _ => c1.goIdle).postMsg pid m 0x61 0 (m.token c.cid)
        else
          let (c2, eff) := p.begin c1 m s.fresh
          let s1 := { s.modPlot pid fun p => p.modCore i fun _ => c2 with fresh := s.fresh + 1 }
          match eff with
          | none => s1
          | some e => s1.asAgent ⟨pid, false, i⟩ fun s => offer s
              { id := BitVec.ofNat 12 e.code.toNat, arg := e.arg, dv := true, dreg := 0, hw := true, pc := c2.pc, addr := e.arg, info := e.info }
/-- STINT_START (R21): core `c` of plot `p`. -/
def execStintStart (s : State) : Out := .next (s.startStint s.ev.p s.ev.c)
/-- The watchdog of a core: BUDGET is 0 while a stint runs and is not at service (R31, R346). -/
def Core.overrun (c : Core) : Bool := c.stint.isSome && c.budget == 0 && c.stBits 38 38 == 0
/-- BUDGET_EXCEEDED (R31): core `c` of plot `p`. -/
def execBudgetExceeded (s : State) : Out :=
  match (s.plot? s.ev.p).bind fun p => (p.core? s.ev.c).map fun c => (p, c) with
  | none => .next s
  | some (p, c) => .next (if c.overrun then s.abortCore s.ev.p s.ev.c 0x50 false c.pc 0 ((p.budgetOf c.lid).setWidth 64) else s)

end Sys2Proof.Machine
end

