-- ==== Sys2Proof/Machine/Launch.lean ====
section
/-! DEFINITION. Launches (R36 to R42, R51, R213, R414): records, acceptance and refusal, sowing, completion. -/
namespace Sys2Proof.Machine

/-! Records (R37, R38). -/

/-- Width i of a record. -/
def recWidth (ws : List Word) (i : Nat) : Nat := fld (ws.getD 1 0) (7 * i + 6) (7 * i)
/-- Placement code i. -/
def recPlace (ws : List Word) (i : Nat) : Nat := fld (ws.getD 1 0) (44 + 3 * i) (42 + 3 * i)
/-- Extent i. -/
def recExtent (ws : List Word) (i : Nat) : Nat := fld (ws.getD (2 + i / 2) 0) (32 * (i % 2) + 31) (32 * (i % 2))
/-- The launch that a record asks for, with a LID and the words of ARGS. -/
def launchOf (ws : List Word) (lid : Lid) (args : List Word) : Launch :=
  let f := ws.getD 5 0
  { lid := lid, obj := BitVec.ofNat 16 (fld (ws.getD 0 0) 47 32), entry := BitVec.ofNat 32 (fld (ws.getD 0 0) 31 0),
    widths := (List.range 6).map (recWidth ws), places := (List.range 6).map (recPlace ws),
    extents := (List.range 6).map (recExtent ws), pri := BitVec.ofNat 2 (fld f 1 0), det := f.getLsbD 2,
    ckind := BitVec.ofNat 2 (fld f 4 3), sbud := fld f 32 8, dshape := fld f 41 33, ebud := fld f 63 42, args := args,
    ctgt := ws.getD 7 0 }
/-- A field rule of R38 fails, but for ARGS's reading. -/
def recBad (ws : List Word) : Bool :=
  let f := ws.getD 5 0
  let here := (List.range 6).filter fun i => recWidth ws i != 0
  let lv := (here.map (recPlace ws)).filter fun p => decide (1 ≤ p ∧ p ≤ 4)
  fld (ws.getD 0 0) 63 48 != 0 || fld (ws.getD 1 0) 63 60 != 0 || fld f 7 5 != 0 || fld (ws.getD 6 0) 63 48 != 0
    || decide (((List.range 6).map (recWidth ws)).sum > 64)
    || (List.range 6).any (fun i => if recWidth ws i = 0 then decide (recExtent ws i > 1)
        else decide (recExtent ws i = 0 ∨ recExtent ws i > 2 ^ recWidth ws i))
    || here.any (fun i => decide (recPlace ws i ≥ 5)) || lv.eraseDups != lv
    || fld f 1 0 == 0 || decide (fld f 32 8 > 2 ^ 24) || fld f 4 3 == 3 || fld (ws.getD 6 0) 2 0 != 0
    || (fld f 4 3 == 2 && fld (ws.getD 7 0) 63 46 != 0)
/-- A tile number that names no tile: a translation there uses no router's TLB. -/
def noTile : Nat := 2 ^ 20
/-- The four words of ARGS, read once at acceptance (R41). -/
def readArgs (s : State) (p : Plot) (va : Nat) : Option (List Word) :=
  let byte (a : Nat) : Option Nat := match translate p noTile a 0 with
    | (.ok (l, _), _) => (match engineRead s p l with
        | .byte b => some b.toNat
        | _ => none)
    | _ => none
  let bs := (List.range 32).map fun i => byte (va + i)
  if bs.any (·.isNone) then none
  else some ((List.range 4).map fun i => BitVec.ofNat 64 (leNat (((bs.drop (8 * i)).take 8).map fun x => BitVec.ofNat 8 (x.getD 0))))
/-- The launch-queue places that are held (R39): those of a suspended image too, which holds the queue (R56, R57). -/
def Plot.places (p : Plot) : Nat :=
  ((p.launches ++ (p.image.map (·.launches)).getD []).filter fun x => !x.compl).length
/-- The refusal status of a record, 0 when it is accepted (R38, R39), and the words of ARGS. -/
def judgeRec (s : State) (p : Plot) (ws : List Word) : Nat × List Word :=
  let l := launchOf ws 0 []
  match (if recBad ws then none else readArgs s p (fld (ws.getD 6 0) 47 0)) with
  | none => (1, [])
  | some args =>
    if !p.hasCode l.obj.toNat l.entry.toNat then (2, [])
    else if l.det ∧ l.dshape > p.tiles.length then (3, [])
    else if p.places ≥ 256 then (4, [])
    else (0, args)

/-! Completion words (R39). -/

/-- A completion word. -/
def compWord (status : Nat) (lid : Lid) (aborts : Nat) : Word :=
  BitVec.ofNat 64 (status + 2 ^ 8 * lid.toNat + 2 ^ 24 * (aborts % 2 ^ 40))
/-- A completion or refusal whose target is invalid is reported in the plot's error log alone (R38); the entry's cause is free. -/
def State.logCtgt (s : State) (pid : Nat) (lid : Lid) (ctgt w : Word) : State :=
  s.logNote (some pid) ((Config.freeWord s.fresh 4).toNat % 16) 0 lid.toNat ctgt w
/-- Writes a completion word where CTGT maps (R39), and fires vector 18 for CKIND 0 behind it (R372). -/
def State.writeWord (s : State) (pid : Nat) (lid : Lid) (ckind : BitVec 2) (ctgt w : Word) : State :=
  match s.plot? pid with
  | none => s
  | some p =>
    let va := ctgt.toNat
    match (if va % 8 ≠ 0 ∨ va ≥ 2 ^ 48 then none else match translate p noTile va 1 with
        | (.ok (l, _), _) => some l
        | _ => none) with
    | none => s.logCtgt pid lid ctgt w
    | some loc =>
      let ent (a d : Nat) : HEntry := { tags := [], line := lineOf a, va := va, act := storeAct a (leBytes 8 w.toNat), peer := d }
      let s := match loc with
        | .dev a => s.joinWq pid (ent a 0)
        | .host a => s.toHost pid (.completion lid a w)
        | .peer d a => s.toFabric pid (ent a d)
      if ckind = 0 then s.toHost pid (.msix 18) else s
/-- The completion launch of a record of CKIND 2, and its class 1 task message (R39). The message is the launch unit's, which the
table of R30 does not name: it carries 0x3FFF and the sequence 0, as sowing and the host do, and its launch has no ARGS, so that the
seed of R103 is 0 (DESIGN CHOICE, log 93). -/
def State.complMessage (s : State) (pid : Nat) (lid : Lid) (ctgt : Word) (obj : Nat) (sbud : Nat) (w : Word) : State :=
  match s.plot? pid with
  | none => s
  | some p =>
    let cid := fld ctgt 13 0
    let off := fld ctgt 45 14
    if !p.hasCore cid ∨ !p.hasCode obj off then s.logCtgt pid lid ctgt w
    else
      let l := p.nextLid
      let pc := pcOf obj off
      let x : Launch :=
        { lid := l, obj := BitVec.ofNat 16 obj, entry := BitVec.ofNat 32 off, widths := List.replicate 6 0,
          places := List.replicate 6 0, extents := List.replicate 6 1, pri := 1, det := false, ckind := 3,
          sbud := if sbud > 2 ^ 24 then 0 else sbud, dshape := 0, ebud := 0, args := [], ctgt := 0, compl := true, sown := 1, sent := 1 }
      let m : Msg := { src := 0x3FFF, seq := 0, lid := l, cls := 1, tag := ⟨0x3FFF, l, 0, 0, 0⟩, body := .task pc 0 w 0 0 0,
                       acq := some .system }
      s.modPlot pid fun p => ({ p with nextLid := l + 1, launches := p.launches ++ [x] } : Plot).sendTo (BitVec.ofNat 14 cid) m
/-- A completion or refusal is given (R39): by word or by message. A refused record whose CKIND is 3 names no form of target: its
refusal is reported in the plot's error log alone, as R38 says of an invalid CTGT (DESIGN CHOICE, log 93). -/
def State.complete (s : State) (pid : Nat) (lid : Lid) (ckind : BitVec 2) (ctgt : Word) (obj sbud : Nat) (w : Word) : State :=
  if ckind = 2 then s.complMessage pid lid ctgt obj sbud w
  else if ckind = 3 then s.logCtgt pid lid ctgt w
  else s.writeWord pid lid ckind ctgt w
/-- A record reaches the launch queue (R38, R39). -/
def State.takeRecord (s : State) (pid : Nat) (ws : List Word) : State :=
  match s.plot? pid with
  | none => s
  | some p =>
    let l := launchOf ws p.nextLid []
    match judgeRec s p ws with
    | (0, args) => s.modPlot pid fun p =>
        { p with launches := p.launches ++ [{ l with args := args }], nextLid := p.nextLid + 1 }
    | (st, _) => { s.complete pid 0 l.ckind l.ctgt l.obj.toNat l.sbud (compWord st 0 0) with fresh := s.fresh + 1 }
/-- LAUNCH_SUBMIT (R37): a host write of `v` to offset 0x38 of the mailbox page submits the 64 bytes last written. -/
def execLaunchSubmit (s : State) : Out :=
  onBar s fun p =>
    let box := p.mailbox.set 7 s.ev.v
    (s.modPlot s.ev.p fun p => { p with mailbox := box }).takeRecord s.ev.p box
/-- SPAWN_ACCEPT (R213): record `j` on its way to the launch queue, once the spawner's earlier accesses are performed at package
scope. -/
def execSpawnAccept (s : State) : Out :=
  match (s.plot? s.ev.p).bind fun p => (p.spawns[s.ev.j]?).map fun x => (p, x) with
  | none => .next s
  | some (p, t, ws) =>
    let early := (p.spawns.take s.ev.j).any fun x => x.1.cid == t.cid
    if early ∨ p.waitsFor t .package then .next s
    else .next ((s.modPlot s.ev.p fun p => { p.discard t with spawns := p.spawns.eraseIdx s.ev.j }).takeRecord s.ev.p ws)

/-! Sowing (R41, R42). -/

/-- The launch that sowing works on: the first accepted one with an item left (R41). -/
def Plot.sowing (p : Plot) : Option Launch := p.launches.find? fun l => !l.compl && decide (l.sown < l.items)
/-- Sowing goes on (R55): in a suspension only for a deterministic launch whose first phase has begun, so that it can close. -/
def Plot.sows (p : Plot) (l : Launch) : Bool := p.susp == .no || (p.susp == .pausing && l.det && decide (l.sown ≠ 0))
/-- A launch with an LM image waits until the cores it places work on are idle for every other launch (R414). -/
def Plot.imageReady (p : Plot) (l : Launch) : Bool :=
  decide (l.sown ≠ 0) || (((p.objOf l.lid).map (·.image)).getD []).isEmpty
    || (p.targets l).all fun c => ((p.core? c).map fun x => p.idleFor x fun y => y != l.lid).getD true
/-- A core takes a sown message of a launch: the state of R36 with the launch's first message there; with the first sown one, the
loader stub's image, if there is one, and the ring descriptors (R414). -/
def Plot.meetSown (p : Plot) (dst : Nat) (l : Launch) : Plot :=
  let p1 := p.meet dst l.lid
  match p1.core? dst, p1.objOf l.lid with
  | some c, some o =>
    if (c.count l.lid).imaged ∨ o.image.isEmpty then p1
    else p1.modCore dst fun c =>
      { (c.loadImage o.image).setRings o.rings with bankOff := 0 }.modCount l.lid fun y => { y with imaged := true }
  | _, _ => p1
/-- SOW_TASK_MESSAGE (R41): the next item of the launch that is being sown, when its core has room. -/
def execSowTaskMessage (s : State) : Out :=
  match (s.plot? s.ev.p).bind fun p => p.sowing.map fun l => (p, l) with
  | none => .next s
  | some (p, l) =>
    let dst := p.target l l.sown
    let wid := l.widOf l.sown
    let m : Msg :=
      { src := 0x3FFF, seq := 0, lid := l.lid, cls := l.pri, tag := ⟨0x3FFF, l.lid, 0, 0, wid⟩, acq := some .system,
        body := .task (pcOf l.obj.toNat l.entry.toNat) wid (l.args.getD 0 0) (l.args.getD 1 0) (l.args.getD 2 0) (l.args.getD 3 0) }
    let full := ((p.core? dst).map fun c => c.queueFull m).getD true
    if full ∨ !p.sows l ∨ !p.imageReady l ∨ (l.sown = 0 ∧ s.tdi p = .error) then .next s
    else
      .next (s.modPlot s.ev.p fun p =>
        let p := (p.meetSown dst l).modLaunch l.lid fun x => { x with sown := x.sown + 1, sent := x.sent + 1 }
        { p.modCore dst fun c => c.enqueue c.cyc.toNat p.enqs m with enqs := p.enqs + 1 })

/-! The end (R51). -/

/-- An operation of the launch has not been acknowledged at system scope, or an engine job of it is open (R51, R191): waiting
world-store operations and claims apart. -/
def Plot.underway (p : Plot) (l : Lid) : Bool :=
  let mine (t : Tag) : Bool := t.lid == l && !isSvcCid t.cid
  p.cores.any (fun c => (c.ob ++ c.ct).any (fun e => mine e.tag) || c.mq.any fun r => mine r.tag)
    || p.paths.any (fun r => mine r.tag) || p.flights.any (fun f => f.msg.lid == l)
    || p.tiles.any (fun t => t.toq.any fun e => e.tags.any mine)
    || p.wq.any (fun e => !e.isStore && e.tags.any mine) || p.fabric.any (fun e => e.tags.any mine)
    || (p.link ++ p.park).any (fun x => match x with
        | .mem e => e.tags.any mine
        | .hq _ t _ => mine t
        | _ => false)
    || p.hqIn.any (fun x => mine x.2.1) || p.spawns.any (fun x => mine x.1) || p.collIn.any (fun x => mine x.1)
    || p.collReqs.any (fun q => mine q.tag) || p.tseq.any (fun o => mine o.tag) || p.copies.any (fun x => mine x.tag)
    || p.mxes.any fun m => (m.run.map fun r => mine r.job.tag).getD false || m.queue.any fun q => match q with
        | .job j => mine j.tag
        | .rel t _ => mine t
/-- An operation of the launch waits at a TSE, of this plot or of one from which it was resumed here (R57, R298). -/
def Plot.waits (p : Plot) (l : Lid) : Bool := p.waiting.any (fun o => o.tag.lid == l) || p.away.any fun x => x.tag.lid == l
/-- Something of the launch is open that its completion waits for (R51). -/
def Plot.openFor (p : Plot) (l : Lid) : Bool :=
  p.underway l || p.waits l || p.claims.any fun q => q.tag.lid == l
/-- A launch has ended (R51): its tokens and live continuations die, and its members leave their groups (R321). -/
def Plot.ends (p : Plot) (d : Device) (l : Lid) : Plot :=
  let slot (x : Slot) : Slot := if x.state ≠ 0 ∧ x.lid = l then x.release else x
  let p := p.groups.foldl (fun (p : Plot) g => p.leaves d g.gid fun m => m.lid == l) p
  ({ p with cores := p.cores.map fun c => { c with slab := c.slab.map slot } } : Plot).modLaunch l fun x => { x with ended := true }
/-- A launch leaves the plot (R51): its place, its accumulators and its counts go. -/
def Plot.bury (p : Plot) (l : Lid) (seed : Nat) : Plot :=
  let acc (a : Acc) : Acc := match a.owner with
    | some (_, y) => if y = l then a.dropped seed else a
    | none => a
  { p with launches := p.launches.filter fun x => x.lid != l,
           cores := p.cores.map fun c => { c with counts := c.counts.filter fun x => x.lid != l },
           tiles := p.tiles.map fun t => t.modSvc fun v => { v with ctx := { v.ctx with counts := v.ctx.counts.filter fun x => x.lid != l } },
           mxes := p.mxes.map fun m => { m with acc := m.acc.map acc } }
/-- LAUNCH_COMPLETION (R51): launch `n` of plot `p`, once ended and quiet. -/
def execLaunchCompletion (s : State) : Out :=
  let lid : Lid := BitVec.ofNat 16 s.ev.n
  match (s.plot? s.ev.p).bind fun p => (p.launch? lid).map fun l => (p, l) with
  | none => .next s
  | some (p, l) =>
    if !l.ended ∨ p.openFor lid then .next s
    else
      let s1 := { s.modPlot s.ev.p fun p => p.bury lid s.fresh with fresh := s.fresh + 1 }
      .next (if l.compl then s1 else s1.complete s.ev.p lid l.ckind l.ctgt l.obj.toNat l.sbud (compWord 0 lid l.aborted))

end Sys2Proof.Machine
end

