-- ==== Sys2Proof/Machine/Sweep.lean ====
section
/-! DEFINITION. The counting tree (R46, R47, R49 to R53, R191, R314): sweeps, the end of a launch, the close of a phase of a
deterministic launch, energy sums and demotion. -/
namespace Sys2Proof.Machine

/-! The three values of a sweep (R49, R50). -/

/-- The sum of sent counts. What a service core sends carries the LID 0 (log 23). -/
def Plot.sentSum (p : Plot) (l : Launch) : Nat :=
  l.sent + ((p.cores ++ p.tiles.map (·.svc.ctx)).map fun c => (c.count l.lid).sent).sum
/-- The sum of received counts. -/
def Plot.recvSum (p : Plot) (l : Launch) : Nat := l.recv + (p.cores.map fun c => (c.count l.lid).recv).sum
/-- The units of R50 are idle for a launch. -/
def Plot.unitsIdle (p : Plot) (l : Launch) : Bool :=
  let mine (t : Tag) : Bool := t.lid == l.lid
  (l.compl || decide (l.items ≤ l.sown)) && !(p.spawns.any fun x => mine x.1) && !(p.hqIn.any fun x => mine x.2.1)
    && !(p.park.any fun x => match x with
        | .hq _ t _ => mine t
        | _ => false)
    && !(p.collIn.any fun x => mine x.1)
/-- A core has nothing to do for a launch in the phase that runs: parked messages, sleepers and waiting loads apart (R52). -/
def Core.phaseIdle (c : Core) (l : Lid) : Bool :=
  !(((c.stint.map fun x => x.lid == l).getD false) || c.runq.any (fun m => m.lid == l) || ((c.back.map fun m => m.lid == l).getD false))
/-- Every core and unit is idle for the launch, as its end (R51) or the close of its phase (R52, R191) asks; no matrix job of it is
outstanding (R238). -/
def Plot.sweepIdle (p : Plot) (l : Launch) : Bool :=
  p.unitsIdle l && (if l.det then p.cores.all (fun c => c.phaseIdle l.lid) && !p.underway l.lid
    else p.cores.all fun c => (p.idleFor c fun x => x == l.lid) && !c.jout.any fun x => x.1 == l.lid)

/-! The close of a phase (R52, R53, R137, R191, R314). -/

/-- The sort order of R52 on the tags of causing instructions. -/
def Tag.le (a b : Tag) : Bool :=
  decide (a.cid.toNat < b.cid.toNat) || (decide (a.cid = b.cid) && (decide (a.seq.toNat < b.seq.toNat)
    || (decide (a.seq = b.seq) && decide (a.ord ≤ b.ord))))
/-- A held operation on the world store reaches its TSE (R314). -/
def State.heldTse (s : State) (pid : Nat) (o : TseOp) : State :=
  match o.act with
  | .st _ _ _ _ => s.storeArrives pid o
  | .ld _ => s.loadArrives pid o
  | .cancel _ _ => s.cancelArrives pid o
  | .floor g t =>
    (match (s.asked pid o.tag).floorMaster pid g t with
     | (s, some (cause, a, i)) => s.postTag pid o.tag cause a i
     | (s, none) => ((List.range 16).foldl (fun (s : State) n => s.floorAt pid n (wRid g) (fld g 5 0) t) s))
  | _ => s
/-- A message joins a core's queue at a phase start, place n of the order in which the queue fills (R52); an answer's writes to LM
come with it. It has counted as received already. -/
def Plot.fill (p : Plot) (dst n : Nat) (m : Msg) : Plot :=
  let p := p.meet dst m.lid
  { p.modCore dst fun c =>
      let c := c.payload m
      { c with runq := c.runq ++ [{ m with enq := ((c.cyc.toNat + n : Nat) : Int), enqNo := p.enqs, pay := [] }] } with
    enqs := p.enqs + 1 }
/-- The core resumes the runner of a slot at a phase start: one that yielded, or one whose condition holds (R137). -/
def Plot.resumes (s : State) (p : Plot) (c : Core) (l : Lid) (x : Slot) : Bool :=
  x.state == 1 && x.kind == 3 && x.lid == l && (match x.sleep with
    | none => true
    | some (.ring q n) => decide (c.q[q].fill ≥ n)
    | some (.job mx y id) => jobDone c mx y id
    | some (.lm off t) => geHolds (BitVec.ofNat 32 (c.lm.num off 4)) t
    | some (.glob loc t) => geHolds (homeWord s p loc) t)
/-- The run queue of core i fills at a phase start: parked messages, answers, resumes (R52). -/
def State.fillCore (s : State) (pid i : Nat) (lid : Lid) (answers : List Msg) : State × Nat :=
  match (s.plot? pid).bind fun p => p.core? i with
  | none => (s, 0)
  | some c0 =>
    let key (a b : Msg) : Bool := a.tag.le b.tag
    let first := sortBy key (c0.parked.filter fun m => m.lid == lid) ++ sortBy key answers
    let s1 := s.modPlot pid fun p =>
      let p := p.modCore i fun c => { c with parked := c.parked.filter fun m => m.lid != lid }
      (first.zip (List.range first.length)).foldl (fun (p : Plot) x => p.fill i x.2 x.1) p
    match s1.plot? pid with
    | none => (s1, first.length)
    | some p1 =>
      let c1 := (p1.core? i).getD c0
      let slots := (List.range 32).filter fun j => p1.resumes s1 c1 lid ((c1.slab[j]?).getD {})
      let looks := (c1.slab.filter fun x => x.lid == lid && (match x.sleep with
        | some (.lm _ _) => true
        | _ => false)).length
      let s2 := s1.modPlot pid fun _ => (slots.zip (List.range slots.length)).foldl (fun (p : Plot) x =>
        let m := resumeMsg c1 x.1 ((c1.slab[x.1]?).getD {})
        (p.modCore i fun c => ((c.modSlot x.1 fun y => { y with sleep := none }).modCount lid fun n =>
          { n with sent := n.sent + 1, recv := n.recv + 1 })).fill i (first.length + x.2) m) (p1.modCore i (·.words lid looks))
      (s2, first.length + slots.length)
/-- A phase of a deterministic launch closes, and the next begins, or the launch ends when nothing was left to start (R52). DESIGN CHOICE
(log 99): when remote operations were kept for this close and no message was parked, one more phase runs: R52 would end the launch here,
while R53 applies them at the start of a next phase. -/
def State.phaseClose (s : State) (pid : Nat) (lid : Lid) : State :=
  match (s.plot? pid).bind fun p => (p.launch? lid).map fun l => (p, l) with
  | none => s
  | some (p, l) =>
    -- the fence of R191 empties every view
    let s := s.modPlot pid fun p => { p with cores := p.cores.map fun (c : Core) => { c with view := [] } }
    -- the world store's operations, in the order of R52 (R314)
    let s := s.modPlot pid fun p => p.modLaunch lid fun (x : Launch) => { x with heldTse := [] }
    let s := (sortBy (fun (a b : TseOp) => a.tag.le b.tag) l.heldTse).foldl (fun (s : State) o => s.heldTse pid o) s
    -- spawned records reach the launch queue, in the order of R52 (R213)
    let s := s.modPlot pid fun p => p.modLaunch lid fun (x : Launch) => { x with heldSpawns := [] }
    let s := (sortBy (fun (a b : Tag × List Word) => a.1.le b.1) l.heldSpawns).foldl (fun (s : State) x => s.takeRecord pid x.2) s
    -- remote stores and atomics (R53)
    let s := s.modPlot pid fun p => p.modLaunch lid fun (x : Launch) => { x with recv := x.recv - l.heldOps.length, heldOps := [] }
    let s := (sortBy (fun (a b : RemOp) => a.tag.le b.tag) l.heldOps).foldl (fun (s : State) r => s.contextRun pid r) s
    let answers : List (CoreId × Msg) := (((s.plot? pid).bind fun p => p.launch? lid).map (·.heldAnswers)).getD []
    let s := s.modPlot pid fun p => p.modLaunch lid fun (x : Launch) => { x with heldAnswers := [] }
    let (s, n) := (List.range p.cores.length).foldl (fun (x : State × Nat) i =>
      let (s, k) := x.1.fillCore pid i lid ((answers.filter fun a => a.1.toNat == i).map (·.2))
      (s, x.2 + k)) (s, 0)
    let waits := ((s.plot? pid).map fun p => p.waits lid
      || p.cores.any fun c => c.slab.any fun x => x.sleep.isSome && x.lid == lid).getD false
    let finished := decide (n = 0) && l.heldOps.isEmpty && !waits
    let s := s.modPlot pid fun p => p.modLaunch lid fun (x : Launch) => { x with phase := x.phase + 1, quiet := none }
    if finished then s.modPlot pid fun p => p.ends s.dev lid else s

/-! The sweep (R46, R47, R49, R51). -/

/-- The energy of a launch in the period, and its demotion (R46, R47); `extra` is what routers have counted since the last sweep. -/
def Plot.sweepEnergy (p : Plot) (lid : Lid) (extra : Nat) : Plot :=
  let cores := (p.cores.map fun c => (c.count lid).pj).sum
  p.modLaunch lid fun l =>
    let sum := cores + l.pj + extra
    { l with pj := l.pj + extra, swept := sum, demoted := l.demoted || decide (l.ebud ≠ 0 ∧ sum / 1000000 ≥ l.ebud) }
/-- A sweep as it bears on one launch. How often 64 bytes of the launch have passed a router since the last one, and how many flits of it
have left by a port, are free numbers (log 24); their weights are those of R47. -/
def State.sweepLaunch (s : State) (pid : Nat) (lid : Lid) : State :=
  let s := { s.modPlot pid fun p => p.sweepEnergy lid (20 * Config.freeRouted s.fresh + 12800 * Config.freeFlits s.fresh) with fresh := s.fresh + 1 }
  match (s.plot? pid).bind fun p => (p.launch? lid).map fun l => (p, l) with
  | none => s
  | some (p, l) =>
    let sums := (p.sentSum l, p.recvSum l)
    if l.ended then s
    else if !p.sweepIdle l ∨ sums.1 ≠ sums.2 then s.modPlot pid fun p => p.modLaunch lid fun (x : Launch) => { x with quiet := none }
    else if l.quiet ≠ some sums then s.modPlot pid fun p => p.modLaunch lid fun (x : Launch) => { x with quiet := some sums }
    else if !l.det then s.modPlot pid fun p => p.ends s.dev lid
    -- a suspension holds the phase open (R55)
    else if p.susp ≠ .no then s
    else s.phaseClose pid lid
/-- SWEEP (R49): of plot `p`, 2 us after the last. -/
def execSweep (s : State) : Out :=
  match s.plot? s.ev.p with
  | none => .next s
  | some p =>
    if s.dev.time < p.sweepAt + 2000 then .next s
    else
      let s1 := s.modPlot s.ev.p fun p => { p with sweepAt := s.dev.time }
      .next ((p.launches.map (·.lid)).foldl (fun (s : State) l => s.sweepLaunch p.pid l) s1)
/-- ENERGY_PERIOD_END (R46): plane time has passed a multiple of 1 ms. -/
def execEnergyPeriodEnd (s : State) : Out :=
  let now := s.dev.time / 1000000
  if now ≤ s.dev.period then .next s
  else
    let launch (l : Launch) : Launch := { l with pj := 0, swept := 0, demoted := false }
    let core (c : Core) : Core := { c with counts := c.counts.map fun (x : LCount) => { x with pj := 0 } }
    let image (i : SuspImage) : SuspImage := { i with launches := i.launches.map launch, cores := i.cores.map core }
    .next ({ s with plots := s.plots.map fun (p : Plot) =>
      { p with launches := p.launches.map launch, cores := p.cores.map core, image := p.image.map image } }.modDev fun d =>
        { d with period := now })

end Sys2Proof.Machine
end

