-- ==== Sys2Proof/Machine/Suspend.lean ====
section
/-! DEFINITION. Plot suspension (R55 to R57, R259, R340): the pause, the image, and the resume on a plot. -/
namespace Sys2Proof.Machine

/-- PLOT_SUSPEND (R55): plot `p` stops sowing, and its cores start no new stint. -/
def execPlotSuspend (s : State) : Out :=
  .next (s.modPlot s.ev.p fun p => if p.susp = .no then { p with susp := .pausing } else p)
/-- A deterministic launch stands at the close of a phase, or has not begun (R55). -/
def Plot.atClose (p : Plot) (l : Launch) : Bool :=
  !l.det || decide (l.sown = 0) || (p.sweepIdle l && decide (p.sentSum l = p.recvSum l))
/-- Nothing of the plot is on the way that R55 waits for: stints, buffers, message contexts, engines, claims. A `coll.res` request that
is not answered yet counts as an access that is not acknowledged (DESIGN CHOICE, log 93): R55 and R56 do not name it. A `wst.w` that
waits in a wait table, which R294 does not acknowledge before its append, does not hold the image back (DESIGN CHOICE, log 96): R56 leaves
wait tables where they are. -/
def Plot.drained (p : Plot) : Bool :=
  p.cores.all (fun c => c.stint.isNone && c.hold == .free && c.ob.isEmpty && c.ct.isEmpty && c.mq.isEmpty && c.late.isEmpty)
    && p.paths.isEmpty && p.flights.isEmpty && p.copies.isEmpty && p.mxes.all (fun m => m.run.isNone && m.queue.isEmpty)
    && p.claims.isEmpty && p.launches.all (fun l => !p.underway l.lid && p.atClose l)
/-- What the image takes of a core (R56); the vector registers do not count. -/
def Core.imageOf (c : Core) : Core := { Core.init c.cid with
  lm := c.lm, lmErr := c.lmErr, slab := c.slab, runq := c.runq, parked := c.parked, back := c.back, q := c.q, lmret := c.lmret,
  ba0 := c.ba0, ba1 := c.ba1, counts := c.counts, frames := c.frames, xnext := c.xnext, jnext := c.jnext, retain := c.retain,
  cyc := c.cyc, ord := c.ord, returned := c.returned }
/-- What stays on a core when its image has been taken. -/
def Core.imaged (c : Core) : Core :=
  { c with slab := c.slab.map fun (x : Slot) => if x.state = 0 then x else x.release, runq := [], parked := [], back := none, counts := [],
           retain := none }
/-- SUSPEND_IMAGE_TAKEN (R55, R56, R259): plot `p` has drained, and its image is taken. -/
def execSuspendImageTaken (s : State) : Out :=
  match s.plot? s.ev.p with
  | none => .next s
  | some p =>
    if p.susp ≠ .pausing ∨ !p.drained then .next s
    else
      let img : SuspImage := ⟨p.cores.map Core.imageOf, p.launches, p.nextLid, p.mxes.map (·.acc)⟩
      .next (s.modPlot s.ev.p fun p =>
        { p with susp := .taken, image := some img, launches := [], cores := p.cores.map Core.imaged })
/-- A message keeps the cycles that it has waited when another core, or a later cycle, goes on with it. -/
def Msg.shift (m : Msg) (old new : Word) : Msg := { m with enq := m.enq + ((new.toNat : Int) - (old.toNat : Int)) }
/-- The image of a core takes in what has come for it since it was taken: the messages of completion launches (R39). -/
def Core.sinceImage (i c : Core) : Core :=
  { i with runq := (i.runq.map fun m => m.shift i.cyc c.cyc) ++ c.runq, parked := i.parked ++ c.parked, counts := c.counts ++ i.counts,
           back := i.back.map fun m => m.shift i.cyc c.cyc, cyc := c.cyc, ord := max c.ord i.ord }
/-- A core takes its part of the image. -/
def Core.fromImage (c i : Core) : Core :=
  let shift (m : Msg) : Msg := m.shift i.cyc c.cyc
  { c with lm := i.lm, lmErr := i.lmErr, slab := i.slab, runq := i.runq.map shift, parked := i.parked.map shift,
           back := i.back.map shift, q := i.q, lmret := i.lmret, ba0 := i.ba0, ba1 := i.ba1, counts := i.counts, frames := i.frames,
           xnext := i.xnext, jnext := i.jnext, retain := i.retain, bankOff := 0, ord := max c.ord i.ord, returned := i.returned }
/-- Elements of a list changed by those of a shorter one. -/
def zipOver {α β : Type} (f : α → β → α) : List α → List β → List α
  | a :: as, b :: bs => f a b :: zipOver f as bs
  | as, [] => as
  | [], _ :: _ => []
/-- Every member core of the plot is outside its groups (R340). -/
def Plot.allLeave (p : Plot) (d : Device) : Plot := p.groups.foldl (fun (p : Plot) g => p.leaves d g.gid fun _ => true) p
/-- The image with all that has come to its plot since it was taken: launches accepted, and messages (R57). -/
def SuspImage.since (img : SuspImage) (q : Plot) : SuspImage :=
  { img with cores := zipOver Core.sinceImage img.cores q.cores, launches := img.launches ++ q.launches, nextLid := q.nextLid }
/-- A plot takes an image (R57, R340). -/
def Plot.fromImage (p : Plot) (d : Device) (img : SuspImage) : Plot :=
  { p.allLeave d with cores := zipOver Core.fromImage p.cores img.cores, launches := img.launches, nextLid := img.nextLid,
                      mxes := zipOver (fun (m : Mxe) a => { m with acc := a }) p.mxes img.accs, susp := .no }
/-- An accumulator whose owner has left the plot (R238). -/
def Acc.left (seed : Nat) (a : Acc) : Acc := if a.owner.isSome then a.dropped seed else a
/-- The operations of a plot's launches that wait at TSEs, its own or others', when another plot resumes them (R57). -/
def Plot.takenAway (q : Plot) : List Away :=
  q.away ++ q.waiting.map fun o => ⟨o.tag, match o.act with
    | .ld _ => true
    | _ => false⟩
/-- What stays on a plot whose image has been resumed elsewhere: its memory and its world store, whose waiting operations answer to
plot n from now on (R56, R57). Its accumulators have no owner any more. -/
def Plot.leftFor (q : Plot) (d : Device) (n seed : Nat) : Plot :=
  { q.allLeave d with susp := .no, image := none, launches := [], flights := [], away := [], cores := q.cores.map Core.imaged,
                      mxes := q.mxes.map fun (m : Mxe) => { m with acc := m.acc.map (Acc.left seed) },
                      waiters := q.waiters.map fun (w : Waiter) => { w with op := { w.op with home := some (w.op.home.getD n) } } }
/-- The waiting operations of a plot's launches at other plots go on answering to the plot that resumes them. -/
def Plot.rehome (p : Plot) (a b : Nat) : Plot :=
  { p with waiters := p.waiters.map fun (w : Waiter) =>
      if w.op.home = some a then { w with op := { w.op with home := some b } } else w }
/-- Nothing runs or waits on a plot. -/
def Plot.bare (p : Plot) : Bool :=
  p.launches.isEmpty && p.susp == .no && p.image.isNone && p.cores.all fun c => c.stint.isNone && c.runq.isEmpty && c.parked.isEmpty
/-- PLOT_RESUME (R56, R57): the image of plot `n` resumes on plot `p`: the same one, or a bare one with as many tiles. World loads
whose deadline has come are answered TIMEOUT. Conditions on global words are looked at again, since the words may have been written
meanwhile (R136). -/
def execPlotResume (s : State) : Out :=
  match (s.plot? s.ev.n).bind fun q => q.image.bind fun img => (s.plot? s.ev.p).map fun p => (q, img, p) with
  | none => .next s
  | some (q, img, p) =>
    let same := decide (q.pid = p.pid)
    if p.torn ∨ p.cores.length < img.cores.length ∨ !(same || p.bare) then .next s
    else
      let img := img.since q
      let s1 := if same then s.modPlot q.pid fun q => { q.fromImage s.dev img with image := none }
        else
          let moved := (s.modPlot q.pid (·.leftFor s.dev p.pid s.fresh)).modPlot p.pid fun p =>
            { p.fromImage s.dev img with flights := q.flights, enqs := max p.enqs q.enqs, away := p.away ++ q.takenAway }
          { moved with plots := moved.plots.map (·.rehome q.pid p.pid) }
      let s2 := (s1.expireFor p.pid).wakeGlob p.pid fun _ => true
      .next { s2 with fresh := s2.fresh + 1 }

end Sys2Proof.Machine
end

