-- ==== Sys2Proof/Machine/Plots.lean ====
section
/-! DEFINITION. Plots as the PF makes them (R370, R373, R374, R380 to R384): creation, resizing, teardown; and the functions' TDIs
(R377). -/
namespace Sys2Proof.Machine

/-- A function that nothing has bound or configured yet: its 32 MSI-X vectors are masked (PRESUMED, log 96: so PCIe has them at reset). -/
def Vf.init (n : Nat) : Vf := ⟨n, none, .unlocked, 0, 0, [], none, List.replicate 32 (0, 0x100000000)⟩
/-- The function of a number. -/
def Device.vf (d : Device) (n : Nat) : Vf := (d.vfs.find? fun v => v.num == n).getD (Vf.init n)
/-- Changes a function. -/
def Device.modVf (d : Device) (n : Nat) (f : Vf → Vf) : Device := { d with vfs := f (d.vf n) :: d.vfs.filter fun v => v.num != n }
/-- A function's TDI enters ERROR. -/
def Device.tdiError (d : Device) (n : Nat) : Device := d.modVf n fun v => { v with tdi := .error }
/-- A tile list that a plot may have: tiles of the device, none twice, none of another plot (R380). -/
def State.tilesOk (s : State) (pid : Nat) (ts : List Nat) : Bool :=
  !ts.isEmpty && ts.eraseDups == ts && ts.all (s.dev.hasTile ·)
    && s.plots.all fun q => q.pid == pid || q.tiles.all fun t => !ts.contains t.num
/-- Tiles in ascending device logical number (R15). -/
def ascending (ts : List Nat) : List Nat := sortBy (fun (a b : Nat) => decide (a ≤ b)) ts
/-- The bytes of device memory (R3, R5, R17): 48 GB a stack, decimal, in equal parts for its 32 channels (DESIGN CHOICE, log 93: the share
of one channel is not stated). -/
def Device.capacity (d : Device) : Nat := d.hbm.sum * 1500000000
/-- What a plot gets of a total, when others hold some of it. -/
def shareOf (asked total held : Nat) : Nat := min asked (total - held)
/-- A service core when its plot has gone or has left its tile: it has no service and nothing of the plot's on the way (R382, R383), and
keeps what it has since reset. -/
def SvcCore.leaves (v : SvcCore) : SvcCore :=
  { v with svq := [], slots := List.replicate 32 none,
           ctx := { v.ctx with ob := [], ct := [], view := [], wait := .none, counts := [] } }
/-- The tiles of a plot that are not among those it keeps, as they are without it: their cores count cycles on (R62). -/
def Plot.frees (p : Plot) (keep : List Nat) : List Spare :=
  ((List.range p.tiles.length).zip p.tiles).filterMap fun x =>
    if keep.contains x.2.num then none else some ⟨x.2.num, x.2.svc.leaves, ((p.cores.drop (32 * x.1)).take 32).map (·.cyc)⟩
/-- Tiles go back to the device. -/
def Device.getsBack (d : Device) (xs : List Spare) : Device := xs.foldl Device.setSpare d
/-- Tiles are a plot's now. -/
def Device.gives (d : Device) (ts : List Nat) : Device := ts.foldl Device.noSpare d
/-- A plot on a new tile list (R382): a tile that stays keeps what it holds, an added one starts as at creation, with the service core and
the cycle counters that it has (R62, R360); hand-offs end (R129). -/
def Plot.retile (p : Plot) (d : Device) (ts : List Nat) : Plot :=
  let old (n : Nat) : Option Nat := p.tiles.findIdx? fun t => t.num == n
  let tile (n : Nat) : Tile := ((old n).bind fun o => p.tiles[o]?).getD { Tile.init n 0 with svc := (d.spareOf n).svc }
  let core (n j : Nat) : Core :=
    ((old n).bind fun o => p.cores[32 * o + j]?).getD { Core.init 0 with cyc := (d.spareOf n).cycs.getD j 0 }
  let mxe (n j : Nat) : Mxe := ((old n).bind fun o => p.mxes[4 * o + j]?).getD {}
  { p with
    tiles := ((List.range ts.length).zip ts).map fun x => (tile x.2).at x.1,
    cores := ((List.range ts.length).zip ts).flatMap fun x => (List.range 32).map fun j =>
      { core x.2 j with cid := BitVec.ofNat 14 (32 * x.1 + j), retain := none },
    mxes := ts.flatMap fun n => (List.range 4).map fun j => mxe n j }
/-- The plot that a function is bound to, one that is not torn down (R370). -/
def State.boundTo (s : State) (f : Vf) : Option Nat := f.plot.filter fun pid => s.plots.any fun q => q.pid == pid && !q.torn
/-- PLOT_CREATE (R370, R373, R380, R382): plot `p` on the tiles `nums`, of `v` bytes, for function `n` and job `w`; its memory reads
zero under the new key. -/
def execPlotCreate (s : State) : Out :=
  let a := s.ev
  let free := !(s.plots.any fun q => q.pid == a.p && !q.torn)
  let f := s.dev.vf a.n
  let size := a.v.toNat
  let others := s.plots.filter fun q => !q.torn && q.pid != a.p
  let sum (k : Plot → Nat) : Nat := (others.map k).sum
  let held := sum fun q => q.memsz + q.pool
  if s.dev.devstat ≠ 1 ∨ a.p ≥ 16 ∨ a.n = 0 ∨ a.n > 128 then .next s
  -- the binding of a locked TDI is fixed (R377)
  else if f.tdi = .locked ∨ f.tdi = .run then .next (s.modDev fun d => d.tdiError a.n)
  else if !free ∨ (s.boundTo f).isSome ∨ f.tdi ≠ .unlocked ∨ size = 0 ∨ size % 65536 ≠ 0
      ∨ size ≥ 2 ^ 40 ∨ held + size > s.dev.capacity ∨ !s.tilesOk a.p a.nums then .next s
  else
    let p := (Plot.init a.p a.n [] size (a.w.setWidth 32) 0).retile s.dev (ascending a.nums)
    let sh := s.dev.shares
    -- the shares are fixed now (R380)
    let p : Plot := { p with
      pool := shareOf sh.pool s.dev.capacity (held + size),
      wshare := shareOf sh.wait 65536 (sum (·.wshare)),
      swshare := shareOf sh.slots 4096 (sum (·.swshare)), eteShare := sh.ete }
    let bare (v : Vf) : Vf := if v.plot = some a.p then { v with plot := none } else v
    .next ({ s with plots := s.plots.filter (fun (q : Plot) => q.pid != a.p) ++ [p] }.modDev fun d =>
      (({ d with vfs := d.vfs.map bare } : Device).gives a.nums).modVf a.n fun v => { v with plot := some a.p })

/-! TDIs (R377). -/

/-- Every TDI enters ERROR. -/
def Device.allError (d : Device) : Device :=
  { d with vfs := d.vfs.filter (fun v => v.num == 0) ++ (List.range 128).map fun i => { d.vf (i + 1) with tdi := .error } }
/-- FUNCTION_RESET (R377): of function `n`. -/
def execFunctionReset (s : State) : Out :=
  .next (if 1 ≤ s.ev.n ∧ s.ev.n ≤ 128 ∧ s.dev.devstat ≠ 2 then s.modDev fun d => d.tdiError s.ev.n else s)
/-- The PF tries to change what a locked TDI fixes (R377): nothing changes, and the TDI enters ERROR. -/
def State.lockedChange (s : State) (p : Plot) : State :=
  match s.tdi p with
  | .locked => s.modDev fun d => d.tdiError p.vf
  | .run => s.modDev fun d => d.tdiError p.vf
  | _ => s
/-! Resizing and teardown. -/

/-- PSTATE.STATE is idle (R374, R382). -/
def Plot.idle (p : Plot) : Bool :=
  p.launches.isEmpty && p.cores.all (fun c => c.stint.isNone) && p.claims.isEmpty
    && p.tiles.all (fun t => t.svc.slots.all (·.isNone)) && p.mxes.all (fun m => m.run.isNone && m.queue.isEmpty) && p.copies.isEmpty
    && p.waiters.isEmpty && p.susp == .no && p.image.isNone
/-- PLOT_RESIZE (R382): plot `p` takes the tiles `nums`. -/
def execPlotResize (s : State) : Out :=
  match s.plot? s.ev.p with
  | none => .next s
  | some p =>
    if p.torn then .next s
    else if s.tdi p ≠ .unlocked then .next (s.lockedChange p)
    else if !p.idle ∨ !s.tilesOk p.pid s.ev.nums then .next s
    else .next ((s.modPlot p.pid fun p => p.retile s.dev (ascending s.ev.nums)).modDev fun d => (d.getsBack (p.frees s.ev.nums)).gives s.ev.nums)

/-- The completion words of PLOT_ABORTED that a teardown writes (R39, R383): those whose target lies in device memory; each with its place,
and whether its launch is of CKIND 0. -/
def Plot.abortWords (p : Plot) : List (Nat × Word × Bool) :=
  ((p.launches ++ (p.image.map (·.launches)).getD []).filter fun l => !l.compl && decide (l.ckind.toNat ≤ 1)).filterMap fun l =>
    let va := l.ctgt.toNat
    if va % 8 ≠ 0 ∨ va ≥ 2 ^ 48 then none
    else match translate p noTile va 1 with
      | (.ok (.dev a, _), _) =>
        -- the running stints, at service or not, that the teardown aborts count too
        let now := (p.cores.filter fun c => ((c.stint.map fun x => x.lid == l.lid).getD false)).length
        some (a, compWord 5 l.lid (l.aborted + now), decide (l.ckind.toNat = 0))
      | _ => none
/-- What is left of a torn-down plot (R374, R383): no tile, and memory that no access reaches. Vector 18 fires for each word of CKIND 0
that is written (R372), but to a lost host, whose interrupts park and are discarded. -/
def Plot.tornDown (p : Plot) (lost : Bool) : Plot :=
  { Plot.init p.pid p.vf [] p.memsz p.job 0 with
    mem := p.abortWords.foldl (fun m x => m.setWord x.1 x.2.1) p.home, torn := true,
    msix := (if lost then [] else (p.abortWords.filter (·.2.2)).map fun _ => 18) ++ p.msix }
/-- A plot is torn down (R383): what its cores, engines and units hold ends without reports; what is already on the host link
arrives; its switch slots and its tiles become free. Its function shows it as torn down until it is bound to another plot (R374). -/
def State.teardown (s : State) (pid : Nat) : State :=
  match s.plot? pid with
  | none => s
  | some p =>
    if p.torn then s
    else
      let s := if s.dev.hostlost then s else p.link.foldl (fun (s : State) x => s.atHost pid x) s
      let slots := (s.dev.slots.filter fun x => x.owner == pid).map (·.num)
      -- what waited in its tables ends with no answer (R298)
      let s := p.waiters.foldl (fun (s : State) w => s.noMore pid w.op) s
      let s := s.modPlot pid fun p => p.tornDown s.dev.hostlost
      let s := s.modDev fun d => { d.getsBack (p.frees []) with slots := d.slots.filter fun x => x.owner != pid }
      slots.foldl (fun (s : State) n => s.answerColl n) s
/-- PLOT_TEARDOWN (R382, R383, R393): of plot `p`, by the PF, or by the fabric manager, as `flag` says, while the host is lost and the
PF has not taken control back. -/
def execPlotTeardown (s : State) : Out :=
  match s.plot? s.ev.p with
  | none => .next s
  | some p =>
    if p.torn ∨ s.ev.flag = s.dev.pfOwns then .next s
    else if s.tdi p ≠ .unlocked then .next (s.lockedChange p)
    else .next (s.teardown p.pid)

/-- The PF writes entry i of the MSI-X table of function n (R372): a locked TDI has it fixed, and enters ERROR (R377). -/
def State.msixWrite (s : State) (n i : Nat) (a d : Word) : State :=
  if n = 0 ∨ n > 128 ∨ !s.dev.linkUp ∨ s.dev.devstat = 2 then s
  else match (s.dev.vf n).tdi with
  | .unlocked => s.modDev fun x => x.modVf n fun v => { v with table := v.table.set i (a, d) }
  | .error => s
  | _ => s.modDev fun x => x.tdiError n
/-- A TDI moves at a TDISP request (R377); a plot whose TDI comes back from ERROR is torn down. -/
def State.tdisp (s : State) (n : Nat) (rq : Vendor) : State :=
  let f := s.dev.vf n
  let set (t : Tdi) : State := s.modDev fun d => d.modVf n fun v => { v with tdi := t }
  match rq with
  | .tdispLock => if f.tdi = .unlocked then set .locked else s
  | .tdispStart => if f.tdi = .locked then set .run else s
  | .tdispStop =>
    let s1 := set .unlocked
    (match f.tdi, f.plot with
     | .error, some pid => s1.teardown pid
     | _, _ => s1)
  | _ => s

end Sys2Proof.Machine
end

