-- ==== Sys2Proof/Machine/HostLink.lean ====
section
/-! DEFINITION. The host (R187, R188, R229 to R231, R371, R372, R392, R393): host queues and the park area, BAR2, heartbeats, the loss and
the return of the host. -/
namespace Sys2Proof.Machine

/-! Host queues (R229, R231). -/

/-- A queue is full. -/
def HQ.full (q : HQ) : Bool := (q.pi - q.ci).toNat == 2 ^ fld q.base 51 48
/-- An entry is discarded and reported; it counts as received (R50, R231). -/
def State.dropHq (s : State) (pid n : Nat) (t : Tag) (cause : Cause) (addr : Word) : State :=
  (s.postTag pid t cause addr (BitVec.ofNat 64 n)).modPlot pid fun p => p.discard t
/-- The entry as it is written, with SEQ (R230). -/
def hqWords (ws : List Word) (pi : BitVec 32) : List Word := (setFld (ws.getD 0 0) 32 32 pi.toNat) :: ws.drop 1
/-- A host address that a virtual address maps to with write permission (R231). -/
def Plot.hostAt (p : Plot) (va : Nat) : Option Nat := (hostPage p noTile va).1
/-- The I/O die writes an entry for queue n: the entry, PI, its mirror, and the interrupt behind them (R231, R372). `send` puts each onto the
host link, or into the park area. -/
def State.writeHq (s : State) (pid n : Nat) (t : Tag) (ws : List Word) (send : State → LinkAct → State) : State :=
  match s.plot? pid with
  | none => s
  | some p =>
    let q := p.hqs.getD n {}
    let va := fld q.base 47 0 + 64 * (q.pi.toNat % 2 ^ fld q.base 51 48)
    let pia := fld q.pia 47 0
    match p.hostAt va with
    | none => s.dropHq pid n t 0x46 (BitVec.ofNat 64 va)
    | some a =>
      let ent (a va : Nat) (bs : List Byte) : LinkAct :=
        .mem { tags := [t], line := lineOf a, va := va, act := storeAct a bs, tile := tileOf t.cid }
      let s := send s (ent a va (wordsBytes (hqWords ws q.pi)))
      let pi := q.pi + 1
      let s := s.modPlot pid fun p => { p.discard t with hqs := p.hqs.modify n fun x => { x with pi := pi } }
      let s := if pia = 0 then s else match p.hostAt pia with
        | some b => send s (ent b pia (leBytes 8 pi.toNat))
        | none => s.postTag pid t 0x46 (BitVec.ofNat 64 pia) (BitVec.ofNat 64 n)
      send s (.msix n)
/-- The entry is of queue n. -/
def LinkAct.ofHq (x : LinkAct) (n : Nat) : Bool :=
  match x with
  | .hq m _ _ => m == n
  | _ => false
/-- An entry reaches the host-queue unit: it is written, parked, or discarded (R231, R392). -/
def State.offerHq (s : State) (pid n : Nat) (t : Tag) (ws : List Word) : State :=
  match s.plot? pid with
  | none => s
  | some p =>
    let q := p.hqs.getD n {}
    if !q.ok then s.dropHq pid n t 0x46 0
    else if p.parks s.dev.hostlost ∨ q.full ∨ (p.park.any fun x => x.ofHq n) then
      if p.park.length ≥ parkLimit then s.dropHq pid n t 0x45 0
      else s.modPlot pid fun p => { p with park := p.park ++ [.hq n t ws] }
    else s.writeHq pid n t ws fun s x => s.toHost pid x
/-- The parked entry that leaves first: the oldest that no full queue and no earlier entry of its queue holds back (R231, R393). DESIGN CHOICE
(log 96): an entry of a queue that is still full does not hold back younger ones of other queues. -/
def Plot.leaving (p : Plot) : Option Nat :=
  (List.range p.park.length).find? fun i => match p.park[i]? with
    | some (.hq n _ _) => !(p.hqs.getD n {}).full && !((p.park.take i).any fun x => x.ofHq n)
    | some _ => true
    | none => false
/-- An entry that leaves the park area goes onto the link, ahead of a returning operation that its core issued after it (R175, R393). -/
def Plot.toLink (p : Plot) (x : LinkAct) : Plot :=
  match p.link.findIdx? fun y => y.follows x with
  | some i => { p with link := p.link.take i ++ x :: p.link.drop i }
  | none => { p with link := p.link ++ [x] }
/-- A parked entry leaves the park area. After a loss the entries wait until the TDI is in RUN (R393). -/
def State.unparkOne (s : State) (pid : Nat) : State :=
  match s.plot? pid with
  | none => s
  | some p =>
    if s.dev.hostlost ∨ (p.parkHold ≠ 0 ∧ s.tdi p ≠ .run) then s
    else match p.leaving.bind fun i => (p.park[i]?).map fun x => (i, x) with
      | none => s.modPlot pid fun p => { p with parkHold := 0 }
      | some (i, x) =>
        let s := s.modPlot pid fun p =>
          { p with park := p.park.eraseIdx i, parkHold := if i < p.parkHold then p.parkHold - 1 else p.parkHold }
        let out (s : State) (x : LinkAct) : State := s.modPlot pid fun p => p.toLink x
        match x with
        | .hq n t ws => if (p.hqs.getD n {}).ok then s.writeHq pid n t ws out else s.dropHq pid n t 0x46 0
        | x => out s x
/-- Every parked entry that may leave does. -/
def State.unpark (s : State) (pid : Nat) : State :=
  let n := ((s.plot? pid).map fun p => p.park.length).getD 0
  (List.range (n + 1)).foldl (fun (s : State) _ => s.unparkOne pid) s
/-- HOST_QUEUE_ENTRY_WRITE (R231): the oldest entry of plot `p` on its way to the host-queue unit; with `flag`, a parked one. -/
def execHostQueueEntryWrite (s : State) : Out :=
  if s.ev.flag then .next (s.unparkOne s.ev.p)
  else match (s.plot? s.ev.p).bind fun p => p.hqIn.head? with
    | none => .next s
    | some (n, t, ws) =>
      .next ((s.modPlot s.ev.p fun p => { p with hqIn := p.hqIn.drop 1 }).offerHq s.ev.p n t ws)
/-- HQCI_WRITE (R231): the host writes `v` to HQCI of queue `n`. -/
def execHqciWrite (s : State) : Out :=
  onBar s fun p => (s.modPlot p.pid fun p => { p with hqs := p.hqs.modify s.ev.n fun q => { q with ci := s.ev.v.setWidth 32 } }).unpark p.pid
/-- The host writes HQBASE of queue n (R229); with EN clear, every entry parked for the queue is discarded and reported (R231). -/
def State.setHqBase (s : State) (pid n : Nat) (v : Word) : State :=
  match s.plot? pid with
  | none => s
  | some p =>
    let s1 := s.modPlot pid fun p => { p with hqs := p.hqs.modify n fun q => { q with base := v &&& 0x800FFFFFFFFFFFFF } }
    if v.getLsbD 63 then s1
    else
      let s2 := s1.modPlot pid fun p => { p with park := p.park.filter (fun x => !x.ofHq n),
                                                 parkHold := ((p.park.take p.parkHold).filter fun x => !x.ofHq n).length }
      p.park.foldl (fun (s : State) x => match x with
        | .hq m t _ => if m = n then s.dropHq pid n t 0x46 0 else s
        | _ => s) s2
/-- HOST_QUEUE_DISABLE (R231): the host clears EN of queue `n`; the other bits are those of `v`. -/
def execHostQueueDisable (s : State) : Out :=
  onBar s fun p => s.setHqBase p.pid s.ev.n (s.ev.v &&& 0x7FFFFFFFFFFFFFFF)

/-! BAR2 (R371). -/

/-- A store of some bytes after a plot-physical address, one entry a line (R188). -/
def maskedStore (a : Nat) (xs : List (Nat × Byte)) : List HEntry :=
  ((xs.map fun x => lineOf (a + x.1)).eraseDups).map fun l =>
    let ys := xs.filter fun x => lineOf (a + x.1) == l
    { tags := [], line := l, va := a, act := .store (ys.map fun x => (a + x.1, x.2, 0xFF)) }
/-- A store of bytes to plot-physical memory. -/
def hostStore (a : Nat) (bs : List Byte) : List HEntry := maskedStore a ((List.range bs.length).zip bs)
/-- A range of BAR2 lies in the plot's memory (R370). -/
def Plot.inBar2 (p : Plot) (a n : Nat) : Bool := decide (n ≠ 0 ∧ a + n ≤ p.memsz)
/-- HOST_BAR2_WRITE (R371, R395): bytes to address `v` of plot `p`; with `flag`, to the staging window of the PF, which then holds
the image `img`. -/
def execHostBar2Write (s : State) : Out :=
  let a := s.ev.v.toNat
  if s.ev.flag then .next (s.modDev fun d => { d with staged := some s.ev.img })
  else onBar s fun p =>
    if p.inBar2 a s.ev.bytes.length then (hostStore a s.ev.bytes).foldl (fun (s : State) e => s.joinWq p.pid e) s
    else s.answers [1]
/-- Bytes as little-endian words. -/
def bytesWords (bs : List Byte) : List Word :=
  (List.range ((bs.length + 7) / 8)).map fun i => BitVec.ofNat 64 (leNat ((bs.drop (8 * i)).take 8))
/-- HOST_BAR2_READ (R371): `n` bytes at address `v`. A line with an error gives no data; the request ends with Completer Abort. -/
def execHostBar2Read (s : State) : Out :=
  let a := s.ev.v.toNat
  onBar s fun p =>
    if !p.inBar2 a s.ev.n then s.answers [1]
    else match (List.range s.ev.n).findSome? fun i => (p.lineErr (lineOf (a + i))).map fun c => (c, a + i) with
      | some (cause, x) => (s.postAll p.pid [] cause (BitVec.ofNat 64 (64 * lineOf x)) (Config.freeWord x 0)).answers [2]
      | none => s.answers (0 :: bytesWords (p.home.bytes a s.ev.n))
/-- Every entry of WQ for a line is applied, in order (R172). -/
def State.settleLine (s : State) (pid line : Nat) : State :=
  match s.plot? pid with
  | none => s
  | some p =>
    let s1 := s.modPlot pid fun p => { p with wq := p.wq.filter fun e => e.line != line }
    (p.wq.filter fun e => e.line == line).foldl (fun (s : State) e => s.applyHome pid e) s1
/-- HOST_ATOMICOP (R371): `op`, of `n` bytes, at address `v` with operand `w`, and for a compare-and-swap the value to compare first in
`nums`. Another size or a misaligned address gets Completer Abort and is logged. -/
def execHostAtomicop (s : State) : Out :=
  let a := s.ev.v.toNat
  let n := s.ev.n
  let ok : Bool := match s.ev.op with
    | .add => true
    | .swap => true
    | .cas => true
    | _ => false
  onBar s fun p =>
    if !ok ∨ !p.inBar2 a n then s.answers [1]
    else if (n ≠ 4 ∧ n ≠ 8) ∨ a % n ≠ 0 then
      (s.logNote (some p.pid) 7 0 0 s.ev.v s.ev.w).answers [2]
    else
      let s := s.settleLine p.pid (lineOf a)
      match ((s.plot? p.pid).bind fun q => q.lineErr (lineOf a)), s.plot? p.pid with
      | some cause, _ => (s.postAll p.pid [] cause (BitVec.ofNat 64 (64 * lineOf a)) (Config.freeWord a 0)).answers [2]
      | none, some q =>
        let act : HAct := .atom s.ev.op (n == 8) true a s.ev.w (BitVec.ofNat 64 (s.ev.nums.getD 0 0)) true
        let (m, old) := applyAct q.mem act
        ((s.modPlot p.pid fun p => { p with mem := m }).wakeGlob p.pid act.touches).answers [0, BitVec.ofNat 64 old]
      | none, none => s

/-! BAR0 (R370, R374, R376, R396). -/

/-- A word of an entry of an error log whose entries are listed newest first and numbered from 0 (R396). -/
def logWord (log : List (List Word)) (count i w : Nat) : Word :=
  let k := (count + 4095 - i % 4096) % 4096
  if i < count ∨ count > 4096 then (log.getD k []).getD w 0 else 0
/-- PSTATE.STATE (R374). -/
def Plot.stateCode (p : Plot) : Nat := if p.torn then 4 else if p.susp == .taken then 3 else if p.idle then 1 else 2
/-- The bits of word i of the launch mailbox that are not reserved (R37): the others read as zero (R6), while a submission takes all 64 bytes as
they were written. -/
def mailboxMask (i : Nat) : Word :=
  match i with
  | 0 => 0x0000FFFFFFFFFFFF
  | 1 => 0x0FFFFFFFFFFFFFFF
  | 5 => 0xFFFFFFFFFFFFFF1F
  | 6 => 0x0000FFFFFFFFFFFF
  | _ => 0xFFFFFFFFFFFFFFFF
/-- What a word of BAR0 reads as (R8, R37, R229, R370, R374, R376, R396): what the pages do not define, and what is write-only, is 0. -/
def Plot.bar0 (p : Plot) (off : Nat) : Word :=
  let n := BitVec.ofNat 64
  if off < 0x40 then p.mailbox.getD (off / 8) 0 &&& mailboxMask (off / 8)
  else if 0x10000 ≤ off ∧ off < 0x10200 then
    let q := p.hqs.getD ((off - 0x10000) / 32) {}
    match off % 32 / 8 with
    | 0 => q.base
    | 1 => q.pia
    | 2 => q.pi.setWidth 64
    | _ => q.ci.setWidth 64
  else if off = 0x20000 then n (p.stateCode + 2 ^ 4 * p.pid)
  else if off = 0x20008 then n p.tiles.length
  else if off = 0x20010 then n p.memsz
  else if off = 0x20018 then p.ptroot
  else if off = 0x20020 then p.tlbinv
  else if off = 0x20028 then n (64 * p.park.length)
  else if off = 0x20030 then p.parkLost.setWidth 64
  else if off = 0x20038 then n (2 ^ 32 * p.job.toNat)
  else if off = 0x30000 then p.pfqBase
  else if off = 0x30008 then p.pfqPi.setWidth 64
  else if off = 0x30010 then p.pfqCi.setWidth 64
  else if 0x40000 ≤ off ∧ off < 0x60000 then logWord p.errlog p.errs ((off - 0x40000) / 32) (off % 32 / 8)
  else 0
/-- A host reads the word of BAR0 that holds an offset. A plot that is torn down still shows so to its function (R374). -/
def readBar0 (s : State) (off : Nat) : Out :=
  match s.plot? s.ev.p with
  | none => .next (s.answers [1])
  | some p =>
    let bound := !p.torn || s.dev.vfs.any fun v => v.num == p.vf && v.plot == some p.pid
    .next (if s.takes p && bound then s.answers [0, p.bar0 (off - off % 8)] else s.answers [1])

/-! The loss and the return of the host (R392, R393). -/

/-- HOSTBEAT_WRITE (R392, R395). -/
def execHostbeatWrite (s : State) : Out :=
  .next (if s.dev.linkUp then
    s.modDev fun d => { d with beat := s.ev.v &&& 0xFFFFFFFF00000001, beatAt := d.time, beatSince := true } else s)
/-- What waits on the host link of a lost host parks, but for what returns a value (R392). -/
def State.parkLink (s : State) (pid : Nat) : State :=
  match s.plot? pid with
  | none => s
  | some p =>
    let stays (x : LinkAct) : Bool := match x with
      | .mem e => e.act.returns
      | _ => false
    let s := s.modPlot pid fun p => { p with link := p.link.filter stays }
    (p.link.filter fun x => !stays x).foldl (fun (s : State) x => s.toHost pid x) s
/-- HOST_LOST (R377, R392): the link goes down, when `flag` says so, or 100 ms have passed without a heartbeat. -/
def execHostLost (s : State) : Out :=
  let d := s.dev
  let late := d.beat.getLsbD 0 && decide (d.time ≥ d.beatAt + 100000000)
  let cut := s.ev.flag && d.linkUp
  let s0 := if cut then s.modDev fun d => { d.allError with linkUp := false } else s
  if d.hostlost ∨ (!cut ∧ !late) then .next s0
  else
    let r : Report := { cause := 0xA5, kind := 1, info := BitVec.ofNat 64 ((d.time - d.beatAt) / 1000000), time := BitVec.ofNat 64 d.time }
    let s1 := s0.modDev fun d => ({ d with hostlost := true, beatSince := false, pfOwns := false } : Device).event 0 r
    .next ((s1.plots.map (·.pid)).foldl (fun (s : State) pid => s.parkLink pid) s1)
/-- HOST_RETURN (R393): the link is up, or comes up as `flag` says, and a heartbeat has arrived if they are checked. -/
def execHostReturn (s : State) : Out :=
  let s0 := if s.ev.flag then s.modDev fun d => { d with linkUp := true } else s
  let d := s0.dev
  if !d.hostlost ∨ !d.linkUp ∨ (d.beat.getLsbD 0 ∧ !d.beatSince) then .next s0
  else
    let s1 := s0.modDev fun d => { d with hostlost := false }
    let s2 := { s1 with plots := s1.plots.map fun (p : Plot) => { p with parkHold := p.park.length } }
    .next ((s2.plots.map (·.pid)).foldl (fun (s : State) pid => s.unpark pid) s2)
/-- DEVCTL_TAKE (R393, R395). -/
def execDevctlTake (s : State) : Out := .next (if s.dev.linkUp then s.modDev fun d => { d with pfOwns := true } else s)
/-- A step on the host link of a plot that the table does not name: its head reaches the host, or, when there is none or it waits, a
parked entry leaves. -/
def State.hostStep (s : State) (pid : Nat) : State :=
  match s.plot? pid with
  | none => s
  | some p => if (p.link.head?.map p.linkHeld).getD true then s.unparkOne pid else s.linkStep pid

end Sys2Proof.Machine
end

