-- ==== Sys2Proof/Machine/DeviceUnit.lean ====
section
/-! DEFINITION. The device (R377 to R379, R394 to R398): start and reset, firmware, registers without an event of their own, errors and
their injection, lifetime counters, SPDM and the link's protection. -/
namespace Sys2Proof.Machine

/-! Start and reset (R394, R395). -/

/-- A lifetime counter of the device: starts, failed starts, minimal-mode entries (R398). -/
def lifeDevice (i : Nat) : Nat := 2 ^ 41 + i
/-- The powered hours that plane time has made full are counted (R398). -/
def Device.hours (d : Device) : Device :=
  let h := (d.time - d.hoursAt) / 3600000000000
  { d.countsN (lifeMeasured 0 0 0) h with hoursAt := d.hoursAt + 3600000000000 * h }
/-- The counters as non-volatile storage takes them: 64-bit and saturating (R398). -/
def Device.saved (d : Device) : Device :=
  let d := d.hours
  { d with lifeNew := [], life := d.lifeNew.foldl (fun (l : List (Nat × Nat)) x =>
      (x.1, min (2 ^ 64 - 1) ((l.lookup x.1).getD 0 + x.2)) :: l.filter fun y => y.1 != x.1) d.life }
/-- A version after a reset, at which an accepted image takes effect (R395). -/
def verOf (i : Option Image) (now : BitVec 32) : BitVec 32 := (i.map (·.version)).getD now
/-- A security version after a reset. -/
def secOf (i : Option Image) (now : Nat) : Nat := (i.map (·.secVersion)).getD now
/-- The device resets: what lies outside it, what its non-volatile storage holds and the error log stay; accepted images take
effect. -/
def Device.restart (d : Device) (fails : BitVec 2) (reason detail : BitVec 4) : Device :=
  let d := d.saved
  { time := d.time, period := d.period, bootAt := d.time, fails := fails, reason := reason, detail := detail, linkUp := d.linkUp,
    minSec := d.minSec, svcVer := verOf d.svcNext d.svcVer, mgmtVer := verOf d.mgmtNext d.mgmtVer, rotVer := verOf d.rotNext d.rotVer,
    bootSvc := verOf d.svcNext d.svcVer, svcSec := secOf d.svcNext d.svcSec, mgmtSec := secOf d.mgmtNext d.mgmtSec,
    rotSec := secOf d.rotNext d.rotSec,
    errlog := d.errlog, errCount := d.errCount, life := d.life, hoursAt := d.hoursAt, fabNum := d.fabNum, host := d.host,
    hostAtomics := d.hostAtomics, peers := d.peers, replies := d.replies, ports := List.replicate 24 { refillAt := d.time },
    beatAt := d.time }
/-- The machine after a reset of the device: no plot. -/
def State.restart (s : State) (fails : BitVec 2) (reason detail : BitVec 4) : State :=
  { s with plots := [], dev := s.dev.restart fails reason detail }
/-- DEVCTL_RESTART (R393, R395): by the PF, over the link, while it is in control. -/
def execDevctlRestart (s : State) : Out := .next (if s.dev.linkUp ∧ s.dev.pfOwns then s.restart s.dev.fails 0 0 else s)
/-- A start has failed: the device resets itself, or enters minimal mode after the third in a row (R394). -/
def State.failStart (s : State) (reason detail : Nat) : State :=
  let n := min 3 (s.dev.fails.toNat + 1)
  let r := BitVec.ofNat 4 reason
  let x := BitVec.ofNat 4 detail
  let s := s.modDev fun d => d.counts (lifeDevice 1)
  if n = 3 then s.modDev fun d => { d.counts (lifeDevice 2) with devstat := 2, fails := 3, reason := r, detail := x }
  else s.restart (BitVec.ofNat 2 n) r x
/-- A start must reach READY within 60 s (R394). -/
def startLimit : Nat := 60000000000
/-- DEVICE_START (R17, R394): the start reaches READY with the logical shape `nums`: logical tiles per die, and, when 48 numbers are given,
the HBM channels of every stack and the lanes of every port as well; or the shape stays; or the start fails with the reason and
detail `fail`. -/
def execDeviceStart (s : State) : Out :=
  if s.dev.devstat ≠ 0 then .next s
  else
    let s := s.modDev fun d => d.counts (lifeDevice 0)
    match s.ev.fail with
    | some (r, x) => .next (s.failStart r x)
    | none =>
      -- 60 s without READY: the start counts as failed
      if s.dev.time ≥ s.dev.bootAt + startLimit then .next (s.failStart 5 0)
      else
      let ns := s.ev.nums
      let tiles := if ns.length = 8 ∨ ns.length = 48 then (ns.take 8).map (min 48 ·) else s.dev.dieTiles
      let hbm := if ns.length = 48 then ((ns.drop 8).take 16).map (min 32 ·) else s.dev.hbm
      let lanes (i : Nat) (x : Port) : Port :=
        if ns.length = 48 then { x with lanes := min x.lanes (ns.getD (24 + i) 0) } else x
      .next (s.modDev fun d => { d with devstat := 1, fails := 0, reason := 0, detail := 0, dieTiles := tiles, hbm := hbm,
                                        ports := ((List.range d.ports.length).zip d.ports).map fun x => lanes x.1 x.2 })
/-- START_TIMEOUT (R394): 60 s without READY; the start counts as one, and as a failed one (R398). -/
def execStartTimeout (s : State) : Out :=
  .next (if s.dev.devstat = 0 ∧ s.dev.time ≥ s.dev.bootAt + startLimit then (s.modDev fun d => d.counts (lifeDevice 0)).failStart 5 0 else s)
/-- FWCTL_COMMIT (R359, R395): the host writes COMMIT and the verification begins, when `flag` says so; else it ends, and the staged image
is accepted, or not. -/
def execFwctlCommit (s : State) : Out :=
  if s.ev.flag then .next (if s.dev.linkUp then s.modDev fun d => { d with fwResult := 1 } else s)
  else .next (s.modDev fun d =>
    match d.staged with
    | none => { d with fwResult := 3 }
    | some i =>
      if !i.signed then { d with fwResult := 3 }
      else if i.secVersion < d.minSec then { d with fwResult := 4 }
      else match i.kind with
        | .service => { d with fwResult := 2, svcNext := some i }
        | .mgmt => { d with fwResult := 2, mgmtNext := some i }
        | .rot => { d with fwResult := 2, rotNext := some i })

/-! Registers (R8, R229, R354, R374, R376, R395). -/

/-- What a device register reads as (R8, R395). -/
def Device.read (d : Device) (off : Nat) : Word :=
  match off with
  | 0x00 => BitVec.ofNat 64 (d.devstat.toNat + 2 ^ 4 * d.reason.toNat + 2 ^ 8 * d.detail.toNat + 2 ^ 12 * d.fails.toNat + 2 ^ 14 * boolNat d.hostlost)
  | 0x10 => d.beat
  | 0x18 => BitVec.ofNat 64 (d.fwLen.toNat + 2 ^ 33 * d.fwResult.toNat)
  | 0x20 => d.inj.setWidth 64
  | 0x28 => d.injAddr
  | _ => 0
/-- The PF reaches the device's registers over the link; the fabric manager reaches DEVSTAT, the error log and the counters while the host
is lost (R393). -/
def Device.readable (d : Device) (mgr : Bool) : Bool := if mgr then d.hostlost else d.linkUp
/-- The PF or the fabric manager reads the register that holds an offset. -/
def State.readPf (s : State) (mgr : Bool) (off : Nat) : State :=
  let o := off - off % 8
  if s.dev.readable mgr && (!mgr || o == 0) then s.answers [0, s.dev.read o] else s
/-- The PF or the fabric manager reads entry i of the error log (R396). -/
def State.readLog (s : State) (mgr : Bool) (i : Nat) : State :=
  if s.dev.readable mgr then s.answers (0 :: (List.range 4).map fun w => logWord s.dev.errlog s.dev.errCount i w) else s
/-- The lifetime counters, names and values (R398): what is stored and what has come since. -/
def Device.counters (d : Device) : List Word := d.saved.life.flatMap fun x => [BitVec.ofNat 64 x.1, BitVec.ofNat 64 x.2]
/-- The fabric manager reads the counters while the host is lost (R393). -/
def State.readCounters (s : State) : State := if s.dev.hostlost then s.answers (0 :: s.dev.counters) else s
/-- The rates, in tenths of GT/s, and the widths that the link may come up at (R369). -/
def linkModes (rate width : Nat) : Bool := [640, 320, 160, 80, 25].contains rate && [16, 8, 4, 1].contains width
/-- The link has trained (R369). -/
def State.train (s : State) (rate width : Nat) : State :=
  if linkModes rate width then s.modDev fun d => { d with rate := rate, width := width } else s

/-! Errors (R143, R358, R384, R396, R397). -/

/-- An entry whose cause the manual does not give for its array; `corr` says that the error was corrected. -/
def State.logFree (s : State) (pid : Nat) (arr unit : Nat) (addr : Word) (corr : Bool) : State :=
  { s.logAs (some corr) (some pid) ((Config.freeWord s.fresh 3).toNat % 256) arr unit 0 addr (Config.freeWord s.fresh 5) with fresh := s.fresh + 1 }
/-- A tile's copy of a line goes, from the cache and from the views (R172). -/
def Plot.dropCopy (p : Plot) (t line : Nat) : Plot :=
  (p.modTile t fun t => { t with tc := t.tc.filter fun x => x.1 != line }).modViews t fun v => v.filter fun x => x != line
/-- A translation leads to the page of device memory that holds a physical address. -/
def TlbEntry.leads (e : TlbEntry) (a : Nat) : Bool := e.kind == 0 && decide (e.base ≤ a ∧ a < e.base + e.size)
/-- An error arises at a place of an array that is no link: kind 1 correctable, 2 uncorrectable, 3 a failed tag. A correctable one is
corrected and logged. Of the others, one in LM, memory or an instruction stands until an access meets it; a cached copy or translation is
given up and logged. A service core's memory has the units from 2^14 on. -/
def State.strikeAt (s : State) (pid arr unit addr kind : Nat) : State :=
  let line := addr / 64
  match arr with
  | 0 =>
    if kind = 1 then s.log (some pid) 0x25 0 unit 0 (window (BitVec.ofNat 14 unit) addr) (Config.freeWord addr 0)
    else if unit ≥ 2 ^ 14 then s.modPlot pid fun p => p.modTile (unit - 2 ^ 14) fun t => t.modSvc fun v =>
      { v with ctx := { v.ctx with lmErr := (8 * (addr / 8)) :: v.ctx.lmErr } }
    else s.modPlot pid fun p => p.modCore unit fun c => { c with lmErr := (8 * (addr / 8)) :: c.lmErr }
  | 1 =>
    if kind = 1 then s.log (some pid) 0xB5 1 ((Config.freeWord addr 1).toNat % 16) 0 (BitVec.ofNat 64 (64 * line)) (Config.freeWord addr 0)
    else s.modPlot pid fun p =>
      { p with memErr := if kind = 3 then p.memErr ++ [(line, 0xB1)] else (line, 0xB2) :: p.memErr }
  | 2 => (s.modPlot pid fun p => p.dropCopy unit line).logFree pid 2 unit (BitVec.ofNat 64 addr) (kind = 1)
  | 3 => (s.modPlot pid fun p => if kind = 1 then p else p.modTile unit fun t => { t with tlb := t.tlb.filter fun e => !e.leads addr }).logFree
      pid 3 unit (BitVec.ofNat 64 addr) (kind = 1)
  | 4 =>
    if kind = 1 then s.logFree pid 4 unit (BitVec.ofNat 64 addr) true
    else s.modPlot pid fun p => { p with codeErr := (unit, addr, none) :: p.codeErr }
  | _ => s.logFree pid arr unit (BitVec.ofNat 64 addr) (kind = 1)
/-- The number of an array class (R396). -/
def arrNum : Arr → Nat
  | .lm => 0 | .hbm => 1 | .tc => 2 | .tlb => 3 | .icache => 4 | .port => 5 | .tsesram => 6 | .link => 7
/-- An armed injection of an uncorrectable error or of a failed tag waits in its array, of LM, memory or instructions, for the next access
(R397). -/
def State.marks (s : State) : State :=
  let kind := s.dev.inj.toNat / 16 % 4
  let a := s.dev.injAddr
  if !s.dev.inj.getLsbD 6 ∨ kind < 2 then s
  else match s.dev.inj.toNat % 16 with
    | 0 => s.strikeAt s.dev.injPlot 0 (fld a 31 18) (fld a 17 0) kind
    | 1 => s.strikeAt s.dev.injPlot 1 0 a.toNat kind
    | 4 => s.modPlot s.dev.injPlot fun p =>
      { p with codeErr := ((Config.codeAt a.toNat).1, (Config.codeAt a.toNat).2, some a.toNat) :: p.codeErr }
    | _ => s
/-- What an armed injection has left in its array goes, when no access has met it. -/
def State.unmarks (s : State) : State :=
  let kind := s.dev.inj.toNat / 16 % 4
  let a := s.dev.injAddr
  if !s.dev.inj.getLsbD 6 ∨ kind < 2 then s
  else s.modPlot s.dev.injPlot fun p => match s.dev.inj.toNat % 16 with
    | 0 => p.modCore (fld a 31 18) fun c => { c with lmErr := c.lmErr.erase (8 * (fld a 17 0 / 8)) }
    | 1 => { p with memErr := p.memErr.erase (a.toNat / 64, if kind = 3 then 0xB1 else 0xB2) }
    | 4 => { p with codeErr := p.codeErr.erase ((Config.codeAt a.toNat).1, (Config.codeAt a.toNat).2, some a.toNat) }
    | _ => p
/-- INJ_ARM (R395, R397): `v` is written to INJ, with ARM set, or clear as `flag` says; the place is INJADDR, in plot `p`: an LM address, else
a physical one. An uncorrectable error of LM, memory or instructions waits in its array for the next access; the others wait for
the access itself (log 26). -/
def execInjArm (s : State) : Out :=
  if s.dev.devstat = 2 then .next s
  else
    let w := s.ev.v.setWidth 7 &&& 0x3F
    .next (s.unmarks.modDev fun d => { d with inj := if s.ev.flag then w else w ||| 0x40, injPlot := s.ev.p }).marks
/-- REGISTER_WRITE (R8): `v` to the register `reg`, of plot `p` where it is a VF's; its writable fields change. -/
def execRegisterWrite (s : State) : Out :=
  let v := s.ev.v
  let pf (f : Device → Device) : Out := .next (if s.dev.linkUp then s.modDev f else s)
  let mine (f : Plot → Plot) : Out := onBar s fun p => s.modPlot p.pid f
  match s.ev.reg with
  | .hqBase n => onBar s fun p => s.setHqBase p.pid n.val v
  | .hqPia n => mine fun p => { p with hqs := p.hqs.modify n.val fun q => { q with pia := v &&& 0xFFFFFFFFFFFF } }
  | .ptroot => mine fun p => { p with ptroot := v &&& 0xFFFFFFF001 }
  | .pfqBase => mine fun p => { p with pfqBase := v &&& 0x800FFFFFFFFFFFFF }
  | .pfqCi => mine fun p => { p with pfqCi := v.setWidth 32 }
  | .mailbox o => mine fun p => { p with mailbox := p.mailbox.set o.val v }
  | .fwLen => pf fun d => { d with fwLen := v.setWidth 32 }
  | .injAddr => .next (if s.dev.linkUp then (s.unmarks.modDev fun d => { d with injAddr := v }).marks else s)
  | .mbEvTail die => .next (s.modDev fun d => { d with mboxes := d.mboxes.modify die.val fun m => { m with tail := v.setWidth 32 } })
  | .readOnly => .next s

/-- PATROL_SCRUB (R396): line `n` of plot `p` is read; a correctable error, found when `flag` says so, is corrected and logged, and one
that cannot be corrected is logged. A line that is no plot's is logged with NOPLOT. -/
def execPatrolScrub (s : State) : Out :=
  let line := s.ev.n
  let own := ((s.plot? s.ev.p).map fun p => decide (64 * line < p.memsz) && !p.torn).getD false
  let pid := if own then some s.ev.p else none
  let put (cause : Nat) (syn : Word) : Out :=
    .next (s.log pid cause 1 ((Config.freeWord line 1).toNat % 16) 0 (BitVec.ofNat 64 (64 * line)) syn)
  match (if own then (s.plot? s.ev.p).bind fun p => p.lineErr line else none) with
  | some cause => put cause.toNat (if cause = 0xB2 then Config.freeWord line 0 else 0)
  | none => if s.ev.flag then put 0xB5 (Config.freeWord line 0) else .next s
/-- Measurements that come from outside, each a kind, a unit and a value, raise their counters: spares, and hours at a temperature (R398). -/
def Device.measures (d : Device) : List Nat → Device
  | k :: u :: v :: rest => (if 1 ≤ k ∧ k ≤ 3 then d.counts (lifeMeasured k u v) else d).measures rest
  | _ => d
/-- LIFETIME_COUNTER_WRITE (R398): the counters are written; `nums` holds the measurements to be counted first. -/
def execLifetimeCounterWrite (s : State) : Out := .next (s.modDev fun d => (d.measures s.ev.nums).saved)

/-! SPDM (R378) and the link's protection (R379). -/

/-- Gives the answer of a request to function `n`: a response code of SPDM and its words. -/
def State.respond (s : State) (code : Nat) (ws : List Word) (f : Vf → Vf) : State :=
  { s.modDev fun d => d.modVf s.ev.n fun v => { f v with resp := some (code, ws) } with fresh := s.fresh + 1 }
/-- A request that its state admits, or the response ERROR. -/
def onSpdm (s : State) (need : Vf → Bool) (code : Nat) (ws : List Word) (f : Vf → Vf) : Out :=
  if !s.dev.linkUp ∨ (s.dev.devstat = 2 ∧ s.ev.n ≠ 0) then .next s
  else if need (s.dev.vf s.ev.n) then .next (s.respond code ws f) else .next (s.respond 0x7F [] fun v => v)
/-- Words that the root of trust makes: digests, signatures, certificates. -/
def rotWords (seed n : Nat) : List Word := (List.range n).map fun i => Config.freeWord seed (16 + i)
/-- GET_VERSION (R378): SPDM 1.3; the exchange begins anew. -/
def execGetVersion (s : State) : Out := onSpdm s (fun _ => true) 0x04 [0x13] fun v => { v with spdm := 1, session := 0 }
/-- GET_CAPABILITIES (R378). -/
def execGetCapabilities (s : State) : Out :=
  onSpdm s (fun v => decide (v.spdm ≥ 1)) 0x61 (rotWords 0 1) fun v => { v with spdm := max 2 v.spdm }
/-- NEGOTIATE_ALGORITHMS (R378): RSASSA-3072, SHA-256, FFDHE3072, AES-256-GCM, by SPDM's bits. -/
def execNegotiateAlgorithms (s : State) : Out := onSpdm s (fun v => decide (v.spdm ≥ 2)) 0x63 [4, 1, 2, 2] fun v => { v with spdm := 3 }
/-- The exchange has settled its algorithms. -/
def Vf.agreed (v : Vf) : Bool := decide (v.spdm ≥ 3)
/-- GET_DIGESTS (R378). -/
def execGetDigests (s : State) : Out := onSpdm s Vf.agreed 0x01 (rotWords 1 4) id
/-- GET_CERTIFICATE (R378): the chain of slot 0. -/
def execGetCertificate (s : State) : Out := onSpdm s (fun v => v.agreed && s.ev.j == 0) 0x02 (rotWords 2 4) id
/-- CHALLENGE (R378). -/
def execChallenge (s : State) : Out := onSpdm s Vf.agreed 0x03 (rotWords s.fresh 4) id
/-- The size of BAR2: the least power of two that holds MEMSZ (R370). -/
def bar2Size (memsz : Nat) : Nat := ((List.range 41).map (2 ^ ·)).find? (fun x => decide (memsz ≤ x)) |>.getD 0
/-- The TDI report of a function (R377): plot number, SHAPE.TILES, MEMSZ, JOB.ID, the BAR layout, the interface
identifier, and the MSI-X table. -/
def State.tdiReport (s : State) (n : Nat) : List Word :=
  match (s.dev.vf n).plot.bind s.plot? with
  | some p => [BitVec.ofNat 64 p.pid, BitVec.ofNat 64 p.tiles.length, BitVec.ofNat 64 p.memsz, p.job.setWidth 64, 0x100000,
      BitVec.ofNat 64 (bar2Size p.memsz), BitVec.ofNat 64 n] ++ (s.dev.vf n).table.flatMap fun x => [x.1, x.2]
  | none => []
/-- What a measurement index covers, as far as the state holds it (R377, R378); the digest of the boot ROM is fixed words that the manual
does not give, and a version stands for the digest of an image. -/
def State.measured (s : State) (i : Nat) : List Word :=
  match i with
  | 1 => rotWords 3 4
  | 2 => [s.dev.rotVer.setWidth 64]
  | 3 => [s.dev.mgmtVer.setWidth 64]
  | 4 => [s.dev.svcVer.setWidth 64]
  | 5 => (s.dev.dieTiles ++ s.dev.ports.map (·.lanes) ++ s.dev.hbm ++ [s.dev.svcSec, s.dev.mgmtSec, s.dev.rotSec, s.dev.minSec]).map
      (BitVec.ofNat 64)
  | 6 => s.tdiReport s.ev.n
  | _ => []
/-- GET_MEASUREMENTS (R378): index `j`, 6 only of a VF. -/
def execGetMeasurements (s : State) : Out :=
  onSpdm s (fun v => v.agreed && decide (1 ≤ s.ev.j ∧ s.ev.j ≤ 6 ∧ (s.ev.j = 6 → s.ev.n ≠ 0))) 0x60
    (BitVec.ofNat 64 s.ev.j :: s.measured s.ev.j ++ rotWords s.fresh 4) id
/-- KEY_EXCHANGE (R378): opens a session. -/
def execKeyExchange (s : State) : Out :=
  onSpdm s (fun v => v.agreed && v.session == 0) 0x64 (rotWords s.fresh 4) fun v => { v with session := 1 }
/-- FINISH (R378): completes a session. -/
def execFinish (s : State) : Out := onSpdm s (fun v => v.session == 1) 0x65 [] fun v => { v with session := 2 }
/-- KEY_UPDATE (R378). -/
def execKeyUpdate (s : State) : Out := onSpdm s (fun v => v.session == 2) 0x69 [] id
/-- END_SESSION (R378). -/
def execEndSession (s : State) : Out := onSpdm s (fun v => v.session == 2) 0x6C [] fun v => { v with session := 0 }
/-- The code of a TDI's state (R377), in the order of its table. -/
def tdiCode : Tdi → Word
  | .unlocked => 0 | .locked => 1 | .run => 2 | .error => 3
/-- VENDOR_DEFINED (R377 to R379, R398): within a session, a TDISP request moves the TDI of function `n` or reads its report or state,
IDE_KM sets the key of the function's one stream (R369), and the PF reads the lifetime counters. -/
def execVendorDefined (s : State) : Out :=
  if !s.dev.linkUp ∨ (s.dev.devstat = 2 ∧ s.ev.n ≠ 0) then .next s
  else if (s.dev.vf s.ev.n).session ≠ 2 then .next (s.respond 0x7F [] id)
  else match s.ev.vendor with
    | .ideKey k => .next (s.respond 0x7E [] fun v => { v with keys := [k] })
    | .tdispReport => .next (s.respond 0x7E (s.tdiReport s.ev.n) id)
    | .tdispState => .next (s.respond 0x7E [tdiCode (s.dev.vf s.ev.n).tdi] id)
    | .counters => .next (if s.ev.n = 0 then s.respond 0x7E s.dev.counters id else s.respond 0x7F [] id)
    | r => .next ((s.tdisp s.ev.n r).respond 0x7E [] id)
/-- A TLP of a stream fails its check (R377, R379): it is dropped and posted, the stream becomes insecure, and every TDI that uses it enters
ERROR. -/
def State.ideFails (s : State) (stream : Nat) : State :=
  let hit (v : Vf) : Vf := if v.keys.contains stream then { v with tdi := .error, keys := v.keys.filter fun x => x != stream } else v
  s.modDev fun d =>
    ({ d with vfs := d.vfs.map hit } : Device).event 0
      { cause := 0xA6, kind := 1, info := BitVec.ofNat 64 stream, time := BitVec.ofNat 64 d.time }
/-- IDE_INTEGRITY (R377, R379): of stream `n`. -/
def execIdeIntegrity (s : State) : Out := .next (s.ideFails s.ev.n)

end Sys2Proof.Machine
end

