-- ==== Sys2Proof/Machine/Fabric.lean ====
section
/-! DEFINITION. The fabric (R355 to R357, R385 to R389): link errors and retraining, abort flits and repeats, a peer's part in an access,
and the loss of synchronisation. -/
namespace Sys2Proof.Machine

/-! Ports (R388). -/

/-- Changes a port. -/
def State.modPort (s : State) (n : Nat) (f : Port → Port) : State := s.modDev fun d => { d with ports := d.ports.modify n f }
/-- A lifetime counter of a port: replays, retrainings, retired lanes (R398). -/
def lifePort (kind n : Nat) : Nat := 2 ^ 43 + 32 * kind + n
/-- A flit on a port fails its CRC (R388), `before` earlier replays having failed; `lane` is the lane. After three failed replays the port
retrains, and with an empty bucket the lane is retired. -/
def State.flitFails (s : State) (n lane before : Nat) : State :=
  match s.dev.ports[n]? with
  | none => s
  | some x =>
    let at_ := BitVec.ofNat 64 n
    if !x.up then s
    else if before < 3 then
      ((s.modPort n fun x => { x with replays := before + 1 }).log none 0xA0 5 n 0 at_ (BitVec.ofNat 64 lane)).modDev
        fun d => d.counts (lifePort 0 n)
    else
      let left := x.bucket - 1
      let s1 := (s.modPort n fun x => { x with replays := 0, retraining := some s.dev.time, bucket := left,
                                               lanes := if x.bucket = 0 then x.lanes - 1 else x.lanes,
                                               retired := if x.bucket = 0 then x.retired + 1 else x.retired }).log
        none 0xA2 5 n 0 at_ (BitVec.ofNat 64 left)
      let s2 := s1.modDev fun d => d.counts (lifePort 1 n)
      if x.bucket ≠ 0 then s2
      else s2.modDev fun d => (d.counts (lifePort 2 n)).event 0
        { cause := 0xA1, kind := 1, addr := at_, info := BitVec.ofNat 64 (x.lanes - 1), time := BitVec.ofNat 64 d.time }
/-- LINK_REPLAY (R388): a flit on port `n` fails its CRC, the same one as before when `flag` says so; `j` is the lane. -/
def execLinkReplay (s : State) : Out :=
  .next (s.flitFails s.ev.n s.ev.j (if s.ev.flag then ((s.dev.ports[s.ev.n]?).map (·.replays)).getD 0 else 0))
/-- A packet of a plot whose GCM tag fails is dropped, logged and posted (R386). -/
def State.packetFails (s : State) (pid : Nat) (addr : Word) : State :=
  let r : Report := { cause := 0xB0, kind := 1, addr := addr, info := BitVec.ofNat 64 pid, pid := pid, time := BitVec.ofNat 64 s.dev.time }
  (s.modDev fun d => d.event 0 r).log none 0xB0 5 0 0 addr (BitVec.ofNat 64 pid)
/-- An error arises at a place of an array (R396, R397). At a port, a correctable one fails a flit once, an uncorrectable one until the port
retrains, and a failed tag drops a packet; at the host link, a failed tag is an integrity error of the stream that the address names. -/
def State.errorAt (s : State) (pid arr unit addr kind : Nat) : State :=
  match arr, kind with
  | 5, 1 => s.flitFails unit 0 0
  | 5, 2 => s.flitFails unit 0 3
  | 5, _ => s.packetFails pid (BitVec.ofNat 64 addr)
  | 7, 3 => (s.ideFails addr).logFree pid 7 unit (BitVec.ofNat 64 addr) false
  | _, _ => s.strikeAt pid arr unit addr kind
/-- RETRAIN_BUCKET_REFILL (R388): of port `n`, every 450 s. -/
def execRetrainBucketRefill (s : State) : Out :=
  .next (s.modPort s.ev.n fun x =>
    if s.dev.time < x.refillAt + 450000000000 then x else { x with bucket := min 8 (x.bucket + 1), refillAt := s.dev.time })
/-- RETRAINING_COMPLETE (R388): port `n` comes up on the lanes that it has; one without lanes stays down. -/
def execRetrainingComplete (s : State) : Out :=
  .next (s.modPort s.ev.n fun x => if x.lanes = 0 then x else { x with retraining := none })

/-! Packets (R355, R357, R385, R387). -/

/-- Entry j of a plot's fabric traffic, when no packet that the device has sent to its peer before it is still under way (R385), and `ok`
holds of it. -/
def onFabric (s : State) (ok : HEntry → Bool) (k : Plot → HEntry → State) : Out :=
  match (s.plot? s.ev.p).bind fun p => (p.fabric[s.ev.j]?).map fun e => (p, e) with
  | none => .next s
  | some (p, e) => .next (if ok e && s.fabClear e.peer e.fabNo then k p e else s)
/-- The entry has left the fabric. -/
def State.offFabric (s : State) : State := s.modPlot s.ev.p fun p => { p with fabric := p.fabric.eraseIdx s.ev.j }
/-- A fabric operation ends without being performed (R355, R357); an engine has it in its status (R345). -/
def State.fabricFails (s : State) (e : HEntry) (cause : Cause) (tries : Nat) : State :=
  let a := BitVec.ofNat 64 e.va
  e.tags.foldl (fun (s : State) t => if e.act.returns then s.fail s.ev.p t cause a (BitVec.ofNat 64 tries)
    else s.postIssuer s.ev.p t cause a (BitVec.ofNat 64 tries)) s.offFabric
/-- FABRIC_ABORT_FLIT (R357): the receiver discards the packet of entry `j` of plot `p`. -/
def execFabricAbortFlit (s : State) : Out :=
  onFabric s (fun e => !e.aborted) fun p e =>
    let e' : HEntry := { e with aborts := e.aborts + 1, aborted := true, nextTry := s.dev.time + 1000 }
    s.modPlot p.pid fun p => { p with fabric := p.fabric.set s.ev.j e' }
/-- FABRIC_REPEAT (R357): 1 us after an abort the source repeats the packet; after the eighth repeat has failed it delivers
FABRIC_ABORT. -/
def execFabricRepeat (s : State) : Out :=
  onFabric s (fun e => e.aborted && decide (e.nextTry ≤ s.dev.time)) fun p e =>
    if e.aborts > 8 then s.fabricFails e 0xA9 e.aborts
    else s.modPlot p.pid fun p => { p with fabric := p.fabric.set s.ev.j { e with aborted := false } }
/-- A request that the fabric carries (R385): 1 to 256 bytes within a block of 256, and an atomic of 4 or 8 bytes, naturally aligned. -/
def fabricForm (k a size : Nat) : Bool :=
  if k = 2 then (size == 4 || size == 8) && a % size == 0 else decide (1 ≤ size ∧ size ≤ 256 ∧ a / 256 = (a + size - 1) / 256)
/-- An access from another device arrives for a plot of its job here (R385 to R387): at plot-physical address `v`, of job `w`, from its
plot `n`; kind `k` 0 reads `t` bytes, 1 writes `bytes` but for those at the offsets of `nums`, which its byte mask leaves out, 2 does the
atomic `op` of `t` bytes with the operand and the comparison of `nums`; 3 is a packet of any kind whose tag fails. A refused one posts
PLOT_TAG. -/
def State.fromPeer (s : State) (k : Nat) : State :=
  let a := s.ev.v.toNat
  let size := if k = 1 then s.ev.bytes.length else s.ev.t
  if k = 3 then s.packetFails s.ev.n s.ev.v
  else if !fabricForm k a size then s
  else match s.plots.find? fun p => !p.torn && p.job == s.ev.w.setWidth 32 && decide (a + size ≤ p.memsz) with
  | none => s.packetFails s.ev.n s.ev.v
  | some p =>
    if k = 1 then
      (maskedStore a (((List.range size).zip s.ev.bytes).filter fun x => !s.ev.nums.contains x.1)).foldl (fun (s : State) e => s.joinWq p.pid e) s
    else
      let s := if k = 2 then s.settleLine p.pid (lineOf a) else s
      match s.plot? p.pid with
      | none => s
      | some q =>
        match (List.range size).findSome? fun i => (q.lineErr (lineOf (a + i))).map fun c => (c, a + i) with
        | some (cause, x) => (s.postAll q.pid [] cause (BitVec.ofNat 64 (64 * lineOf x)) (Config.freeWord x 0)).answers [2]
        | none =>
          if k = 2 then
            let act : HAct := .atom s.ev.op (size == 8) s.ev.flag a (BitVec.ofNat 64 (s.ev.nums.getD 0 0)) (BitVec.ofNat 64 (s.ev.nums.getD 1 0)) true
            let (m, old) := applyAct q.mem act
            ((s.modPlot q.pid fun p => { p with mem := m }).wakeGlob q.pid act.touches).answers [0, BitVec.ofNat 64 old]
          else s.answers (0 :: bytesWords (q.home.bytes a size))
/-- FABRIC_PEER_ACCESS (R355, R385, R387): entry `j` reaches its peer by port `n`. The peer performs it, refuses it, or, as `flag` says,
cannot take it yet. When `opt` holds a kind, this device is the peer. -/
def execFabricPeerAccess (s : State) : Out :=
  match s.ev.opt with
  | some k => .next (s.fromPeer k)
  | none =>
  let up := ((s.dev.ports[s.ev.n]?).map (·.up)).getD false
  onFabric s (fun e => up && !e.aborted && decide (e.nextTry ≤ s.dev.time)) fun p e =>
    let a := match e.act with
      | .store bs => (bs.head?.map (·.1)).getD 0
      | .atom _ _ _ a _ _ _ => a
      | .red _ _ _ a _ => a
      | .reds rs => (rs.head?.map (·.a)).getD 0
      | .read a _ => a
    if peerRefuses s p.job e.peer a then s.fabricFails e 0xA9 1
    else if s.ev.flag then
      if e.tries + 1 ≥ p.rtries then s.fabricFails e 0x40 (e.tries + 1)
      else
        let s := if e.act.returns then e.tags.foldl (fun (s : State) t => s.paused p.pid t) s else s
        let e' : HEntry := { e with tries := e.tries + 1, nextTry := s.dev.time + rnrWait (e.tries + 1) }
        s.modPlot p.pid fun p => { p with fabric := p.fabric.set s.ev.j e' }
    else
      match s.dev.peers.find? fun x => x.dev == e.peer with
      | none => s
      | some x =>
        let (m, old) := applyAct x.mem e.act
        let old := match e.act with
          | .read a n => x.mem.num a n
          | _ => old
        let s := s.offFabric.modDev fun d => { d with peers := d.peers.map fun (y : Peer) => if y.dev = e.peer then { y with mem := m } else y }
        let s := if e.act.returns then e.tags.foldl (fun (s : State) t => s.reply p.pid t [BitVec.ofNat 64 old]) s else s
        s.wakeGlob p.pid fun l => e.act.touchesAt (.peer e.peer) l

/-! Synchronisation (R389). -/

/-- FABRIC_SYNC_LOSS (R389): the ports have been down for 10 ms; `flag` says that links outside are at fault. -/
def execFabricSyncLoss (s : State) : Out :=
  let down := s.dev.ports.all fun x => match x.retraining with
    | some t => decide (t + 10000000 ≤ s.dev.time)
    | none => false
  .next (if s.ev.flag || down then s.modDev fun d => { d with syncLost := true } else s)
/-- FABRIC_SYNC_RETURN (R389). -/
def execFabricSyncReturn (s : State) : Out :=
  .next (if s.dev.ports.any Port.up then s.modDev fun d => { d with syncLost := false } else s)

end Sys2Proof.Machine
end

