-- ==== Sys2Proof/Machine/Dispatch.lean ====
section
/-! DEFINITION. The dispatch: one arm for each instruction and event, each a call of its meaning. -/
namespace Sys2Proof.Machine

def exec (i : Instr) (s : State) : Host.Outcome State Fault Refusal :=
  match i with
  | .add d a b => Sys2Proof.Machine.execAdd d a b s
  | .sub d a b => Sys2Proof.Machine.execSub d a b s
  | .and d a b => Sys2Proof.Machine.execAnd d a b s
  | .or d a b => Sys2Proof.Machine.execOr d a b s
  | .xor d a b => Sys2Proof.Machine.execXor d a b s
  | .andn d a b => Sys2Proof.Machine.execAndn d a b s
  | .shl d a b => Sys2Proof.Machine.execShl d a b s
  | .shr d a b => Sys2Proof.Machine.execShr d a b s
  | .sra d a b => Sys2Proof.Machine.execSra d a b s
  | .rotl d a b => Sys2Proof.Machine.execRotl d a b s
  | .minI64 d a b => Sys2Proof.Machine.execMinI64 d a b s
  | .maxI64 d a b => Sys2Proof.Machine.execMaxI64 d a b s
  | .minN64 d a b => Sys2Proof.Machine.execMinN64 d a b s
  | .maxN64 d a b => Sys2Proof.Machine.execMaxN64 d a b s
  | .mov d a => Sys2Proof.Machine.execMov d a s
  | .cmp a b => Sys2Proof.Machine.execCmp a b s
  | .tst a b => Sys2Proof.Machine.execTst a b s
  | .mul d a b => Sys2Proof.Machine.execMul d a b s
  | .mulhI64 d a b => Sys2Proof.Machine.execMulhI64 d a b s
  | .mulhN64 d a b => Sys2Proof.Machine.execMulhN64 d a b s
  | .divI64 d a b => Sys2Proof.Machine.execDivI64 d a b s
  | .divN64 d a b => Sys2Proof.Machine.execDivN64 d a b s
  | .remI64 d a b => Sys2Proof.Machine.execRemI64 d a b s
  | .remN64 d a b => Sys2Proof.Machine.execRemN64 d a b s
  | .clz d a => Sys2Proof.Machine.execClz d a s
  | .ctz d a => Sys2Proof.Machine.execCtz d a s
  | .pop d a => Sys2Proof.Machine.execPop d a s
  | .bext d a b => Sys2Proof.Machine.execBext d a b s
  | .bexts d a b => Sys2Proof.Machine.execBexts d a b s
  | .bins d a b => Sys2Proof.Machine.execBins d a b s
  | .sel c d a b => Sys2Proof.Machine.execSel c d a b s
  | .addi d a imm => Sys2Proof.Machine.execAddi d a imm s
  | .li d imm => Sys2Proof.Machine.execLi d imm s
  | .lhi d imm h => Sys2Proof.Machine.execLhi d imm h s
  | .cmpi d imm => Sys2Proof.Machine.execCmpi d imm s
  | .shli d a n => Sys2Proof.Machine.execShli d a n s
  | .shri d a n => Sys2Proof.Machine.execShri d a n s
  | .srai d a n => Sys2Proof.Machine.execSrai d a n s
  | .rotli d a n => Sys2Proof.Machine.execRotli d a n s
  | .bc c o => Sys2Proof.Machine.execBc c o s
  | .call o => Sys2Proof.Machine.execCall o s
  | .cbz d o => Sys2Proof.Machine.execCbz d o s
  | .cbnz d o => Sys2Proof.Machine.execCbnz d o s
  | .jr d => Sys2Proof.Machine.execJr d s
  | .nop => Sys2Proof.Machine.execNop s
  | .halt => Sys2Proof.Machine.execHalt s
  | .haltR d => Sys2Proof.Machine.execHaltR d s
  | .go d => Sys2Proof.Machine.execGo d s
  | .yield => Sys2Proof.Machine.execYield s
  | .sleepQ q n => Sys2Proof.Machine.execSleepQ q n s
  | .sleepJob d => Sys2Proof.Machine.execSleepJob d s
  | .sleepGe d t => Sys2Proof.Machine.execSleepGe d t s
  | .sleepGeG d t => Sys2Proof.Machine.execSleepGeG d t s
  | .rsr d n => Sys2Proof.Machine.execRsr d n s
  | .wsr n a => Sys2Proof.Machine.execWsr n a s
  | .cpgo d => Sys2Proof.Machine.execCpgo d s
  | .ld k p o a d => Sys2Proof.Machine.execLd k p o a d s
  | .st k p o a d => Sys2Proof.Machine.execSt k p o a d s
  | .lbit x p sg w d => Sys2Proof.Machine.execLbit x p sg w d s
  | .sbit x p w d => Sys2Proof.Machine.execSbit x p w d s
  | .baSet x a b => Sys2Proof.Machine.execBaSet x a b s
  | .qSet q a => Sys2Proof.Machine.execQSet q a s
  | .qAdvP q a => Sys2Proof.Machine.execQAdvP q a s
  | .qAdvC q a => Sys2Proof.Machine.execQAdvC q a s
  | .qLd d q n => Sys2Proof.Machine.execQLd d q n s
  | .qSt q a => Sys2Proof.Machine.execQSt q a s
  | .qStV q v => Sys2Proof.Machine.execQStV q v s
  | .qGet d q => Sys2Proof.Machine.execQGet d q s
  | .vadd t k b a d m => Sys2Proof.Machine.execVadd t k b a d m s
  | .vsub t k b a d m => Sys2Proof.Machine.execVsub t k b a d m s
  | .vmul t k b a d m => Sys2Proof.Machine.execVmul t k b a d m s
  | .vfma t k b a d m => Sys2Proof.Machine.execVfma t k b a d m s
  | .vdiv t k b a d m => Sys2Proof.Machine.execVdiv t k b a d m s
  | .vsqrt t k a d m => Sys2Proof.Machine.execVsqrt t k a d m s
  | .vrcp t k a d m => Sys2Proof.Machine.execVrcp t k a d m s
  | .vrsq t k a d m => Sys2Proof.Machine.execVrsq t k a d m s
  | .vmin t k b a d m => Sys2Proof.Machine.execVmin t k b a d m s
  | .vmax t k b a d m => Sys2Proof.Machine.execVmax t k b a d m s
  | .vcmp p t k b a c => Sys2Proof.Machine.execVcmp p t k b a c s
  | .vsel t k b a d => Sys2Proof.Machine.execVsel t k b a d s
  | .vand t k b a d => Sys2Proof.Machine.execVand t k b a d s
  | .vor t k b a d => Sys2Proof.Machine.execVor t k b a d s
  | .vxor t k b a d => Sys2Proof.Machine.execVxor t k b a d s
  | .vshl t k b a d => Sys2Proof.Machine.execVshl t k b a d s
  | .vshr t k b a d => Sys2Proof.Machine.execVshr t k b a d s
  | .vred o t k a d m => Sys2Proof.Machine.execVred o t k a d m s
  | .vperm t k b a d => Sys2Proof.Machine.execVperm t k b a d s
  | .vbcast t k a d => Sys2Proof.Machine.execVbcast t k a d s
  | .vcvt src t k p a d m => Sys2Proof.Machine.execVcvt src t k p a d m s
  | .vsumQ t k q d m => Sys2Proof.Machine.execVsumQ t k q d m s
  | .vld t k a d m => Sys2Proof.Machine.execVld t k a d m s
  | .vst t k y a d m => Sys2Proof.Machine.execVst t k y a d m s
  | .vlds t k n a d m => Sys2Proof.Machine.execVlds t k n a d m s
  | .vsts t k n a d m => Sys2Proof.Machine.execVsts t k n a d m s
  | .vgat t k b a d m => Sys2Proof.Machine.execVgat t k b a d m s
  | .vsct t k b a d m => Sys2Proof.Machine.execVsct t k b a d m s
  | .vlbit t k x d m => Sys2Proof.Machine.execVlbit t k x d m s
  | .gld k o a d => Sys2Proof.Machine.execGld k o a d s
  | .gldAcq k sc o a d => Sys2Proof.Machine.execGldAcq k sc o a d s
  | .gvld t k o a d => Sys2Proof.Machine.execGvld t k o a d s
  | .gvgat t k b a d => Sys2Proof.Machine.execGvgat t k b a d s
  | .gst k o a d => Sys2Proof.Machine.execGst k o a d s
  | .gstRel k sc o a d => Sys2Proof.Machine.execGstRel k sc o a d s
  | .gvst t k o a d => Sys2Proof.Machine.execGvst t k o a d s
  | .gvsct t k b a d => Sys2Proof.Machine.execGvsct t k b a d s
  | .atom o w u l b a d => Sys2Proof.Machine.execAtom o w u l b a d s
  | .red o w u l b a => Sys2Proof.Machine.execRed o w u l b a s
  | .cas w l b a d => Sys2Proof.Machine.execCas w l b a d s
  | .fence k sc => Sys2Proof.Machine.execFence k sc s
  | .afence => Sys2Proof.Machine.execAfence s
  | .send h a d => Sys2Proof.Machine.execSend h a d s
  | .sendQ q n a d => Sys2Proof.Machine.execSendQ q n a d s
  | .sendMc h a d => Sys2Proof.Machine.execSendMc h a d s
  | .sendMcSt b a d => Sys2Proof.Machine.execSendMcSt b a d s
  | .spawn a => Sys2Proof.Machine.execSpawn a s
  | .cpwait a d => Sys2Proof.Machine.execCpwait a d s
  | .collRed b a => Sys2Proof.Machine.execCollRed b a s
  | .collRes h b a d => Sys2Proof.Machine.execCollRes h b a d s
  | .sendh n a => Sys2Proof.Machine.execSendh n a s
  | .mxJob m => Sys2Proof.Machine.execMxJob m s
  | .mxGo a d => Sys2Proof.Machine.execMxGo a d s
  | .mxWait a d => Sys2Proof.Machine.execMxWait a d s
  | .mxPoll a d => Sys2Proof.Machine.execMxPoll a d s
  | .mxTst b a => Sys2Proof.Machine.execMxTst b a s
  | .mxRel m => Sys2Proof.Machine.execMxRel m s
  | .mxLda x b a => Sys2Proof.Machine.execMxLda x b a s
  | .mxLdb x b a => Sys2Proof.Machine.execMxLdb x b a s
  | .mxLdm b a => Sys2Proof.Machine.execMxLdm b a s
  | .mxZero c => Sys2Proof.Machine.execMxZero c s
  | .mxMma c => Sys2Proof.Machine.execMxMma c s
  | .mxMmas c => Sys2Proof.Machine.execMxMmas c s
  | .mxMrot c b => Sys2Proof.Machine.execMxMrot c b s
  | .mxSt c x b a d m => Sys2Proof.Machine.execMxSt c x b a d m s
  | .mxAmax c a => Sys2Proof.Machine.execMxAmax c a s
  | .mxQnt c b a m => Sys2Proof.Machine.execMxQnt c b a m s
  | .perform e a d => Sys2Proof.Machine.execPerform e a d s
  | .vperform e k d => Sys2Proof.Machine.execVperform e k d s
  | .hpop e => Sys2Proof.Machine.execHpop e s
  | .resume a b => Sys2Proof.Machine.execResume a b s
  | .resumev t a b => Sys2Proof.Machine.execResumev t a b s
  | .abort a => Sys2Proof.Machine.execAbort a s
  | .tokq a d => Sys2Proof.Machine.execTokq a d s
  | .hndOnce e h => Sys2Proof.Machine.execHndOnce e h s
  | .hndMany e h => Sys2Proof.Machine.execHndMany e h s
  | .hndNone e h => Sys2Proof.Machine.execHndNone e h s
  | .wst b a d => Sys2Proof.Machine.execWst b a d s
  | .wstW b a d => Sys2Proof.Machine.execWstW b a d s
  | .wfloor b a => Sys2Proof.Machine.execWfloor b a s
  | .wprobe a d => Sys2Proof.Machine.execWprobe a d s
  | .wcancel b a => Sys2Proof.Machine.execWcancel b a s
  | .wreg a d => Sys2Proof.Machine.execWreg a d s
  | .wregFree a d => Sys2Proof.Machine.execWregFree a d s
  | .wld h b a d => Sys2Proof.Machine.execWld h b a d s
  | .clmSt h b a d => Sys2Proof.Machine.execClmSt h b a d s
  | .clmObj a => Sys2Proof.Machine.execClmObj a s
  | .clmLd a d => Sys2Proof.Machine.execClmLd a d s
  | .clmRes a d => Sys2Proof.Machine.execClmRes a d s
  | .clmGrp a d => Sys2Proof.Machine.execClmGrp a d s
  | .svc n => Sys2Proof.Machine.execSvc n s
  | .brk n => Sys2Proof.Machine.execBrk n s
  | .sret a h => Sys2Proof.Machine.execSret a h s
  | .rrec n h d => Sys2Proof.Machine.execRrec n h d s
  | .rrecW n h d => Sys2Proof.Machine.execRrecW n h d s
  | .tlbi a => Sys2Proof.Machine.execTlbi a s
  | .tlbiVa a v => Sys2Proof.Machine.execTlbiVa a v s
  | .mbox a d => Sys2Proof.Machine.execMbox a d s
  | .brkCompact n => Sys2Proof.Machine.execBrkCompact n s
  | .movCompact a d => Sys2Proof.Machine.execMovCompact a d s
  | .addCompact a d => Sys2Proof.Machine.execAddCompact a d s
  | .subCompact a d => Sys2Proof.Machine.execSubCompact a d s
  | .andCompact a d => Sys2Proof.Machine.execAndCompact a d s
  | .orCompact a d => Sys2Proof.Machine.execOrCompact a d s
  | .xorCompact a d => Sys2Proof.Machine.execXorCompact a d s
  | .addiCompact imm d => Sys2Proof.Machine.execAddiCompact imm d s
  | .liCompact imm d => Sys2Proof.Machine.execLiCompact imm d s
  | .shliCompact u d => Sys2Proof.Machine.execShliCompact u d s
  | .shriCompact u d => Sys2Proof.Machine.execShriCompact u d s
  | .sraiCompact u d => Sys2Proof.Machine.execSraiCompact u d s
  | .cmpCompact a d => Sys2Proof.Machine.execCmpCompact a d s
  | .cmpiCompact imm d => Sys2Proof.Machine.execCmpiCompact imm d s
  | .ldN64Compact p a d => Sys2Proof.Machine.execLdN64Compact p a d s
  | .stN64Compact p a d => Sys2Proof.Machine.execStN64Compact p a d s
  | .ldN32Compact p a d => Sys2Proof.Machine.execLdN32Compact p a d s
  | .stN32Compact p a d => Sys2Proof.Machine.execStN32Compact p a d s
  | .cbzCompact o d => Sys2Proof.Machine.execCbzCompact o d s
  | .cbnzCompact o d => Sys2Proof.Machine.execCbnzCompact o d s
  | .bCompact o => Sys2Proof.Machine.execBCompact o s
  | .retCompact => Sys2Proof.Machine.execRetCompact s
  | .jrCompact a => Sys2Proof.Machine.execJrCompact a s
  | .haltCompact => Sys2Proof.Machine.execHaltCompact s
  | .yieldCompact => Sys2Proof.Machine.execYieldCompact s
  | .nopCompact => Sys2Proof.Machine.execNopCompact s
  | .tstCompact a d => Sys2Proof.Machine.execTstCompact a d s
  | .andnCompact a d => Sys2Proof.Machine.execAndnCompact a d s
  | .fmt src dst sc => Sys2Proof.Machine.execFmt src dst sc s
  | .rpt n f st => Sys2Proof.Machine.execRpt n f st s
  | .launchSubmit => Sys2Proof.Machine.execLaunchSubmit s
  | .sowTaskMessage => Sys2Proof.Machine.execSowTaskMessage s
  | .spawnAccept => Sys2Proof.Machine.execSpawnAccept s
  | .stintStart => Sys2Proof.Machine.execStintStart s
  | .budgetExceeded => Sys2Proof.Machine.execBudgetExceeded s
  | .pass => Sys2Proof.Machine.execPass s
  | .home => Sys2Proof.Machine.execHome s
  | .apply => Sys2Proof.Machine.execApply s
  | .drop => Sys2Proof.Machine.execDrop s
  | .arrive => Sys2Proof.Machine.execArrive s
  | .messageContextExecute => Sys2Proof.Machine.execMessageContextExecute s
  | .deliver => Sys2Proof.Machine.execDeliver s
  | .rnrRetry => Sys2Proof.Machine.execRnrRetry s
  | .sweep => Sys2Proof.Machine.execSweep s
  | .energyPeriodEnd => Sys2Proof.Machine.execEnergyPeriodEnd s
  | .launchCompletion => Sys2Proof.Machine.execLaunchCompletion s
  | .plotSuspend => Sys2Proof.Machine.execPlotSuspend s
  | .suspendImageTaken => Sys2Proof.Machine.execSuspendImageTaken s
  | .plotResume => Sys2Proof.Machine.execPlotResume s
  | .copyExecute => Sys2Proof.Machine.execCopyExecute s
  | .copyServiceAnswer => Sys2Proof.Machine.execCopyServiceAnswer s
  | .copyComplete => Sys2Proof.Machine.execCopyComplete s
  | .eteRetry => Sys2Proof.Machine.execEteRetry s
  | .mxJobStart => Sys2Proof.Machine.execMxJobStart s
  | .mxOperationExecute => Sys2Proof.Machine.execMxOperationExecute s
  | .mxLatchAccept => Sys2Proof.Machine.execMxLatchAccept s
  | .mxWaitTimeout => Sys2Proof.Machine.execMxWaitTimeout s
  | .mxJobComplete => Sys2Proof.Machine.execMxJobComplete s
  | .mxRelExecute => Sys2Proof.Machine.execMxRelExecute s
  | .worldStoreArrive => Sys2Proof.Machine.execWorldStoreArrive s
  | .worldLoadArrive => Sys2Proof.Machine.execWorldLoadArrive s
  | .waitDeadline => Sys2Proof.Machine.execWaitDeadline s
  | .wcancelArrive => Sys2Proof.Machine.execWcancelArrive s
  | .floorApply => Sys2Proof.Machine.execFloorApply s
  | .claimAnnounce => Sys2Proof.Machine.execClaimAnnounce s
  | .announcementArrive => Sys2Proof.Machine.execAnnouncementArrive s
  | .objectionArrive => Sys2Proof.Machine.execObjectionArrive s
  | .heartbeat => Sys2Proof.Machine.execHeartbeat s
  | .claimDecide => Sys2Proof.Machine.execClaimDecide s
  | .collContributionArrive => Sys2Proof.Machine.execCollContributionArrive s
  | .epochDeadline => Sys2Proof.Machine.execEpochDeadline s
  | .collResArrive => Sys2Proof.Machine.execCollResArrive s
  | .hostQueueEntryWrite => Sys2Proof.Machine.execHostQueueEntryWrite s
  | .hqciWrite => Sys2Proof.Machine.execHqciWrite s
  | .svqRead => Sys2Proof.Machine.execSvqRead s
  | .svrelWrite => Sys2Proof.Machine.execSvrelWrite s
  | .watchdogService => Sys2Proof.Machine.execWatchdogService s
  | .mbrelWrite => Sys2Proof.Machine.execMbrelWrite s
  | .fwSwitch => Sys2Proof.Machine.execFwSwitch s
  | .pfansWrite => Sys2Proof.Machine.execPfansWrite s
  | .tlbinvWrite => Sys2Proof.Machine.execTlbinvWrite s
  | .hostBar2Write => Sys2Proof.Machine.execHostBar2Write s
  | .hostBar2Read => Sys2Proof.Machine.execHostBar2Read s
  | .hostAtomicop => Sys2Proof.Machine.execHostAtomicop s
  | .hostbeatWrite => Sys2Proof.Machine.execHostbeatWrite s
  | .hostLost => Sys2Proof.Machine.execHostLost s
  | .hostReturn => Sys2Proof.Machine.execHostReturn s
  | .devctlRestart => Sys2Proof.Machine.execDevctlRestart s
  | .devctlTake => Sys2Proof.Machine.execDevctlTake s
  | .fwctlCommit => Sys2Proof.Machine.execFwctlCommit s
  | .injArm => Sys2Proof.Machine.execInjArm s
  | .registerWrite => Sys2Proof.Machine.execRegisterWrite s
  | .deviceStart => Sys2Proof.Machine.execDeviceStart s
  | .startTimeout => Sys2Proof.Machine.execStartTimeout s
  | .plotCreate => Sys2Proof.Machine.execPlotCreate s
  | .plotResize => Sys2Proof.Machine.execPlotResize s
  | .plotTeardown => Sys2Proof.Machine.execPlotTeardown s
  | .getVersion => Sys2Proof.Machine.execGetVersion s
  | .getCapabilities => Sys2Proof.Machine.execGetCapabilities s
  | .negotiateAlgorithms => Sys2Proof.Machine.execNegotiateAlgorithms s
  | .getDigests => Sys2Proof.Machine.execGetDigests s
  | .getCertificate => Sys2Proof.Machine.execGetCertificate s
  | .challenge => Sys2Proof.Machine.execChallenge s
  | .getMeasurements => Sys2Proof.Machine.execGetMeasurements s
  | .keyExchange => Sys2Proof.Machine.execKeyExchange s
  | .finish => Sys2Proof.Machine.execFinish s
  | .keyUpdate => Sys2Proof.Machine.execKeyUpdate s
  | .endSession => Sys2Proof.Machine.execEndSession s
  | .vendorDefined => Sys2Proof.Machine.execVendorDefined s
  | .ideIntegrity => Sys2Proof.Machine.execIdeIntegrity s
  | .linkReplay => Sys2Proof.Machine.execLinkReplay s
  | .retrainBucketRefill => Sys2Proof.Machine.execRetrainBucketRefill s
  | .fabricAbortFlit => Sys2Proof.Machine.execFabricAbortFlit s
  | .fabricRepeat => Sys2Proof.Machine.execFabricRepeat s
  | .fabricPeerAccess => Sys2Proof.Machine.execFabricPeerAccess s
  | .fabricSyncLoss => Sys2Proof.Machine.execFabricSyncLoss s
  | .patrolScrub => Sys2Proof.Machine.execPatrolScrub s
  | .lifetimeCounterWrite => Sys2Proof.Machine.execLifetimeCounterWrite s
  | .null => Sys2Proof.Machine.execNull s
  | .clmDeclare => Sys2Proof.Machine.execClmDeclare s
  | .clmJoin => Sys2Proof.Machine.execClmJoin s
  | .clmLeave => Sys2Proof.Machine.execClmLeave s
  | .clmRemove => Sys2Proof.Machine.execClmRemove s
  | .clmDissolve => Sys2Proof.Machine.execClmDissolve s
  | .collAlloc => Sys2Proof.Machine.execCollAlloc s
  | .collFree => Sys2Proof.Machine.execCollFree s
  | .shape => Sys2Proof.Machine.execShape s
  | .hostQueueDisable => Sys2Proof.Machine.execHostQueueDisable s
  | .wprobeArrive => Sys2Proof.Machine.execWprobeArrive s
  | .floorMasterArrive => Sys2Proof.Machine.execFloorMasterArrive s
  | .regionFreeApply => Sys2Proof.Machine.execRegionFreeApply s
  | .regionRegisterApply => Sys2Proof.Machine.execRegionRegisterApply s
  | .fabricSyncReturn => Sys2Proof.Machine.execFabricSyncReturn s
  | .retrainingComplete => Sys2Proof.Machine.execRetrainingComplete s
  | .functionReset => Sys2Proof.Machine.execFunctionReset s

end Sys2Proof.Machine
end

