-- ==== Sys2Proof/Machine/Latency.lean ====
section
/-! DEFINITION. When a result is available to a dependent instruction, and the cycle that a bank of LM costs (R163). A result is the register
that an instruction names as its destination, and a dependent instruction one that names it as a source (DEDUCED, log 98). -/
namespace Sys2Proof.Machine

/-! Registers by number: general registers from 0, vector registers from 16, mask registers from 24, special registers from 64. -/

/-- General registers. -/
def gNums (rs : List Reg) : List Nat := rs.map (·.val)
/-- The four argument words from a register on (R196). -/
def gArgs (a : Reg) (n : Nat) : List Nat := (List.range n).map fun i => a.val + i
/-- A vector register. -/
def vNum (v : VReg) : Nat := 16 + v.val
/-- A mask register. -/
def kNum (k : KReg) : Nat := 24 + k.val
/-- A special register. -/
def sNum (n : Nat) : Nat := 64 + n
/-- ST, which conditions and vector arithmetic read. -/
def stNum : Nat := sNum 0
/-- BA0 or BA1. -/
def baNum (x : Bool) : Nat := sNum (if x then 8 else 7)
/-- The sources of a vector operation on its own register, its operand b and its destination: under a mask other than k0 the destination
keeps lanes, and is a source too. -/
def vecSources (k : KReg) (b : VSrc) (as : List VReg) (d : VReg) : List Nat :=
  stNum :: as.map vNum ++ (match b with
    | .reg r => [vNum r]
    | .ring _ _ => []) ++ (if k = 0 then [] else [kNum k, vNum d])

/-- The registers that an instruction reads. -/
def sources : Instr → List Nat
  | .add _ a b => gNums [a, b]
  | .sub _ a b => gNums [a, b]
  | .and _ a b => gNums [a, b]
  | .or _ a b => gNums [a, b]
  | .xor _ a b => gNums [a, b]
  | .andn _ a b => gNums [a, b]
  | .shl _ a b => gNums [a, b]
  | .shr _ a b => gNums [a, b]
  | .sra _ a b => gNums [a, b]
  | .rotl _ a b => gNums [a, b]
  | .minI64 _ a b => gNums [a, b]
  | .maxI64 _ a b => gNums [a, b]
  | .minN64 _ a b => gNums [a, b]
  | .maxN64 _ a b => gNums [a, b]
  | .mov _ a => gNums [a]
  | .cmp a b => gNums [a, b]
  | .tst a b => gNums [a, b]
  | .mul _ a b => gNums [a, b]
  | .mulhI64 _ a b => gNums [a, b]
  | .mulhN64 _ a b => gNums [a, b]
  | .divI64 _ a b => gNums [a, b]
  | .divN64 _ a b => gNums [a, b]
  | .remI64 _ a b => gNums [a, b]
  | .remN64 _ a b => gNums [a, b]
  | .clz _ a => gNums [a]
  | .ctz _ a => gNums [a]
  | .pop _ a => gNums [a]
  | .bext _ a b => gNums [a, b]
  | .bexts _ a b => gNums [a, b]
  | .bins d a b => gNums [d, a, b]
  | .sel _ _ a b => stNum :: gNums [a, b]
  | .addi _ a _ => gNums [a]
  | .lhi d _ _ => gNums [d]
  | .cmpi d _ => gNums [d]
  | .shli _ a _ => gNums [a]
  | .shri _ a _ => gNums [a]
  | .srai _ a _ => gNums [a]
  | .rotli _ a _ => gNums [a]
  | .bc _ _ => [stNum]
  | .cbz d _ => gNums [d]
  | .cbnz d _ => gNums [d]
  | .jr d => gNums [d]
  | .haltR d => gNums [d]
  | .go d => gNums [d]
  | .sleepJob d => gNums [d]
  | .sleepGe d t => gNums [d, t]
  | .sleepGeG d t => gNums [d, t]
  | .rsr _ n => sNum n.toNat :: (if n.toNat ∈ [0x30, 0x31, 0x32] then [sNum 0x33] else [])
  | .wsr _ a => gNums [a]
  | .cpgo _ => (List.range 7).map fun i => sNum (0x10 + i)
  | .ld _ _ _ a _ => gNums [a]
  | .st _ _ _ a d => gNums [a, d]
  | .lbit x _ _ _ _ => [baNum x]
  | .sbit x _ _ d => baNum x :: gNums [d]
  | .baSet _ a b => gNums [a, b]
  | .qSet _ a => gNums [a]
  | .qAdvP _ a => gNums [a]
  | .qAdvC _ a => gNums [a]
  | .qSt _ a => gNums [a]
  | .qStV _ v => [vNum v]
  | .vadd _ k b a d _ => vecSources k b [a] d
  | .vsub _ k b a d _ => vecSources k b [a] d
  | .vmul _ k b a d _ => vecSources k b [a] d
  | .vfma _ k b a d _ => vecSources k b [a, d] d
  | .vdiv _ k b a d _ => vecSources k b [a] d
  | .vsqrt _ k a d _ => vecSources k (.reg a) [] d
  | .vrcp _ k a d _ => vecSources k (.reg a) [] d
  | .vrsq _ k a d _ => vecSources k (.reg a) [] d
  | .vmin _ k b a d _ => vecSources k b [a] d
  | .vmax _ k b a d _ => vecSources k b [a] d
  | .vcmp _ _ k b a c => stNum :: vNum a :: kNum c :: ((match b with
      | .reg r => [vNum r]
      | .ring _ _ => []) ++ if k = 0 then [] else [kNum k])
  | .vsel _ k b a _ => kNum k :: vNum a :: (match b with
      | .reg r => [vNum r]
      | .ring _ _ => [])
  | .vand _ k b a d => vecSources k b [a] d
  | .vor _ k b a d => vecSources k b [a] d
  | .vxor _ k b a d => vecSources k b [a] d
  | .vshl _ k b a d => vecSources k b [a] d
  | .vshr _ k b a d => vecSources k b [a] d
  | .vred _ _ k a d _ => vNum d :: vecSources k (.reg a) [] d
  | .vperm _ k b a d => vecSources k (.reg b) [a] d
  | .vbcast _ k a d => a.val :: (if k = 0 then [] else [kNum k, vNum d])
  | .vcvt _ _ k _ a d _ => vecSources k (.reg a) [] d
  | .vsumQ _ k _ d _ => stNum :: kNum k :: [vNum d]
  | .vld _ k a d _ => a.val :: stNum :: (if k = 0 then [] else [kNum k, vNum d])
  | .vst _ k _ a d _ => [a.val, stNum, vNum d, kNum k]
  | .vlds _ k n a d _ => a.val :: n.val :: stNum :: (if k = 0 then [] else [kNum k, vNum d])
  | .vsts _ k n a d _ => [a.val, n.val, stNum, vNum d, kNum k]
  | .vgat _ k b a d _ => a.val :: vNum b :: stNum :: (if k = 0 then [] else [kNum k, vNum d])
  | .vsct _ k b a d _ => [a.val, vNum b, stNum, vNum d, kNum k]
  | .vlbit _ k x d _ => baNum x :: stNum :: (if k = 0 then [] else [kNum k, vNum d])
  | .gld _ _ a _ => gNums [a]
  | .gldAcq _ _ _ a _ => gNums [a]
  | .gvld _ k _ a d => a.val :: (if k = 0 then [] else [kNum k, vNum d])
  | .gvgat _ k b a d => a.val :: vNum b :: (if k = 0 then [] else [kNum k, vNum d])
  | .gst _ _ a d => gNums [a, d]
  | .gstRel _ _ _ a d => gNums [a, d]
  | .gvst _ k _ a d => [a.val, vNum d, kNum k]
  | .gvsct _ k b a d => [a.val, vNum b, vNum d, kNum k]
  | .atom _ _ _ _ b a _ => gNums [a, b]
  | .red _ _ _ _ b a => gNums [a, b]
  | .cas _ _ b a d => gNums [a, b, d]
  | .send _ a d => d.val :: gArgs a 4
  | .sendQ _ n a d => d.val :: gArgs a (n.val + 1)
  | .sendMc _ a d => d.val :: gArgs a 4
  | .sendMcSt b a d => gNums [d, a, b]
  | .spawn a => gNums [a]
  | .cpwait a _ => gNums [a]
  | .collRed b a => gNums [a, b]
  | .collRes _ b a d => gNums [b, d] ++ gArgs a 4
  | .sendh _ a => gArgs a 4
  | .mxGo a _ => gNums [a]
  | .mxWait a _ => gNums [a]
  | .mxPoll a _ => gNums [a]
  | .mxTst b a => gNums [a, b]
  | .mxLda _ b a => gNums [a, b]
  | .mxLdb _ b a => gNums [a, b]
  | .mxLdm b a => gNums [a, b]
  | .mxMrot _ b => gNums [b]
  | .mxSt _ _ b a d _ => gNums [a, b, d]
  | .mxAmax _ a => gNums [a]
  | .mxQnt _ b a _ => gNums [a, b]
  | .perform _ a _ => sNum 6 :: gNums [a]
  | .vperform _ k d => [sNum 6, kNum k, vNum d]
  | .hpop _ => [sNum 6]
  | .resume a b => gNums [a, b]
  | .resumev _ a b => a.val :: [vNum b]
  | .abort a => gNums [a]
  | .tokq a _ => gNums [a]
  | .hndOnce _ _ => [15, sNum 6]
  | .hndMany _ _ => [15, sNum 6]
  | .hndNone _ _ => [15, sNum 6]
  | .wst b a d => gNums [a, b, d]
  | .wstW b a d => gNums [a, b, d]
  | .wfloor b a => gNums [a, b]
  | .wprobe a _ => gNums [a]
  | .wcancel b a => gNums [a, b]
  | .wreg a _ => gNums [a]
  | .wregFree a _ => gNums [a]
  | .wld _ b a d => gNums [a, b, d] ++ [8, 9, 10, 11]
  | .clmSt _ _ a d => gNums [a, d] ++ [8, 9, 10, 11]
  | .clmObj a => gNums [a]
  | .clmLd a _ => gNums [a]
  | .clmRes a _ => gNums [a]
  | .clmGrp a _ => gNums [a]
  | .sret a h => gNums [a, h]
  | .rrec _ h _ => gNums [h]
  | .rrecW _ h d => gNums [h, d]
  | .tlbi a => gNums [a]
  | .tlbiVa a v => gNums [a, v]
  | .mbox a _ => gNums [a]
  | .movCompact a _ => gNums [a]
  | .addCompact a d => gNums [a, d]
  | .subCompact a d => gNums [a, d]
  | .andCompact a d => gNums [a, d]
  | .orCompact a d => gNums [a, d]
  | .xorCompact a d => gNums [a, d]
  | .addiCompact _ d => gNums [d]
  | .shliCompact _ d => gNums [d]
  | .shriCompact _ d => gNums [d]
  | .sraiCompact _ d => gNums [d]
  | .cmpCompact a d => gNums [a, d]
  | .cmpiCompact _ d => gNums [d]
  | .ldN64Compact _ a _ => gNums [a]
  | .stN64Compact _ a d => gNums [a, d]
  | .ldN32Compact _ a _ => gNums [a]
  | .stN32Compact _ a d => gNums [a, d]
  | .cbzCompact _ d => gNums [d]
  | .cbnzCompact _ d => gNums [d]
  | .retCompact => [14]
  | .jrCompact a => gNums [a]
  | .tstCompact a d => gNums [a, d]
  | .andnCompact a d => gNums [a, d]
  | _ => []

/-- The register that an instruction names as its destination, and how many cycles after its issue interval, and after the last step of a
strided one, the result is available (R163). -/
def result : Instr → Option (Nat × Nat)
  | .add d _ _ => some (d.val, 0)
  | .sub d _ _ => some (d.val, 0)
  | .and d _ _ => some (d.val, 0)
  | .or d _ _ => some (d.val, 0)
  | .xor d _ _ => some (d.val, 0)
  | .andn d _ _ => some (d.val, 0)
  | .shl d _ _ => some (d.val, 0)
  | .shr d _ _ => some (d.val, 0)
  | .sra d _ _ => some (d.val, 0)
  | .rotl d _ _ => some (d.val, 0)
  | .minI64 d _ _ => some (d.val, 0)
  | .maxI64 d _ _ => some (d.val, 0)
  | .minN64 d _ _ => some (d.val, 0)
  | .maxN64 d _ _ => some (d.val, 0)
  | .mov d _ => some (d.val, 0)
  | .mul d _ _ => some (d.val, 2)
  | .mulhI64 d _ _ => some (d.val, 2)
  | .mulhN64 d _ _ => some (d.val, 2)
  | .divI64 d _ _ => some (d.val, 0)
  | .divN64 d _ _ => some (d.val, 0)
  | .remI64 d _ _ => some (d.val, 0)
  | .remN64 d _ _ => some (d.val, 0)
  | .clz d _ => some (d.val, 0)
  | .ctz d _ => some (d.val, 0)
  | .pop d _ => some (d.val, 0)
  | .bext d _ _ => some (d.val, 0)
  | .bexts d _ _ => some (d.val, 0)
  | .bins d _ _ => some (d.val, 0)
  | .sel _ d _ _ => some (d.val, 0)
  | .addi d _ _ => some (d.val, 0)
  | .li d _ => some (d.val, 0)
  | .lhi d _ _ => some (d.val, 0)
  | .shli d _ _ => some (d.val, 0)
  | .shri d _ _ => some (d.val, 0)
  | .srai d _ _ => some (d.val, 0)
  | .rotli d _ _ => some (d.val, 0)
  | .call _ => some (14, 0)
  | .rsr d n => some (d.val, if n = 0x00A then 3 else 1)
  | .wsr n _ => some (sNum n.toNat, 1)
  | .cpgo d => some (d.val, 1)
  | .ld _ _ _ _ d => some (d.val, 2)
  | .lbit _ _ _ _ d => some (d.val, 2)
  | .baSet x _ _ => some (baNum x, 0)
  | .qLd d _ _ => some (d.val, 0)
  | .qGet d _ => some (d.val, 0)
  | .vadd _ _ _ _ d _ => some (vNum d, 3)
  | .vsub _ _ _ _ d _ => some (vNum d, 3)
  | .vmul _ _ _ _ d _ => some (vNum d, 3)
  | .vfma _ _ _ _ d _ => some (vNum d, 3)
  | .vdiv _ _ _ _ d _ => some (vNum d, 0)
  | .vsqrt _ _ _ d _ => some (vNum d, 0)
  | .vrcp _ _ _ d _ => some (vNum d, 0)
  | .vrsq _ _ _ d _ => some (vNum d, 0)
  | .vmin _ _ _ _ d _ => some (vNum d, 3)
  | .vmax _ _ _ _ d _ => some (vNum d, 3)
  | .vcmp _ _ _ _ _ c => some (kNum c, 3)
  | .vsel _ _ _ _ d => some (vNum d, 3)
  | .vand _ _ _ _ d => some (vNum d, 3)
  | .vor _ _ _ _ d => some (vNum d, 3)
  | .vxor _ _ _ _ d => some (vNum d, 3)
  | .vshl _ _ _ _ d => some (vNum d, 3)
  | .vshr _ _ _ _ d => some (vNum d, 3)
  | .vred _ t _ _ d _ => some (vNum d, 4 * Nat.log2 t.lanes + 1)
  | .vperm _ _ _ _ d => some (vNum d, 3)
  | .vbcast _ _ _ d => some (vNum d, 3)
  | .vcvt _ _ _ _ _ d _ => some (vNum d, 3)
  | .vsumQ _ _ _ d _ => some (vNum d, 0)
  | .vld _ _ _ d _ => some (vNum d, 2)
  | .vlds _ _ _ _ d _ => some (vNum d, 2)
  | .vgat _ _ _ _ d _ => some (vNum d, 2)
  | .vlbit _ _ _ d _ => some (vNum d, 2)
  | .gld _ _ _ d => some (d.val, 0)
  | .gldAcq _ _ _ _ d => some (d.val, 0)
  | .gvld _ _ _ _ d => some (vNum d, 0)
  | .gvgat _ _ _ _ d => some (vNum d, 0)
  | .atom _ _ _ _ _ _ d => some (d.val, 0)
  | .cas _ _ _ _ d => some (d.val, 0)
  | .cpwait _ d => some (d.val, 0)
  | .mxGo _ d => some (d.val, 0)
  | .mxWait _ d => some (d.val, 0)
  | .mxPoll _ d => some (d.val, 0)
  | .tokq _ d => some (d.val, 0)
  | .wprobe _ d => some (d.val, 0)
  | .wreg _ d => some (d.val, 0)
  | .wregFree _ d => some (d.val, 0)
  | .clmSt _ b _ _ => some (b.val, 0)
  | .clmLd _ d => some (d.val, 0)
  | .clmRes _ d => some (d.val, 0)
  | .clmGrp _ d => some (d.val, 0)
  | .rrec _ _ d => some (d.val, 0)
  | .mbox _ d => some (d.val, 0)
  | .movCompact _ d => some (d.val, 0)
  | .addCompact _ d => some (d.val, 0)
  | .subCompact _ d => some (d.val, 0)
  | .andCompact _ d => some (d.val, 0)
  | .orCompact _ d => some (d.val, 0)
  | .xorCompact _ d => some (d.val, 0)
  | .addiCompact _ d => some (d.val, 0)
  | .liCompact _ d => some (d.val, 0)
  | .shliCompact _ d => some (d.val, 0)
  | .shriCompact _ d => some (d.val, 0)
  | .sraiCompact _ d => some (d.val, 0)
  | .ldN64Compact _ _ d => some (d.val, 2)
  | .ldN32Compact _ _ d => some (d.val, 2)
  | .andnCompact _ d => some (d.val, 0)
  | _ => none

/-! Stalls for results. -/

/-- The instruction waits for a result that is not yet available: its core stalls (R31, R163). -/
def Core.awaitsResult (c : Core) (i : Instr) : Bool :=
  c.stint.isSome && (c.ready.any fun x => decide (c.cyc.toNat < x.2) && (sources i).contains x.1)
/-- After an instruction that has retired, its result is available from the cycle that R163 gives, and an older one in the same register
counts no more. -/
def Core.noteResult (c : Core) (i : Instr) : Core :=
  match result i with
  | none => c
  | some (d, n) =>
    let rest := c.ready.filter fun x => x.1 != d && decide (c.cyc.toNat < x.2)
    { c with ready := if n = 0 then rest else (d, c.cyc.toNat + n) :: rest }
/-- The instruction of the core that steps has retired in this step: its stint counts one more (R103). -/
def retiredIn (s t : State) : Bool :=
  match (s.me.bind (·.stint)).map (·.icount), (t.me.bind (·.stint)).map (·.icount) with
  | some a, some b => b == a + 1
  | _, _ => false
/-- What an instruction comes to, with its result noted. -/
def noted (s : State) (i : Instr) (o : Out) : Out :=
  match o with
  | .next t => .next (if retiredIn s t then t.modMe (·.noteResult i) else t)
  | x => x

/-! Bank conflicts. -/

/-- Bits of own LM at an effective address, for a scalar access. -/
def ownField (s : State) (p : Plot) (c : Core) (ea : Word) (n : Nat) : List (Nat × Nat) :=
  match myDecode s p c ea n with
  | .ok (w, off) => if w = c.cid then [(8 * off, 8 * n)] else []
  | .error _ => []
/-- The same for a vector access. -/
def vecField (s : State) (p : Plot) (c : Core) (ea : Word) (n : Nat) : List (Nat × Nat) :=
  match vecOwn s p c ea n 1 with
  | .ok off => [(8 * off, 8 * n)]
  | .error _ => []
/-- The same for a strided or indexed one. -/
def elemFields (s : State) (p : Plot) (c : Core) (k : KReg) (t mf : Ty) (ea : Nat → Word) : List (Nat × Nat) :=
  match elemOffs s p c (mf.width / 8) ea (computed c k t) with
  | .ok xs => xs.map fun x => (8 * x.2, mf.width)
  | .error _ => []
/-- The slot at the head of a ring operand. -/
def ringField (c : Core) : VSrc → List (Nat × Nat)
  | .reg _ => []
  | .ring q _ => [(8 * c.q[q].slotAt c.q[q].head.toNat, 8 * c.q[q].bytes)]
/-- The fields of own LM that an instruction's stint context addresses: those of scalar, bit-granular, ring and vector instructions. -/
def lmFields (s : State) (p : Plot) (c : Core) : Instr → List (Nat × Nat)
  | .ld k pi o a _ => ownField s p c (ldAddr c pi o a) k.size
  | .st k pi o a _ => ownField s p c (ldAddr c pi o a) k.size
  | .ldN64Compact _ a _ => ownField s p c (c.r a) 8
  | .stN64Compact _ a _ => ownField s p c (c.r a) 8
  | .ldN32Compact _ a _ => ownField s p c (c.r a) 4
  | .stN32Compact _ a _ => ownField s p c (c.r a) 4
  | .lbit x _ _ w _ => [(c.ba x, w.val + 1)]
  | .sbit x _ w _ => [(c.ba x, w.val + 1)]
  | .qSet _ a => [(8 * (c.r a).toNat, 128)]
  | .qLd _ q _ => [(8 * c.q[q].slotAt c.q[q].head.toNat, 64)]
  | .qSt q _ => [(8 * c.q[q].slotAt c.q[q].tail.toNat, 8 * c.q[q].bytes)]
  | .qStV q _ => [(8 * c.q[q].slotAt c.q[q].tail.toNat, 8 * c.q[q].bytes)]
  | .spawn a => [(8 * (c.r a).toNat, 512)]
  | .vadd _ _ b _ _ _ => ringField c b
  | .vsub _ _ b _ _ _ => ringField c b
  | .vmul _ _ b _ _ _ => ringField c b
  | .vfma _ _ b _ _ _ => ringField c b
  | .vdiv _ _ b _ _ _ => ringField c b
  | .vmin _ _ b _ _ _ => ringField c b
  | .vmax _ _ b _ _ _ => ringField c b
  | .vcmp _ _ _ b _ _ => ringField c b
  | .vsel _ _ b _ _ => ringField c b
  | .vand _ _ b _ _ => ringField c b
  | .vor _ _ b _ _ => ringField c b
  | .vxor _ _ b _ _ => ringField c b
  | .vshl _ _ b _ _ => ringField c b
  | .vshr _ _ b _ _ => ringField c b
  | .vsumQ _ _ q _ _ => ringField c (.ring q 0)
  | .vld t _ a _ _ => vecField s p c (c.rn a) (spanOf c (memFmt c true t) t)
  | .vst t _ _ a _ _ => vecField s p c (c.rn a) (spanOf c (memFmt c false t) t)
  | .vlds t k n a _ _ => elemFields s p c k t (memFmt c true t) (strideEa c a n)
  | .vsts t k n a _ _ => elemFields s p c k t (memFmt c false t) (strideEa c a n)
  | .vgat t k b a _ _ => elemFields s p c k t (memFmt c true t) (indexEa (c.rn a) c.v[b] t (memFmt c true t))
  | .vsct t k b a _ _ => elemFields s p c k t (memFmt c false t) (indexEa (c.rn a) c.v[b] t (memFmt c false t))
  | .atom _ w _ l _ a _ => if l then ownField s p c (c.r a) (aopSize w) else []
  | .red _ w _ l _ a => if l then ownField s p c (c.r a) (aopSize w) else []
  | .cas w l _ a _ => if l then ownField s p c (c.r a) (aopSize w) else []
  | .vlbit t _ x _ _ => [(c.ba x, t.lanes * (memFmt c true t).width)]
  | _ => []
/-- The banks that bit fields lie in: bits [5:3] of the address (R16). -/
def banksOf (fs : List (Nat × Nat)) : BitVec 8 :=
  fs.foldl (fun b x => (List.range (min 8 ((x.1 + x.2 + 63) / 64 - x.1 / 64))).foldl
    (fun b j => b ||| BitVec.ofNat 8 (2 ^ ((x.1 / 64 + j) % 8))) b) 0
/-- The message context of the core has addressed, in this cycle, a bank that the instruction is about to access, so that the stint waits
one cycle (R163). Two that arrive together go message context first, and so does the model, where its step comes first (log 98). -/
def bankBusy (s : State) (p : Plot) (c : Core) (i : Instr) : Bool :=
  match c.msgBank with
  | some (t, banks) => t == c.cyc.toNat && (banksOf (lmFields s p c i) &&& banks) != 0
  | none => false

end Sys2Proof.Machine
end

