-- ==== Sys2Proof/Machine/Inject.lean ====
section
/-! DEFINITION. Where an armed injection takes effect (R397): the next access to INJADDR in the named array, by an instruction or by an event;
an error that stands in its array until it is met is not here (`State.marks`). -/
namespace Sys2Proof.Machine

/-- An injection is armed that takes effect as its place is accessed (R397). -/
def Device.strikes (d : Device) : Bool :=
  let arr := d.inj.toNat % 16
  let kind := d.inj.toNat / 16 % 4
  d.inj.getLsbD 6 && kind != 0 && !(decide (kind ≥ 2) && (arr == 0 || arr == 1 || arr == 4))
/-- The error of the armed injection, at a unit of its array; ARM is cleared. -/
def State.injTake (s : State) (unit : Nat) : State :=
  let arr := s.dev.inj.toNat % 16
  let a := s.dev.injAddr
  let s1 := s.errorAt s.dev.injPlot arr unit (if arr = 0 then fld a 17 0 else a.toNat) (s.dev.inj.toNat / 16 % 4)
  { s1.modDev fun d => { d with inj := d.inj &&& 0x3F } with fresh := s1.fresh + 1 }
/-- What a step comes to, with the error of an injection whose place it accesses; `unit` is that place's unit. A step that does nothing
accesses nothing. -/
def struck (s : State) (unit : Option Nat) (o : Out) : Out :=
  match unit, o with
  | some u, .next t => .next (if s.dev.strikes ∧ t ≠ s then t.injTake u else t)
  | _, o => o

/-! Accesses of an instruction. -/

/-- Bytes of LM meet the 8-byte word of an offset. -/
def meetsWord (off : Nat) (o n : Nat) : Bool := n != 0 && decide (o / 8 ≤ off / 8 ∧ off / 8 ≤ (o + n - 1) / 8)
/-- The global bytes that an instruction of majors 0x18 to 0x1A accesses, with their places; `load` asks for those of loads alone. -/
def globBytes (p : Plot) (c : Core) (load : Bool) (i : Instr) : List (Nat × Loc × Bool) :=
  let ok (r : Except Bad (List (Nat × Loc × Bool)) × Plot) : List (Nat × Loc × Bool) :=
    match r.1 with
    | .ok xs => xs
    | .error _ => []
  let other (r : Except Bad (List (Nat × Loc × Bool)) × Plot) : List (Nat × Loc × Bool) := if load then [] else ok r
  match i with
  | .gld k o a _ => ok (globalCheck p c (gEa c a o) k.size 0 0x33)
  | .gldAcq k _ o a _ => ok (globalCheck p c (gEa c a o) k.size 0 0x33)
  | .gvld t k o a _ => ok (runCheck p c (memFmt c true t) (gEa c a o) (computed c k t) 0)
  | .gvgat t k b a _ =>
    ok (scatCheck p c ((memFmt c true t).width / 8) (indexEa (c.r a) c.v[b] t (memFmt c true t)) 0 (computed c k t))
  | .gst k o a _ => other (globalCheck p c (gEa c a o) k.size 1 0x33)
  | .gstRel k _ o a _ => other (globalCheck p c (gEa c a o) k.size 1 0x33)
  | .gvst t k o a _ => other (runCheck p c (memFmt c false t) (c.r a + (gvstOff c (memFmt c false t) o).1) (computed c k t) 1)
  | .gvsct t k b a _ =>
    other (scatCheck p c ((memFmt c false t).width / 8) (indexEa (c.r a) c.v[b] t (memFmt c false t)) 1 (computed c k t))
  | .atom _ w _ l _ a _ => if l then [] else other (globalCheck p c (c.r a) (aopSize w) 2 0x35)
  | .red _ w _ l _ a => if l then [] else other (globalCheck p c (c.r a) (aopSize w) 2 0x35)
  | .cas w l _ a _ => if l then [] else other (globalCheck p c (c.r a) (aopSize w) 2 0x35)
  | _ => []
/-- The walk of a translation, where the tile holds none, reads a line of a page table at home (R166, R168). -/
def walksLine (p : Plot) (tile line va : Nat) : Bool :=
  !((p.tiles[tile]?).map fun t => t.tlb.any fun e => decide (e.page ≤ va ∧ va < e.page + e.size)).getD false
    && fld p.ptrootEff 0 0 == 1
    && (match walkFrom p.home (fun l => l == line) p.memsz va 4 1 (fld p.ptrootEff 39 12 * 4096) with
        | .error (l, _) => decide (l ≥ 16)
        | .ok _ => false)
/-- The place is a physical address of device memory in the page of which an access lies, by a translation of the tile. -/
def throughTlb (p : Plot) (tile a : Nat) (xs : List (Nat × Loc × Bool)) : Bool :=
  ((p.tiles[tile]?).map fun t => t.tlb.any fun e => e.leads a && xs.any fun x => e.maps (some x.1)).getD false
/-- The unit that holds the place of an armed injection, when the instruction that a compute core runs in plot p accesses it (R396, R397): `q` is
the plot after it, which holds the translations that it used. -/
def instrHits (s : State) (p q : Plot) (c : Core) (i : Instr) (len : Nat) : Option Nat :=
  let a := s.dev.injAddr
  let tile := tileOf c.cid
  let line := lineOf a.toNat
  let here (x : Nat × Loc × Bool) : Bool := (match x.2.1 with
    | .dev b => lineOf b == line
    | _ => false) && !forwarded p c x.1 x.2.1
  if p.pid ≠ s.dev.injPlot then none
  else match s.dev.inj.toNat % 16 with
  | 0 =>
    if c.cid.toNat = fld a 31 18 ∧ (lmFields s p c i).any fun x => meetsWord (fld a 17 0) (x.1 / 8) ((x.1 % 8 + x.2 + 7) / 8) then
      some c.cid.toNat else none
  | 1 =>
    if ((globBytes p c true i).any fun x => here x && readsHome p c x) || ((globBytes p c false i).any fun x => walksLine p tile line x.1) then
      some 0 else none
  | 2 => if (globBytes p c true i).any fun x => here x && !x.2.2 then some tile else none
  | 3 => if throughTlb q tile a.toNat (globBytes p c false i) then some tile else none
  | 4 =>
    let (obj, off) := Config.codeAt a.toNat
    if c.obj.toNat = obj ∧ off < c.off.toNat + len ∧ c.off.toNat < off + 4 then some c.cid.toNat else none
  | _ => none

/-! Accesses of an event. -/

/-- The end of a copy at LM whose bytes, n of them from the next, meet a word of a core. -/
def copyMeets (e : End) (x : CopyJob) (str : Word) (n core off : Nat) : Bool :=
  match e with
  | .lm c o => c.toNat == core && (List.range n).any fun k => decide (x.done + k < x.len * x.cnt) && meetsWord off (copyAt o str x.len (x.done + k)) 1
  | .glob _ => false
/-- The same at device memory, for a line. -/
def copyLine (p : Plot) (e : End) (x : CopyJob) (str : Word) (n line : Nat) : Bool :=
  match e with
  | .lm _ _ => false
  | .glob va => (List.range n).any fun k => decide (x.done + k < x.len * x.cnt)
      && (match (translate p (tileOf x.tag.cid) (copyAt va str x.len (x.done + k)) 0).1 with
          | .ok (.dev a, _) => lineOf a == line
          | _ => false)
/-- The rows of a matrix operation at LM that n steps from a place on go over meet a word of a core. -/
def mxMeets (r : MxRun) (o : MxOp) (n core off : Nat) : Bool :=
  let rows (e : MxAddr) (stride bytes per : Nat) : Bool := match e with
    | .lm c b => c.toNat == core && (List.range n).any fun k => meetsWord off (b + (r.pos + k) / max 1 per * stride) bytes
    | _ => false
  match o with
  | .load _ src stride _ vals f sc _ => rows src stride (rowBytes f sc vals) vals
  | .loadMeta src stride _ m g => rows src stride ((7 * (g * m) + 7) / 8) (g * m)
  | .store _ dst _ stride _ cols _ pair _ _ _ => rows dst stride ((cols * ((pair.map (·.2)).getD r.job.ty).width + 7) / 8) cols
  | .amax _ dst => rows dst 0 4 1
  | .quant _ dst stride _ c64 _ pair sc _ _ _ _ => rows dst stride (qntBytes ((pair.map (·.2)).getD .e4m3) sc (1 + boolNat c64)) (1 + boolNat c64)
  | _ => false
/-- An answer in transit writes its next word to a word of a core (R300, R335). -/
def flightMeets (f : Flight) (core off : Nat) : Bool :=
  f.dst.toNat == core && ((payNext f.msg.pay).map fun x => meetsWord off x.1.1 x.1.2.length).getD false
/-- The unit that holds the place of an armed injection, when an event with its operands accesses it (R396, R397). What the memory of a TSE, a
port or the link holds at an address no rule says: whether an operation there accesses the place is a free value (log 26). -/
def eventHits (s : State) (i : Instr) (a : EvArgs) : Option Nat :=
  let at_ := s.dev.injAddr
  let core := fld at_ 31 18
  let off := fld at_ 17 0
  let line := lineOf at_.toNat
  let unit (b : Bool) (u : Nat) : Option Nat := if b then some u else none
  let open_ : Bool := (Config.freeWord s.fresh 7).getLsbD 0
  let tse : Option Nat := ((s.plot? a.p).bind fun p => p.tseq[a.j]?).bind fun o => unit open_ o.tse
  match s.dev.inj.toNat % 16, i, s.plot? a.p with
  | 5, .fabricPeerAccess, _ => unit (a.opt.isNone && a.n == at_.toNat && open_) a.n
  | n, i, some p =>
    if a.p ≠ s.dev.injPlot then none
    else match n, i with
    | 0, .messageContextExecute =>
      unit (a.c == core && ((p.core? a.c).bind fun c => c.mq.head?.map fun r => (r.touched c).any fun x => x / 8 == off / 8).getD false) core
    | 0, .deliver => unit (!a.flag && ((p.flights[a.j]?).map fun f => flightMeets f core off).getD false) core
    | 0, .copyExecute => unit (((p.copies[a.j]?).map fun x => x.accepted && (
        (((endOf p x.tag.cid x.src).map fun e => copyMeets e x x.strs a.n core off).getD false)
          || ((endOf p x.tag.cid x.dst).map fun e => copyMeets e x x.strd a.n core off).getD false)).getD false) core
    | 0, .mxOperationExecute => unit (((p.mxes[a.c]?).bind fun m => m.run.bind fun r =>
        (r.job.ops[r.next]?).map fun o => mxMeets r o (a.n + 1) core off).getD false) core
    | 1, .apply => unit (((p.wq[a.j]?).map fun e => e.line == line).getD false) 0
    | 1, .patrolScrub => unit (a.n == line) 0
    | 1, .copyExecute => unit (((p.copies[a.j]?).map fun x => x.accepted && (
        (((endOf p x.tag.cid x.src).map fun e => copyLine p e x x.strs a.n line).getD false)
          || ((endOf p x.tag.cid x.dst).map fun e => copyLine p e x x.strd a.n line).getD false)).getD false) 0
    | 2, .home => unit (((p.tiles[a.t]?).bind fun t => (t.toq[a.j]?).map fun e => e.isStore && e.line == line && t.tc.any fun x => x.1 == line).getD
        false) a.t
    | 6, .worldStoreArrive => tse
    | 6, .worldLoadArrive => tse
    | 6, .wcancelArrive => tse
    | 6, .wprobeArrive => tse
    | 6, .floorMasterArrive => tse
    | 6, .floorApply => tse
    | 6, .regionRegisterApply => tse
    | 6, .regionFreeApply => tse
    | _, _ => none
  | _, _, none => none
/-- The same when an entry of plot p's host link reaches the host. -/
def linkHits (s : State) (p : Nat) : Option Nat :=
  let busy := ((s.plot? p).map fun q => !(q.link ++ q.park).isEmpty).getD false
  if s.dev.inj.toNat % 16 = 7 ∧ busy ∧ (Config.freeWord s.fresh 7).getLsbD 0 then some 0 else none

end Sys2Proof.Machine
end

