-- ==== Sys2Proof/Machine/Loader.lean ====
section
/-! DEFINITION. What the loader `cxld` does at a load (R195, R408, R410, R412 to R414): the object, its regions and groups, its data. -/
namespace Sys2Proof.Machine

/-- A line of a ring table keeps R410: a handle, a slot size, a slot count, and a place in user LM. -/
def ringOk (x : Nat × Ring) : Bool :=
  let size := 8 * 2 ^ x.2.sz
  decide (x.1 < 8 ∧ x.2.sz ≤ 5 ∧ x.2.cnt ≤ 12 ∧ x.2.base % size = 0 ∧ x.2.base + size * 2 ^ x.2.cnt ≤ 0x38000)
/-- An object that `cxas` makes: no ring handle given twice (R410), and an image that fits (R408). -/
def CodeObj.ok (o : CodeObj) : Bool :=
  o.rings.all ringOk && (o.rings.map (·.1)).eraseDups == o.rings.map (·.1) && decide (o.image.length ≤ 0x38000)
/-- The same descriptor (R412): what a region is, whatever holds it yet. -/
def Region.same (a b : Region) : Bool := { a with at_ := [], routed := false } == { b with at_ := [], routed := false }
/-- A region of the object is registered, kept, or refused (R284, R285, R412). -/
def Plot.loadRegion (p : Plot) (ws : List Word) : Option Plot :=
  let r := regionOf ws
  if !regionOk ws then none
  else match p.region? r.rid with
    | some x => if x.same r then some p else none
    | none =>
      if p.poolUsed + r.charge > p.pool then none
      else
        let fs := List.replicate (r.ng + 1) r.floor0
        some { p with regions := { r with at_ := List.range 16, routed := true } :: p.regions,
                      floors := ((List.range 17).map fun i => ⟨r.rid, i, fs⟩) ++ p.floors }
/-- Every region of the object. -/
def Plot.loadRegions (p : Plot) : List (List Word) → Option Plot
  | [] => some p
  | ws :: rest => (p.loadRegion ws).bind fun p => p.loadRegions rest
/-- Every group of the object is declared, with as many members as its launch template has items (R413); one that cannot be refuses the
load (DESIGN CHOICE, log 93). -/
def State.loadGroups (s : State) (pid : Nat) : List (Word × Word × Word × Word × List Word) → Option State
  | [] => some s
  | (gid, w, nh, g5, tmpl) :: rest =>
    match s.clmDeclare pid 0 gid (BitVec.ofNat 64 (launchOf tmpl 0 []).items) w nh g5 with
    | (s1, 0) => s1.loadGroups pid rest
    | _ => none
/-- The object takes the place of one of the same id (R195). -/
def Plot.place (p : Plot) (o : CodeObj) : Plot := { p with objs := o :: p.objs.filter fun x => x.id != o.id }
/-- The host writes bytes into the plot's memory at a load, as it does through BAR2 (R371, R414). -/
def State.loadBytes (s : State) (pid a : Nat) (bs : List Byte) : State := (hostStore a bs).foldl (fun (s : State) e => s.joinWq pid e) s
/-- Where a byte of `.data` lies: in a page that the tables of PTROOT map with R = W = 1 and KIND 00 (R166, R414). -/
def Plot.dataAt (p : Plot) (va : Nat) : Option Nat :=
  if va ≥ 2 ^ 48 ∨ fld p.ptroot 0 0 = 0 then none
  else match walkFrom p.home (fun l => (p.lineErr l).isSome) p.memsz va 4 1 (fld p.ptroot 39 12 * 4096) with
    | .error _ => none
    | .ok e =>
      let a := e.base + (va - e.page)
      if e.kind = 0 ∧ e.r ∧ e.w ∧ a < p.memsz then some a else none
/-- The bytes of `.data` with their places, or none when one has no place. -/
def Plot.dataPlaces (p : Plot) (xs : List (Nat × List Byte)) : Option (List (Nat × Byte)) :=
  let bytes : List (Nat × Byte) := xs.flatMap fun x => ((List.range x.2.length).zip x.2).map fun y => (x.1 + y.1, y.2)
  let places : List (Nat × Byte) := bytes.filterMap fun x => (p.dataAt x.1).map fun a => (a, x.2)
  if places.length = bytes.length then some places else none
/-- A load (R408 to R414), or nothing but the refusal: an answer of 0 or 1. The words of page tables come first, and map the pages of
`.data`; a load whose data they do not so map is refused (DESIGN CHOICE, log 96). -/
def State.load (s : State) (pid : Nat) (r : LoadReq) : State :=
  let ready (p : Plot) : Bool := r.obj.ok && !p.torn && r.words.all fun x => p.inBar2 x.1 8
  match ((s.plot? pid).filter ready).bind fun p => (p.place r.obj).loadRegions r.regions with
  | none => s.answers [1]
  | some p =>
    let loaded (s : State) : Option State :=
      let s2 := r.words.foldl (fun (s : State) x => s.loadBytes pid x.1 (leBytes 8 x.2.toNat)) s
      ((s2.plot? pid).bind fun p => p.dataPlaces r.data).map fun xs => (maskedStore 0 xs).foldl (fun (s : State) e => s.joinWq pid e) s2
    match ((s.modPlot pid fun _ => p).loadGroups pid r.groups).bind loaded with
    | none => s.answers [1]
    | some s1 => s1.answers [0]

end Sys2Proof.Machine
end

