-- ==== Sys2Proof/Machine/Mgmt.lean ====
section
/-! DEFINITION. The management cores (R12): RISC-V RV64 harts, one a die, with their mailbox in their physical address space (R354). The
manual gives the instruction set by its name alone: what an instruction or a trap does here is that of RV64I with `Zicsr` and of the RISC-V
privileged architecture, machine, supervisor and user mode, without translation (PRESUMED, log 97). -/
namespace Sys2Proof.Machine

/-! Registers and control registers. -/

/-- A register; number 0 reads zero. -/
def MgmtCore.r (h : MgmtCore) (i : Nat) : Word := if i % 32 = 0 then 0 else h.x.toList.getD (i % 32) 0
/-- Writes a register; a write of number 0 is discarded. -/
def MgmtCore.setX (h : MgmtCore) (i : Nat) (w : Word) : MgmtCore := if i % 32 = 0 then h else { h with x := h.x.setIfInBounds (i % 32) w }
/-- The bits of mstatus that software writes: SIE, MIE, SPIE, MPIE, SPP, MPP, MPRV, SUM, MXR, TVM, TW, TSR. -/
def mstatusMask : Word := 0x7E19AA
/-- Those that sstatus shows. -/
def sstatusMask : Word := 0xC0122
/-- UXL and SXL, which say 64 bits and do not change. -/
def xlFixed : Word := 0xA00000000
/-- Takes the bits of a mask from one word and the others from another. -/
def maskIn (old new mask : Word) : Word := (old &&& ~~~mask) ||| (new &&& mask)
/-- mstatus with a value written; MPP keeps its value when 2 is written, which names no mode. -/
def MgmtCore.setStatus (h : MgmtCore) (v mask : Word) : MgmtCore :=
  let w := maskIn h.mstatus v (mask &&& mstatusMask)
  { h with mstatus := if fld w 12 11 = 2 then setFld w 11 2 (fld h.mstatus 12 11) else w }
/-- The interrupts that exist for the supervisor: software, timer, external. -/
def sInts : Word := 0x222
/-- Those that mie enables. -/
def mInts : Word := 0xAAA
/-- mip: the held bits, and MEIP as the mailbox has it (R354). -/
def MgmtCore.pending (h : MgmtCore) (meip : Bool) : Word := (h.mip &&& sInts) ||| (if meip then 0x800 else 0)
/-- The exceptions that may be delegated. -/
def delegable : Word := 0xB1FF
/-- A trap vector as it is kept: its mode is direct or vectored. -/
def vecKept (v : Word) : Word := v &&& ~~~2
/-- A return address as it is kept. -/
def pcKept (v : Word) : Word := v &&& ~~~3

/-- A control register as it reads, if there is one with the number. -/
def MgmtCore.csr (h : MgmtCore) (die : Nat) (meip : Bool) (n : Nat) : Option Word :=
  match n with
  | 0x300 => some (h.mstatus ||| xlFixed)
  | 0x301 => some 0x8000000000140100
  | 0x302 => some h.medeleg
  | 0x303 => some h.mideleg
  | 0x304 => some h.mie
  | 0x305 => some h.mtvec
  | 0x306 => some h.mcounteren
  | 0x30A => some h.menvcfg
  | 0x320 => some 0
  | 0x340 => some h.mscratch
  | 0x341 => some h.mepc
  | 0x342 => some h.mcause
  | 0x343 => some h.mtval
  | 0x344 => some (h.pending meip)
  | 0xB00 => some h.mcycle
  | 0xB02 => some h.minstret
  | 0xF11 => some 0
  | 0xF12 => some 0
  | 0xF13 => some 0
  | 0xF14 => some (BitVec.ofNat 64 die)
  | 0xF15 => some 0
  | 0x100 => some ((h.mstatus ||| xlFixed) &&& (sstatusMask ||| 0x300000000))
  | 0x104 => some (h.mie &&& h.mideleg)
  | 0x105 => some h.stvec
  | 0x106 => some h.scounteren
  | 0x10A => some h.senvcfg
  | 0x140 => some h.sscratch
  | 0x141 => some h.sepc
  | 0x142 => some h.scause
  | 0x143 => some h.stval
  | 0x144 => some (h.pending meip &&& h.mideleg)
  | 0x180 => some 0
  | 0xC00 => some h.mcycle
  | 0xC02 => some h.minstret
  | _ =>
    let counts : Prop := (0x323 ≤ n ∧ n < 0x340) ∨ (0xB03 ≤ n ∧ n < 0xB20) ∨ (0xC03 ≤ n ∧ n < 0xC20)
    if counts ∨ (0x3A0 ≤ n ∧ n < 0x3F0 ∧ (n < 0x3B0 → n % 2 = 0)) then some 0 else none
/-- A control register is written. One that is fixed keeps what it holds. -/
def MgmtCore.setCsr (h : MgmtCore) (n : Nat) (v : Word) : MgmtCore :=
  match n with
  | 0x300 => h.setStatus v mstatusMask
  | 0x302 => { h with medeleg := v &&& delegable }
  | 0x303 => { h with mideleg := v &&& sInts }
  | 0x304 => { h with mie := v &&& mInts }
  | 0x305 => { h with mtvec := vecKept v }
  | 0x306 => { h with mcounteren := v &&& 0xFFFFFFFF }
  | 0x30A => { h with menvcfg := v &&& 1 }
  | 0x340 => { h with mscratch := v }
  | 0x341 => { h with mepc := pcKept v }
  | 0x342 => { h with mcause := v }
  | 0x343 => { h with mtval := v }
  | 0x344 => { h with mip := v &&& sInts }
  | 0xB00 => { h with mcycle := v }
  | 0xB02 => { h with minstret := v }
  | 0x100 => h.setStatus v sstatusMask
  | 0x104 => { h with mie := maskIn h.mie v h.mideleg }
  | 0x105 => { h with stvec := vecKept v }
  | 0x106 => { h with scounteren := v &&& 0xFFFFFFFF }
  | 0x10A => { h with senvcfg := v &&& 1 }
  | 0x140 => { h with sscratch := v }
  | 0x141 => { h with sepc := pcKept v }
  | 0x142 => { h with scause := v }
  | 0x143 => { h with stval := v }
  | 0x144 => { h with mip := maskIn h.mip v (h.mideleg &&& 2) }
  | _ => h
/-- The mode may reach the control register: its number names the least mode; satp is out of the supervisor's reach under TVM; a user
counter is open as the enables of the modes above say. -/
def MgmtCore.reaches (h : MgmtCore) (n : Nat) : Bool :=
  let i := n % 32
  decide (n / 256 % 4 ≤ h.mode.toNat) && !(n == 0x180 && h.mode == 1 && h.mstatus.getLsbD 20)
    && (n / 32 != 0x60 || h.mode == 3 || (h.mcounteren.getLsbD i && (h.mode == 1 || h.scounteren.getLsbD i)))

/-! Traps. -/

/-- A trap is taken: `int` for an interrupt. In supervisor or user mode, a delegated one goes to the supervisor, any other to machine
mode; the PC, the cause and the value are saved, the enable and the mode go onto their stack, and the PC takes the vector. -/
def MgmtCore.take (h : MgmtCore) (int : Bool) (cause : Nat) (tval : Word) : MgmtCore :=
  let code := BitVec.ofNat 64 (cause + (if int then 2 ^ 63 else 0))
  let at_ (v : Word) : Word := (v &&& ~~~3) + (if int ∧ v.getLsbD 0 then BitVec.ofNat 64 (4 * cause) else 0)
  if h.mode ≠ 3 ∧ (if int then h.mideleg else h.medeleg).getLsbD cause then
    { h with sepc := pcKept h.pc, scause := code, stval := tval, pc := at_ h.stvec, mode := 1,
             mstatus := setFld (setFld (setFld h.mstatus 5 1 (fld h.mstatus 1 1)) 1 1 0) 8 1 h.mode.toNat }
  else
    { h with mepc := pcKept h.pc, mcause := code, mtval := tval, pc := at_ h.mtvec, mode := 3,
             mstatus := setFld (setFld (setFld h.mstatus 7 1 (fld h.mstatus 3 3)) 3 1 0) 11 2 h.mode.toNat }
/-- `mret`: the mode and the enable come back from their stack; a mode below machine mode clears MPRV. -/
def MgmtCore.mret (h : MgmtCore) : MgmtCore :=
  let m := fld h.mstatus 12 11
  let st := setFld (setFld (setFld h.mstatus 3 1 (fld h.mstatus 7 7)) 7 1 1) 11 2 0
  { h with pc := h.mepc, mode := BitVec.ofNat 2 m, mstatus := if m = 3 then st else setFld st 17 1 0 }
/-- `sret`. -/
def MgmtCore.sret (h : MgmtCore) : MgmtCore :=
  let st := setFld (setFld (setFld h.mstatus 1 1 (fld h.mstatus 5 5)) 5 1 1) 8 1 0
  { h with pc := h.sepc, mode := BitVec.ofNat 2 (fld h.mstatus 8 8), mstatus := setFld st 17 1 0 }
/-- The interrupt that is taken next: one that is pending and enabled, and that the mode does not hold back; machine mode's come first,
then external, software, timer. -/
def MgmtCore.interrupt (h : MgmtCore) (meip : Bool) : Option Nat :=
  let on := h.pending meip &&& h.mie
  let m := if h.mode ≠ 3 ∨ h.mstatus.getLsbD 3 then on &&& ~~~h.mideleg else 0
  let s := if h.mode = 0 ∨ (h.mode = 1 ∧ h.mstatus.getLsbD 1) then on &&& h.mideleg else 0
  let pick (w : Word) : Option Nat := [11, 3, 7, 9, 1, 5].find? fun i => w.getLsbD i
  match pick m with
  | some i => some i
  | none => pick s

/-! Instructions. -/

/-- What an instruction comes to: the core after it; the same with a store of n bytes; or an exception. -/
inductive MgmtOut where
  | done (h : MgmtCore)
  | store (h : MgmtCore) (a n : Nat) (v : Word)
  | trap (cause : Nat) (tval : Word)
  deriving DecidableEq, Repr

/-- The low 32 bits, sign-extended. -/
def word32 (w : Word) : Word := (w.setWidth 32).signExtend 64
/-- The operations of OP and OP-IMM on 64 bits, by funct3; `alt` is bit 30. -/
def mgmtAlu (f3 : Nat) (alt : Bool) (a b : Word) : Word :=
  match f3 with
  | 0 => if alt then a - b else a + b
  | 1 => a <<< (b.toNat % 64)
  | 2 => if a.slt b then 1 else 0
  | 3 => if a.ult b then 1 else 0
  | 4 => a ^^^ b
  | 5 => if alt then a.sshiftRight (b.toNat % 64) else a >>> (b.toNat % 64)
  | 6 => a ||| b
  | _ => a &&& b
/-- Those on 32 bits: addition, subtraction and shifts. -/
def mgmtAlu32 (f3 : Nat) (alt : Bool) (a b : Word) : Word :=
  let x : BitVec 32 := a.setWidth 32
  let n := b.toNat % 32
  match f3 with
  | 0 => word32 (if alt then a - b else a + b)
  | 1 => (x <<< n).signExtend 64
  | _ => (if alt then x.sshiftRight n else x >>> n).signExtend 64
/-- The condition of a branch by funct3. -/
def mgmtCond (f3 : Nat) (a b : Word) : Bool :=
  match f3 with
  | 0 => a == b
  | 1 => a != b
  | 4 => a.slt b
  | 5 => !a.slt b
  | 6 => a.ult b
  | _ => !a.ult b
/-- The five bits of rd, rs1, rs2 of a word. -/
def mgmtReg (w lo : Nat) : Nat := w / 2 ^ lo % 32
/-- The immediates of the forms I, S, B, U and J. -/
def immI (w : Nat) : Word := sextN (w / 2 ^ 20) 12
def immS (w : Nat) : Word := sextN (w / 2 ^ 25 * 32 + w / 128 % 32) 12
def immB (w : Nat) : Word := sextN (w / 2 ^ 31 * 4096 + w / 128 % 2 * 2048 + w / 2 ^ 25 % 64 * 32 + w / 256 % 16 * 2) 13
def immU (w : Nat) : Word := sextN (w / 4096 * 4096) 32
def immJ (w : Nat) : Word := sextN (w / 2 ^ 31 * 2 ^ 20 + w / 4096 % 256 * 4096 + w / 2 ^ 20 % 2 * 2048 + w / 2 ^ 21 % 1024 * 2) 21
/-- The core goes on at an address, and a register receives the address of the next instruction; a target that is not aligned to 4 is an
exception. -/
def MgmtCore.goes (h : MgmtCore) (link : Option Nat) (target : Word) : MgmtOut :=
  if fld target 1 0 ≠ 0 then .trap 0 target
  else
    let h' := match link with
      | none => h
      | some d => h.setX d (h.pc + 4)
    .done { h' with pc := target }
/-- The core goes on at the next instruction. -/
def MgmtCore.pass (h : MgmtCore) : MgmtOut := .done { h with pc := h.pc + 4 }
/-- A load of 2^k bytes, sign-extended unless `u`. -/
def MgmtCore.loads (h : MgmtCore) (rd : Nat → Nat → Nat) (d k : Nat) (u : Bool) (a : Word) : MgmtOut :=
  let n := 2 ^ k
  if a.toNat % n ≠ 0 then .trap 4 a
  else
    let v := rd a.toNat n
    (h.setX d (if u then BitVec.ofNat 64 v else sextN v (8 * n))).pass
/-- An instruction on a control register: `how` is 1 for a write, 2 to set bits, 3 to clear bits; bits are set or cleared only when `wr`
says that the instruction names a source. -/
def MgmtCore.csrOp (h : MgmtCore) (die : Nat) (meip : Bool) (w n d how : Nat) (v : Word) (wr : Bool) : MgmtOut :=
  let writes := how = 1 ∨ wr
  match (if h.reaches n ∧ !(decide writes && decide (n / 1024 = 3)) then h.csr die meip n else none) with
  | none => .trap 2 (BitVec.ofNat 64 w)
  | some old =>
    -- a read-modify-write of mip does not take in MEIP, which only the mailbox sets
    let new := match how with
      | 1 => v
      | 2 => old ||| v
      | _ => old &&& ~~~v
    ((if writes then h.setCsr n new else h).setX d old).pass
/-- The instructions of SYSTEM with funct3 0. -/
def MgmtCore.system (h : MgmtCore) (w : Nat) : MgmtOut :=
  let bad : MgmtOut := .trap 2 (BitVec.ofNat 64 w)
  if w = 0x00000073 then .trap (8 + h.mode.toNat) 0
  else if w = 0x00100073 then .trap 3 h.pc
  else if w = 0x30200073 then (if h.mode = 3 then .done h.mret else bad)
  else if w = 0x10200073 then (if h.mode = 0 ∨ (h.mode = 1 ∧ h.mstatus.getLsbD 22) then bad else .done h.sret)
  -- `wfi` may end at once
  else if w = 0x10500073 then (if h.mode ≠ 3 ∧ h.mstatus.getLsbD 21 then bad else h.pass)
  -- `sfence.vma`: there is no translation to order
  else if w / 2 ^ 25 = 9 ∧ mgmtReg w 7 = 0 then (if h.mode = 0 ∨ (h.mode = 1 ∧ h.mstatus.getLsbD 20) then bad else h.pass)
  else bad
/-- One instruction of a management core, by its word; `rd` reads n bytes. -/
def MgmtCore.run (h : MgmtCore) (die : Nat) (meip : Bool) (rd : Nat → Nat → Nat) (w : Nat) : MgmtOut :=
  let d := mgmtReg w 7
  let f3 := w / 4096 % 8
  let a := h.r (mgmtReg w 15)
  let b := h.r (mgmtReg w 20)
  let f7 := w / 2 ^ 25
  let bad : MgmtOut := .trap 2 (BitVec.ofNat 64 w)
  match w % 128 with
  | 0x37 => (h.setX d (immU w)).pass
  | 0x17 => (h.setX d (h.pc + immU w)).pass
  | 0x6F => h.goes (some d) (h.pc + immJ w)
  | 0x67 => if f3 = 0 then h.goes (some d) ((a + immI w) &&& ~~~1) else bad
  | 0x63 => if f3 = 2 ∨ f3 = 3 then bad else if mgmtCond f3 a b then h.goes none (h.pc + immB w) else h.pass
  | 0x03 => if f3 = 7 then bad else h.loads rd d (f3 % 4) (decide (f3 ≥ 4)) (a + immI w)
  | 0x23 =>
    let x := a + immS w
    if f3 ≥ 4 then bad else if x.toNat % 2 ^ f3 ≠ 0 then .trap 6 x else .store { h with pc := h.pc + 4 } x.toNat (2 ^ f3) b
  | 0x13 =>
    let sh := w / 2 ^ 26
    if (f3 = 1 ∧ sh ≠ 0) ∨ (f3 = 5 ∧ sh ≠ 0 ∧ sh ≠ 16) then bad
    else (h.setX d (mgmtAlu f3 (decide (f3 = 5 ∧ sh = 16)) a (immI w))).pass
  | 0x33 =>
    if f7 = 0 ∨ (f7 = 32 ∧ (f3 = 0 ∨ f3 = 5)) then (h.setX d (mgmtAlu f3 (decide (f7 = 32)) a b)).pass else bad
  | 0x1B =>
    if f3 = 0 then (h.setX d (mgmtAlu32 0 false a (immI w))).pass
    else if (f3 = 1 ∧ f7 = 0) ∨ (f3 = 5 ∧ (f7 = 0 ∨ f7 = 32)) then (h.setX d (mgmtAlu32 f3 (decide (f7 = 32)) a (immI w))).pass else bad
  | 0x3B =>
    if (f7 = 0 ∧ (f3 = 0 ∨ f3 = 1 ∨ f3 = 5)) ∨ (f7 = 32 ∧ (f3 = 0 ∨ f3 = 5)) then (h.setX d (mgmtAlu32 f3 (decide (f7 = 32)) a b)).pass
    else bad
  -- `fence`: the core's accesses are performed in order
  | 0x0F => if f3 = 0 then h.pass else bad
  | 0x73 =>
    let n := w / 2 ^ 20
    let z := mgmtReg w 15
    if f3 = 0 then h.system w
    else if f3 = 4 then bad
    else h.csrOp die meip w n d (f3 % 4) (if f3 > 4 then BitVec.ofNat 64 z else a) (decide (z ≠ 0))
  | _ => bad

/-! The step of a management core, and its mailbox (R354). -/

/-- Where the mailbox begins, and how many bytes it has (R354). -/
def mboxBase : Nat := 0x4000000
def mboxSize : Nat := 0x1D000
/-- An address lies in the mailbox. -/
def inMbox (a : Nat) : Bool := decide (mboxBase ≤ a ∧ a < mboxBase + mboxSize)
/-- The bytes that a management core reads: a part of a word of its mailbox, or its memory. -/
def mgmtRead (h : MgmtCore) (m : Mbox) (a n : Nat) : Nat :=
  if inMbox a then (m.read (a - mboxBase - (a - mboxBase) % 8)).toNat / 2 ^ (8 * (a % 8)) % 2 ^ (8 * n) else h.mem.num a n
/-- A write to the mailbox (R8, R354): MBREL releases a slot, MBEVTAIL takes its low half; no other word of it is written. -/
def State.mboxWrite (s : State) (die a n : Nat) (v : Word) : State :=
  let off := a - mboxBase
  let at_ := off % 8
  let into (old : Word) : Word := setFld old (8 * at_) (8 * n) v.toNat
  if off - at_ = 0x18D00 then
    let w := into 0
    match execMbrelWrite { s with ev := { s.ev with c := die, n := fld w 10 0, flag := w.getLsbD 16 } } with
    | .next t => { t with ev := s.ev }
    | _ => s
  else if off - at_ = 0x18D10 then
    s.modDev fun d => { d with mboxes := d.mboxes.modify die fun m => { m with tail := (into (m.tail.setWidth 64)).setWidth 32 } }
  else s
/-- Changes a management core. -/
def State.modMgmt (s : State) (die : Nat) (f : MgmtCore → MgmtCore) : State := s.modDev fun d => { d with mgmt := d.mgmt.modify die f }
/-- The management core of a die takes an interrupt, or executes one instruction of its firmware (R12, R354). -/
def State.mgmtStep (s : State) (die : Nat) : State :=
  match s.dev.mgmt[die]?, s.dev.mboxes[die]? with
  | some h, some m =>
    let h := { h with mcycle := h.mcycle + 1 }
    match h.interrupt m.meip with
    | some i => s.modMgmt die fun _ => h.take true i 0
    | none =>
      let rd := mgmtRead h m
      let retired (x : MgmtCore) : MgmtCore := { x with minstret := x.minstret + 1 }
      match h.run die m.meip rd (rd h.pc.toNat 4) with
      | .done x => s.modMgmt die fun _ => retired x
      | .trap cause tval => s.modMgmt die fun _ => h.take false cause tval
      | .store x a n v =>
        if inMbox a then (s.modMgmt die fun _ => retired x).mboxWrite die a n v
        else s.modMgmt die fun _ => retired { x with mem := x.mem.write a (leBytes n v.toNat) }
  | _, _ => s
/-- Firmware is placed in the memory of a management core, which starts at an address in machine mode. -/
def State.mgmtLoad (s : State) (die a : Nat) (bs : List Byte) : State :=
  s.modMgmt die fun h => { h with mem := h.mem.write a bs, pc := BitVec.ofNat 64 (a - a % 4), mode := 3,
                                  mstatus := setFld (setFld h.mstatus 3 1 0) 17 1 0 }

end Sys2Proof.Machine
end

