-- ==== Sys2Proof/Machine/Turn.lean ====
section
/-! DEFINITION. What one step does (R64, R87 to R89, R172): a core's turn, which fetches, decodes, checks and runs one instruction, or
starts its next stint; and the moves of the agenda. -/
namespace Sys2Proof.Machine

/-! Fetching and decoding. -/

/-- The instruction at the PC, whose modifier has a bad tag, breaks a rule of its own word, which comes first (R89): it is decoded with
the tag of R73 and nothing else in the modifier. -/
def reservedBefore (c : Core) (bs : List Byte) : Bool :=
  match decode (bs.take 4 ++ [0, 0, 0, 0xA0]) with
  | .ok i _ => reservedWord i c.pp c.pf c.pd
  | _ => false
/-- What the bytes at a core's PC ask for: an instruction to run, or the fault of the first check that fails (R89); `none` stands for
a PC beyond the code. -/
def decodeAt (svc : Bool) (c : Core) (code : List Byte) : Except (Option Cause) Instr :=
  match decode (fetch code c.off.toNat) with
  | .short => .error none
  | .bad cause mark =>
    if mark && !svc then .error (some 0x09)
    else if cause = 0x05 ∧ reservedBefore c (fetch code c.off.toNat) then .error (some 0x01)
    else .error (some cause)
  | .ok i _ => match precheck svc c code i with
    | .ok j => .ok j
    | .error cause => .error (some cause)
/-- An error in the instruction's own words, which the fetch meets (R368). -/
def Plot.fetchErr (p : Plot) (c : Core) (n : Nat) : Option (Nat × Nat × Option Nat) :=
  p.codeErr.find? fun x => x.1 == c.obj.toNat && decide (c.off.toNat < x.2.1 + 4 ∧ x.2.1 < c.off.toNat + n)
/-- A word of a service core's own memory, from which it fetches, with an uncorrectable error. -/
def Core.fetchErr (c : Core) (n : Nat) : Option Nat := c.lmErr.find? fun a => decide (c.off.toNat < a + 8 ∧ a < c.off.toNat + n)
/-- An instruction that is decoded runs, unless it waits for a result or for a bank of LM (R163); an armed injection takes effect at what it
accesses as it retires, and at its fetch (R397). -/
def runOne (s : State) (p : Plot) (c : Core) (i : Instr) (len : Nat) : Out :=
  if c.awaitsResult i || bankBusy s p c i then upd s Core.stall
  else
    let o := noted s i (exec i s)
    if s.cur.svc || !s.dev.strikes then o
    else match o with
      | .next t =>
        if retiredIn s t || s.dev.inj.toNat % 16 == 4 then struck s (instrHits s p ((t.plot? p.pid).getD p) c i len) o else o
      | o => o
/-- The instruction at the PC of the core that steps is fetched, decoded and run. A fetch that meets an uncorrectable error raises
IFETCH_ECC, at a physical address that is a free value where the model does not know it. -/
def runNext (s : State) (p : Plot) (c : Core) : Out :=
  let code := codeOf s p c
  let n := skipLen (leNat (fetch code c.off.toNat))
  match (if s.cur.svc then none else p.fetchErr c n), (if s.cur.svc then c.fetchErr n else none) with
  | some x, _ =>
    trap (s.modMine fun p => { p with codeErr := p.codeErr.filter fun y => y != x }) 0x03
      ((x.2.2.map (BitVec.ofNat 64)).getD (Config.freeWord x.2.1 6)) (Config.freeWord x.2.1 0)
  | none, some a => trap s 0x03 (Config.freeWord a 6) (Config.freeWord a 0)
  | none, none => match decodeAt s.cur.svc c code with
    | .ok i => runOne s p c i n
    | .error (some cause) => decodeTrap s c code cause
    | .error none => decodeTrap s c code 0x00

/-! A core's turn. -/

/-- A stint waits for a word of another core's frame: its instruction is already behind it (R266). -/
def Core.searching (c : Core) : Bool :=
  match c.wait with
  | .search _ _ _ _ => true
  | _ => false
/-- The turn of a compute core: it starts a stint when its context is free (R21); a core at service or held does nothing; the
watchdog comes first (R31); else one instruction runs. -/
def coreTurn (s : State) : Out :=
  onCore s fun p c =>
    if c.hold ≠ .free then .next s
    else if c.stint.isNone then .next (s.startStint s.cur.pid s.cur.idx)
    else if c.overrun then .next (s.abortCore s.cur.pid s.cur.idx 0x50 false c.pc 0 ((p.budgetOf c.lid).setWidth 64))
    else if c.searching then upd s Core.stall
    else runNext s p c
/-- The turn of a service core: one instruction of its firmware, unless a machine check has stopped it (R353). -/
def serviceTurn (s : State) : Out :=
  onCore s fun p c => if (svcOf p s.cur.idx).stopped then .next s else runNext s p c
/-- The turn of the core that `cur` names. -/
def turn (s : State) : Out := if s.cur.svc then serviceTurn s else coreTurn s

/-! The agenda. -/

/-- Cycles pass at a core, in which a running stint stalls: they count against its BUDGET (R31), in CYC (R62) and for its energy
(R47). -/
def Core.pass (c : Core) (n : Nat) : Core := c.charge n 0
/-- The same at a tile that no plot holds. -/
def Spare.pass (x : Spare) (n : Nat) : Spare :=
  { x with svc := { x.svc with ctx := x.svc.ctx.pass n }, cycs := x.cycs.map fun w => w + BitVec.ofNat 64 n }
/-- Time passes: plane time by `ns`, and each core's cycles. -/
def State.elapse (s : State) (cycles ns : Nat) : State :=
  { s with dev := { s.dev with time := s.dev.time + ns, cyc := s.dev.cyc + BitVec.ofNat 64 cycles,
                               spares := s.dev.spares.map (·.pass cycles) },
           plots := s.plots.map fun (p : Plot) =>
             { p with cores := p.cores.map (·.pass cycles),
                      tiles := p.tiles.map fun (t : Tile) => t.modSvc fun v => { v with ctx := v.ctx.pass cycles } } }
/-- A service core's firmware goes on at a PC. -/
def SvcCore.runAt (v : SvcCore) (pc : Word) : SvcCore :=
  { v with ctx := { v.ctx with obj := BitVec.ofNat 16 (fld pc 47 32), off := BitVec.ofNat 32 (fld pc 31 0), wait := .none } }
/-- The host writes bytes of its own memory; runners that sleep on them look again (R136). -/
def State.hostWrites (s : State) (a : Nat) (bs : List Byte) : State :=
  let s1 := s.modDev fun d => { d with host := d.host.write a bs }
  (s1.plots.map (·.pid)).foldl (fun (s : State) pid => s.wakeGlob pid fun l => (storeAct a bs).touchesAt .host l) s1
/-- A move of the agenda. An event is a row of the table without an encoding. -/
def runMove (s : State) (m : Move) : Out :=
  match m with
  | .event i a =>
    let s1 := { s with ev := a }
    if i.encoded then .next s else struck s1 (eventHits s1 i a) (exec i s1)
  | .turn a => turn { s with cur := a }
  | .elapse cycles ns => .next (s.elapse cycles ns)
  | .load p r => .next (s.load p r)
  | .svcRun p t pc => .next (s.modPlot p fun p => p.modTile t fun x => x.modSvc fun v => v.runAt pc)
  | .hostWrite a bs => .next (s.hostWrites a bs)
  | .linkStep p => struck s (linkHits s p) (.next (s.hostStep p))
  | .evict p t page => .next (s.modPlot p fun p => p.modTile t fun (x : Tile) => { x with tlb := x.tlb.filter fun e => e.page != page })
  | .strike p arr unit addr corr => .next (s.errorAt p (arrNum arr) unit addr (if corr then 1 else 2))
  | .debug p on => .next (s.debugger p on)
  | .mbRead die off => .next (s.readMbox die off)
  | .mgmt die => .next (s.mgmtStep die)
  | .mgmtLoad die a bs => .next (s.mgmtLoad die a bs)
  | .planeIn p x => .next (s.planeIn p x)
  | .planeTag p j => .next (s.modPlot p fun p => p.planeTag j)
  | .path p a b up => .next (s.modPlot p fun p => p.path a b up)
  | .limits p etries rtries => .next (s.modPlot p fun p => { p with etries := max 1 (min 64 etries), rtries := max 1 (min 255 rtries) })
  | .msixWrite n i a d => .next (s.msixWrite n i a d)
  | .outside fabNum atomics peers => .next (s.modDev fun d =>
      { d with fabNum := fabNum, hostAtomics := atomics, peers := if peers.all fun x => x.mem.wf then peers else d.peers })
  | .shares x => .next (s.modDev fun d => { d with shares := x })
  | .barRead p off noT => readBar0 { s with ev := { s.ev with p := p, opt := if noT then some 1 else none } } off
  | .pfRead mgr off => .next (s.readPf mgr off)
  | .pfLog mgr i => .next (s.readLog mgr i)
  | .mgrCounters => .next s.readCounters
  | .linkRead => .next (s.answers [BitVec.ofNat 64 s.dev.rate, BitVec.ofNat 64 s.dev.width])
  | .train rate width => .next (s.train rate width)
/-- One step: the next move of the agenda, or a turn of the core that steps. -/
def nextStep (s : State) : Out :=
  match s.agenda with
  | m :: rest => runMove { s with agenda := rest } m
  | [] => turn s

/-! Where a test places an instruction. -/

/-- A plot with one tile whose core 0 runs a stint at the start of a code object (log 11). -/
def Plot.holding (code : List Byte) : Plot :=
  let p := Plot.init 0 1 [0] 0 0 0
  { p with objs := [⟨0, code, [], [], []⟩] }.modCore 0 fun c =>
    { c with stint := some { lid := 0, trig := none, token := 0, commits := 0, icount := 0 }, budget := 100000 }
/-- The instruction is placed where the next step fetches (log 11): the bytes of the word, then zeros. -/
def State.placed (s : State) (nbits w : Nat) : State :=
  { s with plots := [Plot.holding (leBytes (nbits / 8) w ++ List.replicate (16 - nbits / 8) 0)], cur := ⟨0, false, 0⟩, agenda := [] }

end Sys2Proof.Machine
end

