-- ==== Sys2Proof/Machine/Step.lean ====
section
/-! DEFINITION. The step of the machine, and where the host's probe places an instruction. -/
namespace Sys2Proof.Machine

/-- One step (R172): what `nextStep` does. -/
def step (s : State) : Host.Outcome State Fault Refusal := nextStep s
/-- The state with an instruction where `step` fetches its next one. -/
def State.withFetchWord (s : State) (nbits w : Nat) : State := s.placed nbits w

end Sys2Proof.Machine
end

