-- ==== Sys2Proof/Safety.lean ====
section
/-! DEFINITION. What counts as a safe run, the invariant that claims use, and the vocabulary of the statements: the core that steps, how
an instruction leaves it, and what it leaves alone. -/
namespace Sys2Proof

open Machine

/-- A step answers a next state: it meets no fault and no refusal. -/
def Goes (s : State) : Prop := ∃ t, Machine.step s = .next t
/-- An instruction answers a next state. -/
def Runs (i : Instr) (s : State) : Prop := ∃ t, Machine.exec i s = .next t
/-- A run of n steps meets no fault and no refusal. -/
def SafeRun (n : Nat) (s : State) : Prop := ∃ t, core.run n s = .next t

/-- Every memory of the machine is in canonical form: the host's, each peer's, each plot's, each core's LM, those of a suspended
image, each service core's, of tiles that no plot holds as well, and each management core's. -/
def MemOk (s : State) : Prop :=
  s.dev.host.wf = true ∧ (∀ x ∈ s.dev.peers, x.mem.wf = true) ∧ (∀ x ∈ s.dev.spares, x.svc.ctx.lm.wf = true)
    ∧ (∀ x ∈ s.dev.mgmt, x.mem.wf = true)
    ∧ ∀ p ∈ s.plots, p.mem.wf = true ∧ (∀ c ∈ p.cores, c.lm.wf = true) ∧ (∀ t ∈ p.tiles, t.svc.ctx.lm.wf = true)
        ∧ ∀ img, p.image = some img → ∀ c ∈ img.cores, c.lm.wf = true

/-! The core that steps. -/

/-- The core that steps is core c of plot p. -/
def At (s : State) (p : Plot) (c : Core) : Prop := s.myPlot = some p ∧ s.me = some c
/-- An instruction answers the state in which the core that steps has become d and nothing else has changed. -/
def Becomes (i : Instr) (s : State) (d : Core) : Prop := Machine.exec i s = .next (s.modMe fun _ => d)

/-! What an instruction leaves alone, from core c before it to core d after it. -/

/-- Every general register but those listed. -/
def SameRegs (c d : Core) (but : List Reg) : Prop := ∀ r : Reg, r ∉ but → d.r r = c.r r
/-- Every bit of ST but those of a mask. -/
def SameSt (c d : Core) (but : Word) : Prop := ∀ i, but.getLsbD i = false → d.st.getLsbD i = c.st.getLsbD i
/-- Every vector and mask register. -/
def SameVec (c d : Core) : Prop := d.v = c.v ∧ d.k = c.k
/-- Every byte of LM, as a read sees it, and the error marks. -/
def SameLm (c d : Core) : Prop := (∀ a, d.lm.get a = c.lm.get a) ∧ d.lmErr = c.lmErr ∧ d.bankOff = c.bankOff
/-- Every special register but ST, CYC and BUDGET: those of the copy engine, of rings, of the claim unit, and the rest of R62. -/
def SameSpecial (c d : Core) : Prop :=
  d.wid = c.wid ∧ d.htop = c.htop ∧ d.lmret = c.lmret ∧ d.ba0 = c.ba0 ∧ d.ba1 = c.ba1 ∧ d.xfid = c.xfid ∧ d.jobid = c.jobid
    ∧ d.cpsrc = c.cpsrc ∧ d.cpdst = c.cpdst ∧ d.cplen = c.cplen ∧ d.cpstrs = c.cpstrs ∧ d.cpstrd = c.cpstrd ∧ d.cpcnt = c.cpcnt
    ∧ d.cphdl = c.cphdl ∧ d.clg = c.clg
/-- The ring descriptors. -/
def SameRings (c d : Core) : Prop := d.q = c.q
/-- What the core has on its way out: buffered and committed entries, the open job, outstanding copies and jobs. -/
def SameOut (c d : Core) : Prop :=
  d.ob = c.ob ∧ d.ct = c.ct ∧ d.ord = c.ord ∧ d.job = c.job ∧ d.xnext = c.xnext ∧ d.jnext = c.jnext ∧ d.xout = c.xout ∧ d.jout = c.jout
/-- What waits at the core: messages, remote operations, the slab, a report. -/
def SameIn (c d : Core) : Prop :=
  d.mq = c.mq ∧ d.runq = c.runq ∧ d.back = c.back ∧ d.parked = c.parked ∧ d.slab = c.slab ∧ d.frames = c.frames ∧ d.retain = c.retain
    ∧ d.hold = c.hold ∧ d.report = c.report ∧ d.late = c.late ∧ d.returned = c.returned
/-- What the core is and what it sees: its number, its code object, its view of the tile cache. -/
def SameSelf (c d : Core) : Prop := d.cid = c.cid ∧ d.obj = c.obj ∧ d.view = c.view
/-- Its counts for every launch: MSGSEQ, sent, received, the status words it keeps (the energy of R47 is left out). -/
def SameCounts (c d : Core) : Prop :=
  ∀ l, (d.count l).seq = (c.count l).seq ∧ (d.count l).sent = (c.count l).sent ∧ (d.count l).recv = (c.count l).recv
    ∧ (d.count l).xdone = (c.count l).xdone ∧ (d.count l).jdone = (c.count l).jdone ∧ (d.count l).met = (c.count l).met
/-- Everything of these but the general registers and ST. -/
def Untouched (c d : Core) : Prop :=
  SameVec c d ∧ SameLm c d ∧ SameSpecial c d ∧ SameRings c d ∧ SameOut c d ∧ SameIn c d ∧ SameSelf c d ∧ SameCounts c d

/-- Where the PC stands after an instruction of a length (R64, R81, R83): with repetitions left RC falls and the PC stays; else the PC
passes the instruction, and the repeat and the pending format end. -/
def NextPc (c d : Core) (len : Nat) : Prop :=
  if 1 < c.rc then d.rc = c.rc - 1 ∧ d.pp = c.pp ∧ d.off = c.off else d.rc = 0 ∧ d.pp = false ∧ d.off = c.off + BitVec.ofNat 32 len
/-- An instruction of a length has retired (R31, R103): CYC and BUDGET count the same number of cycles, BUDGET only while the stint is not
at service; the stint has executed one instruction more. -/
def Passed (c d : Core) (len : Nat) : Prop :=
  NextPc c d len ∧ d.wait = .none ∧ d.stint = c.stint.map Stint.tick
    ∧ ∃ n : Nat, d.cyc = c.cyc + BitVec.ofNat 64 n
        ∧ d.budget = if c.stint.isNone ∨ c.stBits 38 38 = 1 then c.budget else BitVec.ofNat 25 (c.budget.toNat - n)
/-- ST.PP and ST.RC, which retiring an instruction may change. -/
def stRetire : Word := 0x7801

/-- An instruction of a length completes with one general register written, and leaves everything else alone. -/
def Writes (i : Instr) (s : State) (c : Core) (len : Nat) (d : Reg) (w : Word) : Prop :=
  ∃ e, Becomes i s e ∧ e.r d = w ∧ SameRegs c e [d] ∧ SameSt c e stRetire ∧ Passed c e len ∧ Untouched c e
/-- An instruction of a length makes core d of the core that steps, and passes: d says what it writes, and nothing else changes. -/
def Makes (i : Instr) (s : State) (d : Core) (len : Nat) : Prop :=
  ∃ e, Becomes i s e ∧ SameRegs d e [] ∧ SameSt d e stRetire ∧ Passed d e len ∧ Untouched d e
/-- No runner sleeps on the core. -/
def NoSleeper (c : Core) : Prop := ∀ x ∈ c.slab, x.sleep = none
/-- As `Makes`, for an instruction that may end the wait of a sleeping runner (R134, R136): where none sleeps, nothing else changes;
where one does, its slot, the run queue and the counts may change as well. -/
def Wakes (i : Instr) (s : State) (d : Core) (len : Nat) : Prop :=
  ∃ e, Becomes i s e ∧ SameRegs d e [] ∧ SameSt d e stRetire ∧ Passed d e len ∧ SameVec d e ∧ SameLm d e ∧ SameSpecial d e
    ∧ SameRings d e ∧ SameOut d e ∧ SameSelf d e ∧ e.mq = d.mq ∧ e.back = d.back ∧ e.parked = d.parked ∧ e.frames = d.frames
    ∧ e.retain = d.retain ∧ e.hold = d.hold ∧ e.report = d.report ∧ e.returned = d.returned ∧ (NoSleeper d → SameIn d e ∧ SameCounts d e)
/-- An instruction of a length makes core d of the core that steps, passes, and has entered one operation into the outbound buffer
behind all earlier ones (R24): a release at a scope or none, with the identity of the instruction; MSGSEQ advances if `bump` says so. -/
def Enters (i : Instr) (s : State) (d : Core) (len : Nat) (rel : Option Scope) (bump : Bool) (body : EBody → Prop) : Prop :=
  ∃ e x, Becomes i s e ∧ e.ct ++ e.ob = d.ct ++ d.ob ++ [x] ∧ x.rel = rel ∧ x.tag = d.tag ∧ body x.body
    ∧ SameRegs d e [] ∧ SameSt d e stRetire ∧ NextPc d e len ∧ e.wait = .none ∧ SameVec d e ∧ SameLm d e ∧ SameSpecial d e
    ∧ SameRings d e ∧ SameIn d e ∧ SameSelf d e ∧ e.job = d.job ∧ e.xnext = d.xnext ∧ e.jnext = d.jnext ∧ e.xout = d.xout
    ∧ e.jout = d.jout ∧ (e.count d.lid).seq = (d.count d.lid).seq + if bump then 1 else 0
/-- An instruction asks another agent for a value: it has entered one operation, has committed (R26), and waits; the PC stays; MSGSEQ
advances if `bump` says so (R194). -/
def Asks (i : Instr) (s : State) (d : Core) (bump : Bool) (body : EBody → Prop) : Prop :=
  ∃ e x, Becomes i s e ∧ e.ob = [] ∧ e.ct = d.ct ++ d.ob ++ [x] ∧ x.tag = d.tag ∧ body x.body ∧ e.wait = .reply ∧ e.off = d.off
    ∧ e.st = d.st ∧ SameRegs d e [] ∧ SameVec d e ∧ SameLm d e ∧ SameSpecial d e ∧ SameRings d e ∧ SameIn d e ∧ SameSelf d e
    ∧ (e.count d.lid).seq = (d.count d.lid).seq + if bump then 1 else 0
/-- A control transfer completes: the PC takes an offset in the same code object; of the general registers only those listed change. -/
def Jumps (i : Instr) (s : State) (c : Core) (target : BitVec 32) (but : List Reg) : Prop :=
  ∃ e, Becomes i s e ∧ e.off = target ∧ SameRegs c e but ∧ SameSt c e stRetire ∧ Untouched c e

/-- Only the plot of the core that steps has changed: the device, the agenda and every other plot are as before. -/
def OnlyMine (s t : State) : Prop :=
  t.dev = s.dev ∧ t.cur = s.cur ∧ t.agenda = s.agenda ∧ t.ev = s.ev ∧ ∀ x, x ≠ s.cur.pid → t.plot? x = s.plot? x
/-- As `Makes`, where the plot of the core that steps changes too: `rest` says how, from the plot before to the plot after. -/
def MakesIn (i : Instr) (s : State) (d : Core) (len : Nat) (rest : Plot → Prop) : Prop :=
  ∃ t q e, Machine.exec i s = .next t ∧ OnlyMine s t ∧ At t q e ∧ rest q
    ∧ SameRegs d e [] ∧ SameSt d e stRetire ∧ Passed d e len ∧ Untouched d e
/-- As `MakesIn`, where the device changes too. -/
def MakesAnd (i : Instr) (s : State) (d : Core) (len : Nat) (dev : Device) (rest : Plot → Prop) : Prop :=
  ∃ t q e, Machine.exec i s = .next t ∧ OnlyMine (s.modDev fun _ => dev) t ∧ At t q e ∧ rest q
    ∧ SameRegs d e [] ∧ SameSt d e stRetire ∧ Passed d e len ∧ Untouched d e
/-- As `Enters`, where the plot of the core that steps changes too. -/
def EntersIn (i : Instr) (s : State) (d : Core) (len : Nat) (rel : Option Scope) (bump : Bool) (rest : Plot → Prop)
    (body : EBody → Prop) : Prop :=
  ∃ t q e x, Machine.exec i s = .next t ∧ OnlyMine s t ∧ At t q e ∧ rest q ∧ e.ct ++ e.ob = d.ct ++ d.ob ++ [x] ∧ x.rel = rel
    ∧ x.tag = d.tag ∧ body x.body ∧ SameRegs d e [] ∧ SameSt d e stRetire ∧ NextPc d e len ∧ e.wait = .none ∧ SameVec d e ∧ SameLm d e
    ∧ SameSpecial d e ∧ SameRings d e ∧ SameIn d e ∧ SameSelf d e ∧ e.job = d.job ∧ e.xnext = d.xnext ∧ e.jnext = d.jnext
    ∧ e.xout = d.xout ∧ e.jout = d.jout ∧ (e.count d.lid).seq = (d.count d.lid).seq + if bump then 1 else 0
/-- As `Asks`, where the plot of the core that steps changes too. -/
def AsksIn (i : Instr) (s : State) (d : Core) (rest : Plot → Prop) (body : EBody → Prop) : Prop :=
  ∃ t q e x, Machine.exec i s = .next t ∧ OnlyMine s t ∧ At t q e ∧ rest q ∧ e.ob = [] ∧ e.ct = d.ct ++ d.ob ++ [x]
    ∧ x.tag = d.tag ∧ body x.body ∧ e.wait = .reply ∧ e.off = d.off ∧ e.st = d.st ∧ SameRegs d e [] ∧ SameVec d e ∧ SameLm d e
    ∧ SameSpecial d e ∧ SameRings d e ∧ SameIn d e ∧ SameSelf d e ∧ (e.count d.lid).seq = (d.count d.lid).seq
/-- Nothing of a plot has changed outside its tiles and its cores but the energy of its launches (R47). -/
def SameOutside (p q : Plot) : Prop :=
  { q with tiles := p.tiles, cores := p.cores, launches := p.launches } = p
    ∧ q.launches.map (fun l => { l with pj := 0 }) = p.launches.map fun l => { l with pj := 0 }
/-- A tile without the translations that it holds, its cached lines, and what its service core sees of them. -/
def Machine.Tile.bare (t : Tile) : Tile :=
  { t with tlb := [], tc := [], svc := { t.svc with ctx := { t.svc.ctx with view := [] } } }
/-- Of the tiles of a plot only the translations held, the cached lines and the view of them have changed. -/
def SameTiles (p q : Plot) : Prop := q.tiles.map Tile.bare = p.tiles.map Tile.bare
/-- The other compute cores of a plot have changed at most in their view of the tile cache. -/
def SameOthers (p q : Plot) (me : Nat) : Prop :=
  ∀ i, i ≠ me → (q.cores[i]?).map (fun c => { c with view := [] }) = (p.cores[i]?).map fun c => { c with view := [] }
/-- What a global access may change of the plot besides the core that steps: translations, cached lines and views, energy. -/
def Looked (s : State) (p q : Plot) : Prop := SameOutside p q ∧ SameTiles p q ∧ SameOthers p q s.cur.idx
/-- The core that steps is a compute core, and stands at its own number. -/
def Mine (s : State) (c : Core) : Prop := s.cur.svc = false ∧ c.cid.toNat = s.cur.idx
/-- The newest entry of the error log is about another cause or address, so that a new error is no repeat of it (R396). -/
def NewError (d : Device) (cause : Nat) (addr : Word) : Prop :=
  ∀ x, d.errlog.head? = some x → fld (x.getD 0 0) 7 0 ≠ cause ∨ x.getD 1 0 ≠ addr
/-- No compute core of a plot has changed but those listed. -/
def SameCores (p q : Plot) (but : List Nat) : Prop := ∀ i, i ∉ but → q.cores[i]? = p.cores[i]?
/-- The count of messages sent for a launch that a core's buffered entries make when they commit (R49). -/
def sentBy (c : Core) (l : Lid) : Nat := ((c.ob.filter fun e => e.tag.lid == l).map Entry.sends).sum
/-- What stays of a core when its stint ends: all but ST's PP and RC, the buffers, the counts and LM, said apart. -/
def Ended (c d : Core) : Prop :=
  d.stint = none ∧ d.ob = [] ∧ SameRegs c d [] ∧ SameVec c d ∧ SameSpecial c d ∧ SameRings c d ∧ SameSelf c d
    ∧ d.runq = c.runq ∧ d.mq = c.mq ∧ d.back = c.back ∧ d.parked = c.parked ∧ d.frames = c.frames ∧ d.hold = c.hold
    ∧ d.report = c.report ∧ d.late = c.late ∧ d.returned = c.returned ∧ d.job = c.job ∧ d.xnext = c.xnext ∧ d.jnext = c.jnext
    ∧ d.xout = c.xout ∧ d.jout = c.jout

/-! Vectors. -/

/-- The vb operand of an instruction is ready (R76): its value x, and the core once it is read. -/
def VbIs (c : Core) (b : VSrc) (c' : Core) (x : BitVec 512) : Prop :=
  match b with
  | .reg r => c' = c ∧ x = c.v[r]
  | .ring q wc => c.q[q].v = true ∧ wc.val + 1 ≤ (c.q[q].tail - c.q[q].head).toNat
      ∧ c' = { c with q := c.q.set q { c.q[q] with head := c.q[q].head + 1 } }
      ∧ x = BitVec.ofNat 512 (leNat (ringHead c.lm c.q[q] 64))
/-- The first n lanes of w bits: those of a mask are as f says, the others as in an old register (R75). -/
def Lanes (x old : BitVec 512) (w n : Nat) (mk : Word) (f : Nat → Nat) : Prop :=
  ∀ j, j < n → lane x w j = if mk.getLsbD j then f j % 2 ^ w else lane old w j
/-- ST.FX gains the exceptions that `has` tells of, ST.VD is set where vd says so, and the rest of ST stays (R59, R108). -/
def Records (st st' : Word) (vd : Bool) (has : (Flags → Bool) → Prop) : Prop :=
  (∀ b, ¬(27 ≤ b ∧ b ≤ 32) → st'.getLsbD b = st.getLsbD b) ∧ st'.getLsbD 32 = (vd || st.getLsbD 32)
    ∧ (st'.getLsbD 27 = true ↔ st.getLsbD 27 = true ∨ has (·.nx)) ∧ (st'.getLsbD 28 = true ↔ st.getLsbD 28 = true ∨ has (·.uf))
    ∧ (st'.getLsbD 29 = true ↔ st.getLsbD 29 = true ∨ has (·.of)) ∧ (st'.getLsbD 30 = true ↔ st.getLsbD 30 = true ∨ has (·.dz))
    ∧ (st'.getLsbD 31 = true ↔ st.getLsbD 31 = true ∨ has (·.nv))
/-- No effect comes of the exceptions (R109): ST.EFX is clear, or none of those that raise one was recorded. -/
def NoEffect (c : Core) (has : (Flags → Bool) → Prop) : Prop :=
  c.stBits 37 37 = 0 ∨ ¬has (·.blk) ∧ ¬has (·.nv) ∧ ¬has (·.dz) ∧ ¬has (·.of)
/-- A computed lane recorded an exception. -/
def Has (n : Nat) (mk : Word) (res : Nat → Nat × Flags) (f : Flags → Bool) : Prop :=
  ∃ j, j < n ∧ mk.getLsbD j = true ∧ f (res j).2 = true
/-- A vector instruction writes the computed lanes of vd, records its exceptions, and passes; core c is that before it, with what the
instruction does besides. -/
def Delivers (i : Instr) (s : State) (c : Core) (len : Nat) (d : VReg) (t : Ty) (mk : Word) (res : Nat → Nat × Flags) : Prop :=
  NoEffect c (Has t.lanes mk res) →
    ∃ x st, Makes i s { c with v := c.v.set d x, st := st } len ∧ Records c.st st true (Has t.lanes mk res)
      ∧ Lanes x c.v[d] t.width t.lanes mk fun j => (res j).1
/-- A bit of the stream over LM (R90). -/
def lmBit (m : Memory) (b : Nat) : Bool := (m.get (b / 8)).getLsbD (b % 8)

/-! Events (R172): what `ev` names, and how the machine moves. -/

/-- The plot that an event names is p. -/
def On (s : State) (p : Plot) : Prop := s.plot? s.ev.p = some p
/-- An event turns the plot that it names into q, and changes nothing else: no other plot, not the device. -/
def Turns (i : Instr) (s : State) (q : Plot) : Prop :=
  ∃ t, Machine.exec i s = .next t ∧ t.dev = s.dev ∧ t.cur = s.cur ∧ t.agenda = s.agenda ∧ (∀ x, x ≠ s.ev.p → t.plot? x = s.plot? x)
    ∧ t.plot? s.ev.p = some q
/-- As `Turns`, where a condition says what the plot has become. -/
def TurnsTo (i : Instr) (s : State) (f : Plot → Prop) : Prop := ∃ q, Turns i s q ∧ f q
/-- An event turns the device into d, and changes no plot. -/
def Sets (i : Instr) (s : State) (d : Device) : Prop :=
  ∃ t, Machine.exec i s = .next t ∧ t.dev = d ∧ t.plots = s.plots ∧ t.cur = s.cur ∧ t.agenda = s.agenda
/-- An event that changes both: the device becomes d, and the plot that it names as a condition says. -/
def Moves (i : Instr) (s : State) (d : Device) (f : Plot → Prop) : Prop :=
  ∃ t q, Machine.exec i s = .next t ∧ t.dev = d ∧ t.cur = s.cur ∧ t.agenda = s.agenda ∧ (∀ x, x ≠ s.ev.p → t.plot? x = s.plot? x)
    ∧ t.plot? s.ev.p = some q ∧ f q
/-- An event that is not enabled leaves the machine as it is. -/
def Idles (i : Instr) (s : State) : Prop := Machine.exec i s = .next s
/-- Core i of a plot becomes as a condition says, and no other core changes. -/
def CoreIs (p q : Plot) (i : Nat) (f : Core → Prop) : Prop := SameCores p q [i] ∧ ∃ d, q.core? i = some d ∧ f d
/-- The core of a tag waits for the value of its operation. -/
def Waits (p : Plot) (t : Tag) : Prop := ∃ c, p.core? t.cid.toNat = some c ∧ c.awaits t = true ∧ c.wait = .reply
/-- The core of a tag has received the words that its operation returns. -/
def Got (q : Plot) (t : Tag) (ws : List Word) : Prop := ∃ c, q.core? t.cid.toNat = some c ∧ c.wait = .got ws
/-- The core of a tag takes the exception of its operation at its instruction. -/
def Fails (q : Plot) (t : Tag) (cause : Cause) (addr info : Word) : Prop := ∃ c, q.core? t.cid.toNat = some c ∧ c.wait = .failed cause addr info

end Sys2Proof
end

