-- ==== Sys2Proof/Certificates/Slice0/Obligations.lean ====
section
/-! DEFINITION. The statements for the provers. -/

open Sys2Proof Sys2Proof.Machine

/-- R119, R68: sums, differences, logic, shifts, rotation, minimum and maximum, `mov`, 32-bit and compact: the register written, and
nothing else. R123, R68: the immediate forms. -/
def Obligations.IntegerResults : Prop :=
  (∀ (s : State) (p : Plot) (c : Core), At s p c → ∀ d a b : Reg,
     let x := c.r a;
     let y := c.r b;
     let k := y.toNat % 64;
     Writes (.add d a b) s c 4 d (x + y) ∧ Writes (.sub d a b) s c 4 d (x - y) ∧ Writes (.and d a b) s c 4 d (x &&& y)
     ∧ Writes (.or d a b) s c 4 d (x ||| y) ∧ Writes (.xor d a b) s c 4 d (x ^^^ y) ∧ Writes (.andn d a b) s c 4 d (x &&& ~~~y)
     ∧ Writes (.shl d a b) s c 4 d (x <<< k) ∧ Writes (.shr d a b) s c 4 d (x >>> k) ∧ Writes (.sra d a b) s c 4 d (x.sshiftRight k)
     ∧ Writes (.rotl d a b) s c 4 d (if k = 0 then x else (x <<< k) ||| (x >>> (64 - k)))
     ∧ Writes (.minI64 d a b) s c 4 d (if x.slt y then x else y) ∧ Writes (.maxI64 d a b) s c 4 d (if x.slt y then y else x)
     ∧ Writes (.minN64 d a b) s c 4 d (if x.ult y then x else y) ∧ Writes (.maxN64 d a b) s c 4 d (if x.ult y then y else x)
     ∧ Writes (.mov d a) s c 4 d x ∧ Writes (.movCompact a d) s c 2 d x
     ∧ Writes (.addCompact a d) s c 2 d (c.r d + x) ∧ Writes (.subCompact a d) s c 2 d (c.r d - x)
     ∧ Writes (.andCompact a d) s c 2 d (c.r d &&& x) ∧ Writes (.orCompact a d) s c 2 d (c.r d ||| x)
     ∧ Writes (.xorCompact a d) s c 2 d (c.r d ^^^ x) ∧ Writes (.andnCompact a d) s c 2 d (c.r d &&& ~~~x))
  ∧
  ∀ (s : State) (p : Plot) (c : Core), At s p c → ∀ (d a : Reg) (i : BitVec 17) (j : BitVec 16) (h : Fin 4) (n : Fin 64) (z : BitVec 6),
    let x := c.r a
    Writes (.addi d a i) s c 4 d (x + i.signExtend 64) ∧ Writes (.li d i) s c 4 d (i.signExtend 64)
    ∧ (∃ w : Word, Writes (.lhi d j h) s c 4 d w ∧ ∀ k, k < 64 → w.getLsbD k
        = if 16 * h.val ≤ k ∧ k < 16 * h.val + 16 then j.getLsbD (k - 16 * h.val) else (c.r d).getLsbD k)
    ∧ Writes (.shli d a n) s c 4 d (x <<< n.val) ∧ Writes (.shri d a n) s c 4 d (x >>> n.val)
    ∧ Writes (.srai d a n) s c 4 d (x.sshiftRight n.val)
    ∧ Writes (.rotli d a n) s c 4 d (if n.val = 0 then x else (x <<< n.val) ||| (x >>> (64 - n.val)))
    ∧ Writes (.addiCompact z d) s c 2 d (c.r d + z.signExtend 64) ∧ Writes (.liCompact z d) s c 2 d (z.signExtend 64)
    ∧ Writes (.shliCompact n d) s c 2 d (c.r d <<< n.val) ∧ Writes (.shriCompact n d) s c 2 d (c.r d >>> n.val)
    ∧ Writes (.sraiCompact n d) s c 2 d ((c.r d).sshiftRight n.val)

/-- R121: the low half of the product, and the high halves, which with it make up the whole signed and unsigned product; quotients toward
zero and remainders by a divisor that is not zero, -2^63 by -1 among them. R122: leading zeros, trailing zeros, one bits, the extracted
and the inserted field, and the selection; RESERVED_FIELD for the selection with cond 15, and for the counts with rb not zero. -/
def Obligations.MultiplyDivideAndBits : Prop :=
  (∀ (s : State) (p : Plot) (c : Core), At s p c → ∀ d a b : Reg,
     let x := c.r a;
     let y := c.r b;
     Writes (.mul d a b) s c 4 d (x * y)
     ∧ (∃ h : Word, Writes (.mulhI64 d a b) s c 4 d h ∧ h.toInt * 2 ^ 64 + (x * y).toNat = x.toInt * y.toInt)
     ∧ (∃ h : Word, Writes (.mulhN64 d a b) s c 4 d h ∧ h.toNat * 2 ^ 64 + (x * y).toNat = x.toNat * y.toNat)
     ∧ (y ≠ 0 → Writes (.divI64 d a b) s c 4 d (x.sdiv y) ∧ Writes (.divN64 d a b) s c 4 d (x / y)
         ∧ Writes (.remI64 d a b) s c 4 d (x.srem y) ∧ Writes (.remN64 d a b) s c 4 d (x % y)
         ∧ (x.srem y = x - y * x.sdiv y)))
  ∧
  ∀ (s : State) (p : Plot) (c : Core), At s p c → ∀ (d a b : Reg) (cc : Cond),
    let x := c.r a
    let pos := (c.r b).toNat % 64
    let len := (c.r b).toNat / 256 % 64 + 1
    (∃ n : Nat, n ≤ 64 ∧ Writes (.clz d a) s c 4 d (BitVec.ofNat 64 n) ∧ (∀ i, 64 - n ≤ i → x.getLsbD i = false)
      ∧ (n < 64 → x.getLsbD (63 - n) = true))
    ∧ (∃ n : Nat, n ≤ 64 ∧ Writes (.ctz d a) s c 4 d (BitVec.ofNat 64 n) ∧ (∀ i, i < n → x.getLsbD i = false)
      ∧ (n < 64 → x.getLsbD n = true))
    ∧ Writes (.pop d a) s c 4 d (BitVec.ofNat 64 ((List.range 64).filter fun i => x.getLsbD i).length)
    ∧ (∃ w : Word, Writes (.bext d a b) s c 4 d w ∧ ∀ i, w.getLsbD i = (decide (i < len) && x.getLsbD (pos + i)))
    ∧ (∃ w : Word, Writes (.bexts d a b) s c 4 d w
      ∧ ∀ i, i < 64 → w.getLsbD i = x.getLsbD (pos + min i (len - 1)))
    ∧ (∃ w : Word, Writes (.bins d a b) s c 4 d w
      ∧ ∀ i, i < 64 → w.getLsbD i = if pos ≤ i ∧ i < pos + len then x.getLsbD (i - pos) else (c.r d).getLsbD i)
    ∧ Writes (.sel cc d a b) s c 4 d (if holds c.st cc then x else c.r b)
    ∧ ∀ b0 b1 b2 b3 : Byte, b0.toNat % 128 = 5 →
      (b3.toNat = 1 ∧ b2.toNat / 16 = 15 ∨ b3.toNat = 0 ∧ b2.toNat / 16 < 3 ∧ b1.toNat / 128 + 2 * (b2.toNat % 8) ≠ 0) →
      decode [b0, b1, b2, b3] = .bad 0x01 false

/-- R77 with R120: after the flags of a comparison of x and y, the conditions order x and y, unsigned and signed. R120, R123, R68: the
comparisons set Z, N, C and V by their operands, and change nothing else of ST but PP and RC. -/
def Obligations.ComparisonFlags : Prop :=
  (∀ st x y : Word,
     let f := cmpFlags st x y;
     (holds f .eq = true ↔ x = y) ∧ (holds f .ne = true ↔ x ≠ y)
     ∧ (holds f .hs = true ↔ y.toNat ≤ x.toNat) ∧ (holds f .lo = true ↔ x.toNat < y.toNat)
     ∧ (holds f .hi = true ↔ y.toNat < x.toNat) ∧ (holds f .ls = true ↔ x.toNat ≤ y.toNat)
     ∧ (holds f .ge = true ↔ y.toInt ≤ x.toInt) ∧ (holds f .lt = true ↔ x.toInt < y.toInt)
     ∧ (holds f .gt = true ↔ y.toInt < x.toInt) ∧ (holds f .le = true ↔ x.toInt ≤ y.toInt))
  ∧
  ∀ (s : State) (p : Plot) (c : Core), At s p c → ∀ (d a b : Reg) (i : BitVec 17) (z : BitVec 6),
    let sets (i : Instr) (len : Nat) (zf nf cf vf : Bool) : Prop :=
      ∃ e, Becomes i s e ∧ flagZ e.st = zf ∧ flagN e.st = nf ∧ flagC e.st = cf ∧ flagV e.st = vf
        ∧ SameSt c e (stRetire ||| 0xF00000) ∧ SameRegs c e [] ∧ Passed c e len ∧ Untouched c e
    let compares (i : Instr) (len : Nat) (x y : Word) : Prop :=
      sets i len (x == y) (x - y).msb (decide (y.toNat ≤ x.toNat)) (decide ((x - y).toInt ≠ x.toInt - y.toInt))
    let tests (i : Instr) (len : Nat) (x y : Word) : Prop := sets i len (x &&& y == 0) (x &&& y).msb false false
    compares (.cmp a b) 4 (c.r a) (c.r b) ∧ compares (.cmpi d i) 4 (c.r d) (i.signExtend 64)
    ∧ compares (.cmpCompact a d) 2 (c.r d) (c.r a) ∧ compares (.cmpiCompact z d) 2 (c.r d) (z.signExtend 64)
    ∧ tests (.tst a b) 4 (c.r a) (c.r b) ∧ tests (.tstCompact a d) 2 (c.r d) (c.r a)

/-- R77: when each condition holds, by the flags of ST; the codes of the conditions, and RESERVED_FIELD for 15. -/
def Obligations.ConditionCodes : Prop :=
  ∀ st : Word,
    let z := st.getLsbD 20 = true
    let n := st.getLsbD 21 = true
    let c := st.getLsbD 22 = true
    let v := st.getLsbD 23 = true
    (holds st .eq = true ↔ z) ∧ (holds st .ne = true ↔ ¬z) ∧ (holds st .hs = true ↔ c) ∧ (holds st .lo = true ↔ ¬c)
    ∧ (holds st .mi = true ↔ n) ∧ (holds st .pl = true ↔ ¬n) ∧ (holds st .vs = true ↔ v) ∧ (holds st .vc = true ↔ ¬v)
    ∧ (holds st .hi = true ↔ c ∧ ¬z) ∧ (holds st .ls = true ↔ ¬c ∨ z) ∧ (holds st .ge = true ↔ (n ↔ v))
    ∧ (holds st .lt = true ↔ ¬(n ↔ v)) ∧ (holds st .gt = true ↔ ¬z ∧ (n ↔ v)) ∧ (holds st .le = true ↔ z ∨ ¬(n ↔ v))
    ∧ holds st .al = true
    ∧ (List.range 16).map Cond.of = [some .eq, some .ne, some .hs, some .lo, some .mi, some .pl, some .vs, some .vc, some .hi, some .ls, some .ge,
        some .lt, some .gt, some .le, some .al, none]
    ∧ ∀ b0 b1 b2 b3 : Byte, b0.toNat % 128 = 17 → 15 = b0.toNat / 128 + 2 * (b1.toNat % 8) → decode [b0, b1, b2, b3] = .bad 0x01 false

/-- R117, R124, R125, R127, R68: branches, calls and jumps, 32-bit and compact, and `nop`. That g14 receives PC[31:0] alone is the
model's reading (log 16). -/
def Obligations.BranchResults : Prop :=
  ∀ (s : State) (p : Plot) (c : Core), At s p c →
    ∀ (cc : Cond) (d : Reg) (o21 : BitVec 21) (o25 : BitVec 25) (o17 : BitVec 17) (o10 : BitVec 10) (o6 : BitVec 6),
    let go (i : Instr) (len : Nat) (taken : Prop) (target : BitVec 32) : Prop :=
      (taken → Jumps i s c target []) ∧ (¬taken → Makes i s c len)
    go (.bc cc o21) 4 (holds c.st cc = true) (c.off + 2 * o21.signExtend 32)
    ∧ go (.cbz d o17) 4 (c.r d = 0) (c.off + 2 * o17.signExtend 32)
    ∧ go (.cbnz d o17) 4 (c.r d ≠ 0) (c.off + 2 * o17.signExtend 32)
    ∧ go (.cbzCompact o6 d) 2 (c.r d = 0) (c.off + 2 * o6.signExtend 32)
    ∧ go (.cbnzCompact o6 d) 2 (c.r d ≠ 0) (c.off + 2 * o6.signExtend 32)
    ∧ Jumps (.bCompact o10) s c (c.off + 2 * o10.signExtend 32) []
    ∧ Jumps (.jr d) s c ((c.r d).setWidth 32 &&& 0xFFFFFFFE) []
    ∧ Jumps (.jrCompact d) s c ((c.r d).setWidth 32 &&& 0xFFFFFFFE) []
    ∧ Jumps .retCompact s c ((c.r 14).setWidth 32 &&& 0xFFFFFFFE) []
    ∧ (∃ e, Becomes (.call o25) s e ∧ e.off = c.off + 2 * o25.signExtend 32 ∧ e.r 14 = (c.off + 4).setWidth 64
        ∧ SameRegs c e [14] ∧ SameSt c e stRetire ∧ Untouched c e)
    ∧ Makes .nop s c 4 ∧ Makes .nopCompact s c 2

/-- R32, R131, R26: `go` commits the buffered entries and behind them the runner message: its identity, its class, and the record of the
runner, with the PC at the next instruction; the stint ends. R128, R129, R34, R35, R26, R68: `halt`, its compact form and `halt.r` end
the stint: the buffered entries stand behind those already committed and count as sent, LM stays but in the banks powered down, and
`halt.r` leaves its hand-off. The overflow places of the runner message and a core that goes idle with overflow places held are as the
model reads the rules (log 17, 73). -/
def Obligations.StintEndsAndMigrates : Prop :=
  (∀ (s : State) (p : Plot) (c : Core), At s p c → c.job = none → c.rc ≤ 1 → c.noPlace 3 = false →
     ∀ d : Reg, (c.r d).toNat < p.cores.length → p.cores.length ≤ 2 ^ 14 →
       ∃ e x m r, Becomes (.go d) s e ∧ Ended c e ∧ e.ct = c.ct ++ c.ob ++ [x] ∧ e.slab = c.slab
         ∧ x.body = .msg (BitVec.ofNat 14 (c.r d).toNat) m
         ∧ m.src = c.cid ∧ m.seq = (c.count c.lid).seq ∧ m.lid = c.lid ∧ m.cls = c.sendCls ∧ m.body = .runner r
         ∧ r.g = c.g ∧ r.wid = c.wid ∧ r.htop = c.htop ∧ r.vec = none
         ∧ fld r.pc 31 0 = (c.off + 4).toNat ∧ fld r.pc 47 32 = c.obj.toNat
         ∧ (∀ i, stRetire.getLsbD i = false → r.st.getLsbD i = c.st.getLsbD i)
         ∧ (e.count c.lid).seq = (c.count c.lid).seq + 1
         ∧ (∀ l, (e.count l).sent = (c.count l).sent + sentBy c l + if l = c.lid then 1 else 0))
  ∧
  ∀ (s : State) (p : Plot) (c : Core), At s p c → c.job = none → c.lm.wf = true →
    let down : Prop := c.runq = [] ∧ c.back = none ∧ (∀ x ∈ c.slab, x.state = 0) ∧ c.placesUsed = 0
    let ends (i : Instr) (kept : BitVec 8) (ret : Option (CoreId × BitVec 8)) : Prop :=
      ∃ e, Becomes i s e ∧ Ended c e ∧ SameSt c e stRetire ∧ e.ct = c.ct ++ c.ob ∧ e.slab = c.slab ∧ e.retain = ret
        ∧ (∀ l, (e.count l).sent = (c.count l).sent + sentBy c l ∧ (e.count l).recv = (c.count l).recv
            ∧ (e.count l).seq = (c.count l).seq)
        ∧ (∀ a, (¬down ∨ kept.getLsbD (bankOf a) = true → e.lm.get a = c.lm.get a)
            ∧ (down ∧ kept.getLsbD (bankOf a) = false → e.lm.get a = 0))
    ends .halt (c.lmret ||| c.keptBanks) c.retain ∧ ends .haltCompact (c.lmret ||| c.keptBanks) c.retain
    ∧ ∀ d : Reg, (c.r d).toNat < p.cores.length → p.cores.length ≤ 2 ^ 14 →
        ends (.haltR d) c.lmret (some (BitVec.ofNat 14 (c.r d).toNat, c.lmret))

/-- R132 to R137, R242, R267, R68: `yield`, the sleeps and `mx.wait` park the runner in the lowest free slot and end the stint; a
condition that holds enqueues the resume at once, or, when the run queue is full, tries again later (R43), but not in a DET launch; one
that does not hold leaves the runner asleep. R133, R134, R136: a store that touches the word a runner sleeps on, and after which the
condition holds, ends the wait: the slot stays parked without a condition and its resume message stands in the run queue, unless its
launch is a DET launch (R137). When the condition of `sleep.ge.g` is looked at is the model's reading (log 28). -/
def Obligations.SleepAndWake : Prop :=
  (∀ (s : State) (p : Plot) (c : Core), At s p c → s.cur.svc = false → c.job = none → c.rc ≤ 1 →
     ((p.launch? c.lid).map (·.det)).getD false = c.det → ∀ i, c.freeSlot = some i →
     let room : Prop := (c.runq.length < 64 ∨ ((c.runq.drop 64).map Msg.units).sum + 1 ≤ 88) ∧ c.late = [];
     let parks (op : Instr) (len : Nat) (sleep : Option Sleep) (how : ResumeHow) (now : Prop) : Prop :=
       ∃ t e x r, Machine.exec op s = .next t ∧ OnlyMine s t ∧ t.me = some e ∧ e.slab[i]? = some x ∧ x.state = 1 ∧ x.kind = 3
         ∧ x.lid = c.lid ∧ x.rcd = some r ∧ x.how = how ∧ r.g = c.g ∧ r.wid = c.wid ∧ r.htop = c.htop ∧ r.vec = none
         ∧ fld r.pc 31 0 = (c.off + BitVec.ofNat 32 len).toNat ∧ fld r.pc 47 32 = c.obj.toNat ∧ fld r.st 32 32 = 0
         ∧ (∀ b, (stRetire ||| 0x100000000).getLsbD b = false → r.st.getLsbD b = c.st.getLsbD b)
         ∧ (∀ j, j ≠ i → e.slab[j]? = c.slab[j]?) ∧ e.stint = none ∧ e.ob = [] ∧ e.ct = c.ct ++ c.ob
         ∧ SameRegs c e [] ∧ SameVec c e ∧ SameLm c e ∧ SameSpecial c e ∧ SameRings c e
         ∧ (now ∧ c.det = false → x.sleep = none ∧ ∃ m, m.body = .resume i x.gen 3 how ∧ m.lid = c.lid ∧ m.src = c.cid
             ∧ m.cls = c.sendCls ∧ (∀ a b, how = .mxStatus a b → m.acq = some .system)
             ∧ (room → e.runq = c.runq ++ [m] ∧ e.late = c.late)
             ∧ (¬room → e.runq = c.runq ∧ e.late.map (·.msg) = c.late.map (·.msg) ++ [m]))
         ∧ (¬now ∨ c.det = true → x.sleep = sleep ∧ e.runq = c.runq ∧ e.late = c.late);
     parks .yield 4 none .parked True ∧ parks .yieldCompact 2 none .parked True
     ∧ (∀ (q : QReg) (n : BitVec 13), c.q[q].v = true → n.toNat ≤ 2 ^ c.q[q].cnt →
         parks (.sleepQ q n) 4 (some (.ring q n.toNat)) .parked (n.toNat ≤ (c.q[q].tail - c.q[q].head).toNat))
     ∧ (∀ d : Reg, let id := (c.r d).setWidth 16
         parks (.sleepJob d) 4 (some (.job ((c.r d).getLsbD 16) c.lid id)) .parked
           ((c.lid, id) ∉ if (c.r d).getLsbD 16 then c.jout else c.xout))
     ∧ (∀ d t : Reg, c.r d = BitVec.ofNat 64 (fld (c.r d) 17 0) → fld (c.r d) 17 0 % 4 = 0 → fld (c.r d) 17 0 + 4 ≤ 0x38000 →
         let off := fld (c.r d) 17 0;
         let w := (c.r t).setWidth 32;
         parks (.sleepGe d t) 4 (some (.lm off w)) .parked (0 ≤ (BitVec.ofNat 32 (c.lm.num off 4) - w).toInt))
     ∧ (∀ d t : Reg, fld (c.r d) 63 48 = 0 → (c.r d).toNat % 4 = 0 → ∀ l k p',
         translate p (tileOf c.cid) (c.r d).toNat 0 = (.ok (l, k), p') →
         let w := (c.r t).setWidth 32;
         parks (.sleepGeG d t) 4 (some (.glob l w)) .parked (0 ≤ (homeWord s p' l - w).toInt))
     ∧ (∀ a d : Reg, let id := (c.r a).setWidth 16
         parks (.mxWait a d) 4 (some (.job true c.lid id)) (.mxStatus d id) ((c.lid, id) ∉ c.jout)))
  ∧
  ∀ (s : State) (p : Plot) (c : Core), At s p c → c.lm.wf = true → ∀ (k : LdKind) (a d : Reg) (off : Nat),
    myDecode s p c (c.r a) k.size = .ok (c.cid, off) → ∀ (i : Nat) (x : Slot) (o : Nat) (t : BitVec 32),
    i < 32 → c.runq.length < 32 → c.late = [] → (∀ y z, x.how ≠ .mxStatus y z) → c.slab[i]? = some x → x.state = 1 → x.sleep = some (.lm o t) → off < o + 4 → o < off + k.size →
      ∃ e y, Becomes (.st k false 0 a d) s e ∧ e.slab[i]? = some y ∧ y.state = 1
        ∧ (x.det = false ∧ 0 ≤ (BitVec.ofNat 32 (e.lm.num o 4) - t).toInt →
            y.sleep = none ∧ ∃ m ∈ e.runq, m.body = .resume i x.gen 3 x.how ∧ m.lid = x.lid ∧ m.acq = some .core)
        ∧ (x.det = true ∨ (BitVec.ofNat 32 (e.lm.num o 4) - t).toInt < 0 → y = x)

/-- R62, R138, R48, R318: what `rsr` reads from each special register, and on a service core from its own (R360). What CID reads on a
service core, 0x3000 plus its plot tile, is the model's choice (log 23). -/
def Obligations.SpecialRegisterReads : Prop :=
  ∀ (s : State) (p : Plot) (c : Core), At s p c → ∀ d : Reg,
    let reads (n : BitVec 12) (w : Word) : Prop := Writes (.rsr d n) s c 4 d w
    reads 0x000 c.st ∧ reads 0x001 c.wid ∧ reads 0x002 (c.cid.setWidth 64) ∧ reads 0x003 (BitVec.ofNat 64 (s.cur.pid % 16))
    ∧ reads 0x004 (c.lid.setWidth 64) ∧ reads 0x005 (c.budget.setWidth 64) ∧ reads 0x006 c.htop
    ∧ reads 0x007 (c.ba0.setWidth 64) ∧ reads 0x008 (c.ba1.setWidth 64) ∧ reads 0x009 (c.lmret.setWidth 64)
    ∧ reads 0x00A (BitVec.ofNat 64 (planeTime s p s.myTile)) ∧ reads 0x00B c.cyc
    ∧ reads 0x00D (c.xfid.setWidth 64) ∧ reads 0x00E (c.jobid.setWidth 64)
    ∧ reads 0x010 c.cpsrc ∧ reads 0x011 c.cpdst ∧ reads 0x012 (c.cplen.setWidth 64) ∧ reads 0x013 c.cpstrs
    ∧ reads 0x014 c.cpstrd ∧ reads 0x015 (c.cpcnt.setWidth 64) ∧ reads 0x016 c.cphdl ∧ reads 0x033 (c.clg.setWidth 64)
    ∧ reads 0x040 ((c.count c.lid).seq.setWidth 64)
    ∧ (∀ x, p.launch? c.lid = some x → reads 0x00C (BitVec.ofNat 64 (x.swept / 1000000 % 2 ^ 40)))
    ∧ (∀ g, memberOf p c.cid c.clg.toNat = some g → reads 0x030 (BitVec.ofNat 64 g.w) ∧ reads 0x031 (BitVec.ofNat 64 g.d)
        ∧ reads 0x032 (BitVec.ofNat 64 g.skew))
    ∧ (memberOf p c.cid c.clg.toNat = none → reads 0x030 0 ∧ reads 0x031 0 ∧ reads 0x032 0)
    ∧ (s.cur.svc = true → ∀ t, p.tiles[s.cur.idx]? = some t → let v := t.svc
        reads 0x801 (v.svver.setWidth 64) ∧ reads 0x802 (BitVec.ofNat 64 (2 ^ 6 * v.rpbase.toNat + 2 ^ 20 * v.rplog.toNat))
        ∧ reads 0x803 (v.rphead.setWidth 64) ∧ reads 0x804 (v.rptail.setWidth 64) ∧ reads 0x805 (v.rplost.setWidth 64)
        ∧ reads 0x806 (v.svlim.setWidth 64) ∧ reads 0x807 0)

/-- R31, R61, R62, R129, R138, R8: what `wsr` changes: a read-write register alone, of ST only its read-write fields, BUDGET only
downwards, a live hand-off with LMRET; a read-only register stays. -/
def Obligations.SpecialRegisterWrites : Prop :=
  ∀ (s : State) (p : Plot) (c : Core), At s p c → ∀ a : Reg,
    let w := c.r a
    let writes (n : BitVec 12) (d : Core) : Prop := Makes (.wsr n a) s d 4
    (∃ x : Word, writes 0x000 { c with st := x }
      ∧ (∀ i, (20 ≤ i ∧ i ≤ 23) ∨ (27 ≤ i ∧ i ≤ 32) ∨ i = 34 ∨ i = 37 → x.getLsbD i = w.getLsbD i)
      ∧ fld x 26 24 = (if 1 ≤ fld w 26 24 ∧ fld w 26 24 ≤ 5 then fld w 26 24 else 1)
      ∧ fld x 36 35 = (if s.cur.svc = false ∧ fld w 36 35 = 0 then 1 else fld w 36 35)
      ∧ ∀ i, i < 20 ∨ i = 33 ∨ 38 ≤ i → x.getLsbD i = c.st.getLsbD i)
    ∧ writes 0x005 (if w.toNat < c.budget.toNat then { c with budget := w.setWidth 25 } else c)
    ∧ writes 0x006 { c with htop := (w.setWidth 32).setWidth 64 }
    ∧ writes 0x007 { c with ba0 := w.setWidth 21 } ∧ writes 0x008 { c with ba1 := w.setWidth 21 }
    ∧ writes 0x009 { c with lmret := w.setWidth 8, retain := none }
    ∧ writes 0x010 { c with cpsrc := w } ∧ writes 0x011 { c with cpdst := w } ∧ writes 0x012 { c with cplen := w.setWidth 24 }
    ∧ writes 0x013 { c with cpstrs := w } ∧ writes 0x014 { c with cpstrd := w } ∧ writes 0x015 { c with cpcnt := w.setWidth 24 }
    ∧ writes 0x016 { c with cphdl := w &&& 0x800000000003FFFF } ∧ writes 0x033 { c with clg := w.setWidth 8 }
    ∧ (∀ n : BitVec 12, n ∈ [0x001, 0x002, 0x003, 0x004, 0x00A, 0x00B, 0x00C, 0x00D, 0x00E, 0x017, 0x030, 0x031, 0x032, 0x040] →
        writes n c)
    ∧ (s.cur.svc = true → ∀ n : BitVec 12, n ∈ [0x800, 0x801, 0x803, 0x805] →
        MakesIn (.wsr n a) s c 4 fun q => SameOutside p q ∧ SameCores p q [] ∧ q.tiles.map (·.tlb) = p.tiles.map (·.tlb)
          ∧ ∀ j, j ≠ s.cur.idx → q.tiles[j]? = p.tiles[j]?)

/-- R139: the decoding of an LM address for an access of a size: own LM, another core's window, and the three faults in their order. -/
def Obligations.LmAddressDecode : Prop :=
  ∀ (p : Plot) (me : CoreId) (ea : Word) (size : Nat), p.cores.length ≤ 2 ^ 14 → size ∈ [1, 2, 4, 8, 16, 64] →
    let own : Prop := ea.toNat < 0x40000
    let window : Prop := ¬own ∧ fld ea 63 60 = 15 ∧ fld ea 59 32 = 0
    let c := fld ea 31 18
    let off := fld ea 17 0
    (own ∧ ea.toNat + size ≤ 0x38000 ∧ ea.toNat % size = 0 → lmDecode p me ea size = .ok (me, ea.toNat))
    ∧ (window ∧ c < p.cores.length ∧ off + size ≤ 0x38000 ∧ off % size = 0 → lmDecode p me ea size = .ok (BitVec.ofNat 14 c, off))
    ∧ (window ∧ p.cores.length ≤ c → lmDecode p me ea size = .error (0x41, ea, 0))
    ∧ (¬own ∧ ¬window → lmDecode p me ea size = .error (0x21, ea, BitVec.ofNat 64 size))
    ∧ (own ∧ 0x38000 < ea.toNat + size ∨ window ∧ c < p.cores.length ∧ 0x38000 < off + size →
        lmDecode p me ea size = .error (0x21, ea, BitVec.ofNat 64 size))
    ∧ (own ∧ ea.toNat + size ≤ 0x38000 ∧ ea.toNat % size ≠ 0 ∨ window ∧ c < p.cores.length ∧ off + size ≤ 0x38000 ∧ off % size ≠ 0 →
        lmDecode p me ea size = .error (0x20, ea, BitVec.ofNat 64 size))

/-- R140, R141, R142, R4, R68: a load from own LM, plain and with post-increment, 32-bit and compact: the value, zero- or sign-extended,
and the base; with the base as destination, the value stands. R140, R141, R142, R143, R68: a store to own LM, plain and with
post-increment, 32-bit and compact: its bytes, and no other byte; a whole word that is written loses its error mark. -/
def Obligations.LocalAccess : Prop :=
  (∀ (s : State) (p : Plot) (c : Core), At s p c → c.wait = .none → ∀ (pi : Bool) (a d : Reg),
     let loads (i : Instr) (len : Nat) (k : LdKind) (o : BitVec 13) : Prop :=
       let ea := if pi then c.r a else c.r a + o.signExtend 64;
       ∀ off, myDecode s p c ea k.size = .ok (c.cid, off) → lmBad c off k.size = false →
         let v := c.lm.num off k.size;
         let w : Word := if k.signed then (BitVec.ofNat (8 * k.size) v).signExtend 64 else BitVec.ofNat 64 v;
         Makes i s ((if pi then c.setG a (c.r a + o.signExtend 64) else c).setG d w) len;
     (∀ (k : LdKind) (o : BitVec 13), loads (.ld k pi o a d) 4 k o)
     ∧ loads (.ldN64Compact pi a d) 2 .n64 (if pi then 8 else 0) ∧ loads (.ldN32Compact pi a d) 2 .n32 (if pi then 4 else 0))
  ∧
  ∀ (s : State) (p : Plot) (c : Core), At s p c → c.lm.wf = true → ∀ (pi : Bool) (a d : Reg),
    let stores (i : Instr) (len : Nat) (k : LdKind) (o : BitVec 13) : Prop :=
      let ea := if pi then c.r a else c.r a + o.signExtend 64
      ∀ off, myDecode s p c ea k.size = .ok (c.cid, off) →
        ∃ m es, Wakes i s { (if pi then c.setG a (c.r a + o.signExtend 64) else c) with lm := m, lmErr := es } len
          ∧ (∀ x, m.get x = if off ≤ x ∧ x < off + k.size then (c.r d >>> (8 * (x - off))).setWidth 8 else c.lm.get x)
          ∧ (∀ w, w ∈ es ↔ w ∈ c.lmErr ∧ ¬(off ≤ w ∧ w + 8 ≤ off + k.size))
    (∀ (k : LdKind) (o : BitVec 13), stores (.st k pi o a d) 4 k o)
    ∧ stores (.stN64Compact pi a d) 2 .n64 (if pi then 8 else 0) ∧ stores (.stN32Compact pi a d) 2 .n32 (if pi then 4 else 0)

/-- R140, R26, R30, R33: a load from another core's LM with ST.MIG clear commits, asks the owner's message context, and waits; when the
value has come, it is written; with ST.MIG set it sends the runner there, with the PC at the load. R140, R33: a store to another core's
LM with ST.MIG clear enters the outbound buffer and stores nothing here; with ST.MIG set it sends the runner there, with the PC at the
store. The overflow places of a runner message are the model's reading (log 17). -/
def Obligations.RemoteAccess : Prop :=
  (∀ (s : State) (p : Plot) (c : Core), At s p c → ∀ (k : LdKind) (pi : Bool) (o : BitVec 13) (a d : Reg),
     let ea := if pi then c.r a else c.r a + o.signExtend 64;
     (c.wait = .none → c.mig = false → c.det = false → ∀ w off, myDecode s p c ea k.size = .ok (w, off) → w ≠ c.cid →
       Asks (.ld k pi o a d) s (if pi then c.setG a (c.r a + o.signExtend 64) else c) true fun b => ∃ r, b = .remote r ∧ r.dst = w
         ∧ r.off = off ∧ r.act = .load k.size ∧ r.returns = true)
     ∧ (c.wait = .none → c.mig = true → c.job = none → c.noPlace 3 = false → ∀ w off, myDecode s p c ea k.size = .ok (w, off) → w ≠ c.cid →
       ∃ e x m r, Becomes (.ld k pi o a d) s e ∧ Ended c e ∧ e.ct = c.ct ++ c.ob ++ [x] ∧ x.body = .msg w m ∧ m.body = .runner r ∧ r.g = c.g
         ∧ r.pc = c.pc ∧ r.st = c.st)
     ∧ (∀ w ws, c.wait = .got (w :: ws) →
         let v := w.toNat % 2 ^ (8 * k.size);
         ∃ e, Becomes (.ld k pi o a d) s e
           ∧ e.r d = (if k.signed then (BitVec.ofNat (8 * k.size) v).signExtend 64 else BitVec.ofNat 64 v)
           ∧ SameRegs c e [d] ∧ SameSt c e stRetire ∧ Passed c e 4 ∧ SameVec c e ∧ SameLm c e ∧ SameSpecial c e ∧ SameRings c e
           ∧ SameOut c e ∧ SameIn c e ∧ SameSelf c e ∧ (e.count c.lid).seq = (c.count c.lid).seq))
  ∧
  ∀ (s : State) (p : Plot) (c : Core), At s p c → ∀ (k : LdKind) (pi : Bool) (o : BitVec 13) (a d : Reg) (w : CoreId) (off : Nat),
    let ea := if pi then c.r a else c.r a + o.signExtend 64
    myDecode s p c ea k.size = .ok (w, off) → w ≠ c.cid →
    (c.mig = false → Enters (.st k pi o a d) s (if pi then c.setG a (c.r a + o.signExtend 64) else c) 4 none true fun b =>
      ∃ r, b = .remote r ∧ r.dst = w ∧ r.off = off ∧ r.act = .store (leBytes k.size (c.r d).toNat) ∧ r.returns = false)
    ∧ (c.mig = true → c.job = none → c.noPlace 3 = false → ∃ e x m r, Becomes (.st k pi o a d) s e ∧ Ended c e
        ∧ e.ct = c.ct ++ c.ob ++ [x] ∧ x.body = .msg w m ∧ m.body = .runner r ∧ r.g = c.g ∧ r.pc = c.pc ∧ r.st = c.st)

/-- R150, R152, R74, R75, R76, R108: the arithmetic functions of major 0x10, with a register or a ring operand and with or without a
modifier: the computed lanes, the exceptions, and nothing else. The signs of exact zeros, and UF and CLAMP at their edges, are the
model's (log 12, 40); so is a ring operand without a check for an uncorrectable error (log 74). -/
def Obligations.VectorArithmetic : Prop :=
  ∀ (s : State) (p : Plot) (c : Core), At s p c → ∀ (t : Ty) (k : KReg) (b : VSrc) (a d : VReg) (m : Option Modifier),
    t.laneCode < 16 →
    let md := modOr m
    let op (i : Instr) (c' : Core) (vb : BitVec 512) (f : RMode → Ext → Ext → Ext → Ext × Flags) : Prop :=
      Delivers i s c' (mlen m) d t (c.mask k) fun j =>
        let r := f (modeFor md (c.stBits 26 24) t) (srcA md (readTy t (lane c.v[a] t.width j)))
          (srcB md (readTy t (lane vb t.width j))) (readTy t (lane c.v[d] t.width j))
        deliverLane s c' md t false j r.1 r.2
    (∀ c' vb, VbIs c b c' vb →
      op (.vadd t k b a d m) c' vb (fun rm x y _ => addExt rm x y) ∧ op (.vsub t k b a d m) c' vb (fun rm x y _ => addExt rm x (negExt y))
      ∧ op (.vmul t k b a d m) c' vb (fun _ x y _ => mulExt x y) ∧ op (.vfma t k b a d m) c' vb (fun rm x y z => fmaExt rm x y z)
      ∧ op (.vdiv t k b a d m) c' vb (fun _ x y _ => divExt x y)
      ∧ op (.vmin t k b a d m) c' vb (fun _ x y _ => minExt x y) ∧ op (.vmax t k b a d m) c' vb (fun _ x y _ => maxExt x y))
    ∧ op (.vsqrt t k a d m) c 0 (fun _ x _ _ => sqrtExt x) ∧ op (.vrcp t k a d m) c 0 (fun _ x _ _ => divExt (extInt 1) x)
    ∧ op (.vrsq t k a d m) c 0 (fun _ x _ _ => rsqExt x)

/-- R154, R156: selection, logic, shifts, permutation and broadcast, as bits and without exceptions. R152 with R71, R95 and R107: integer
sums, differences and products without a modifier wrap at the lane's width, which records NX, and integer minimum and maximum order by
the type. That a wrapped result differs from the exact one in the sense of R107 is the model's reading (log 13). That a ring operand is
read without a check for an uncorrectable error is the model's reading (log 74). -/
def Obligations.VectorBitsAndLanes : Prop :=
  (∀ (s : State) (p : Plot) (c : Core), At s p c → ∀ (t : Ty) (k : KReg) (b : VSrc) (a d r : VReg) (g : Fin 8), t.laneCode < 16 →
     let w := t.width;
     let n := t.lanes;
     let va (j : Nat) : Nat := lane c.v[a] w j;
     let op (i : Instr) (c' : Core) (mk : Word) (f : Nat → Nat) : Prop :=
       ∃ x, Makes i s { c' with v := c'.v.set d x, st := c'.st ||| 0x100000000 } 4 ∧ Lanes x c'.v[d] w n mk f;
     (∀ c' vb, VbIs c b c' vb →
       let vy (j : Nat) : Nat := lane vb w j;
       op (.vsel t k b a d) c' 0xFFFFFFFFFFFFFFFF (fun j => if (c.mask k).getLsbD j then va j else vy j)
       ∧ op (.vand t k b a d) c' (c.mask k) (fun j => va j &&& vy j) ∧ op (.vor t k b a d) c' (c.mask k) (fun j => va j ||| vy j)
       ∧ op (.vxor t k b a d) c' (c.mask k) (fun j => va j ^^^ vy j)
       ∧ op (.vshl t k b a d) c' (c.mask k) (fun j => va j * 2 ^ (vy j % w))
       ∧ (t.isInt = true → op (.vshr t k b a d) c' (c.mask k) fun j =>
           if t.isSigned then ((BitVec.ofNat w (va j)).sshiftRight (vy j % w)).toNat else va j / 2 ^ (vy j % w)))
     ∧ op (.vperm t k r a d) c (c.mask k) (fun j => va (lane c.v[r] w j % n))
     ∧ op (.vbcast t k g d) c (c.mask k) (fun _ => (c.rn g).toNat))
  ∧
  ∀ (s : State) (p : Plot) (c : Core), At s p c → ∀ (t : Ty) (k : KReg) (b : VSrc) (a d : VReg) (c' : Core) (vb : BitVec 512),
    t.laneCode < 16 → t.isInt = true → VbIs c b c' vb →
    let w := t.width
    let va (j : Nat) : Nat := lane c.v[a] w j
    let vy (j : Nat) : Nat := lane vb w j
    let val (n : Nat) : Int := if t.isSigned then (BitVec.ofNat w n).toInt else n
    let op (i : Instr) (f : Nat → Nat) (exact : Nat → Int) : Prop :=
      ∃ x st, Makes i s { c' with v := c'.v.set d x, st := st } 4 ∧ Lanes x c'.v[d] w t.lanes (c.mask k) f
        ∧ Records c'.st st true fun g => g { nx := true } = true ∧ ∃ j, j < t.lanes ∧ (c.mask k).getLsbD j = true ∧ val (f j) ≠ exact j
    op (.vadd t k b a d none) (fun j => (va j + vy j) % 2 ^ w) (fun j => val (va j) + val (vy j))
    ∧ op (.vsub t k b a d none) (fun j => (va j + (2 ^ w - vy j)) % 2 ^ w) (fun j => val (va j) - val (vy j))
    ∧ op (.vmul t k b a d none) (fun j => va j * vy j % 2 ^ w) (fun j => val (va j) * val (vy j))
    ∧ op (.vmin t k b a d none) (fun j => if val (vy j) < val (va j) then vy j else va j) (fun j => min (val (va j)) (val (vy j)))
    ∧ op (.vmax t k b a d none) (fun j => if val (va j) < val (vy j) then vy j else va j) (fun j => max (val (va j)) (val (vy j)))

/-- R153, R104: the predicates of `vcmp` on two values: no order with a NaN, `ne` and `un` true with one, and which of them record NV;
without a NaN `un` is false, and the others are the order of the values, infinities among them, and on integers that of the type. R153,
R59: `vcmp` writes one bit for each computed lane and zero for every other bit; k0 discards them, and the exceptions are recorded. That a
ring operand is read without a check for an uncorrectable error is the model's reading (log 74). -/
def Obligations.VectorCompare : Prop :=
  ((∀ x y : Ext, (isNan x || isNan y) = true →
     (∀ p : CmpPred, (cmpLane p x y).1 = decide (p = .ne ∨ p = .un))
     ∧ (∀ p : CmpPred, (cmpLane p x y).2.nv = (decide (p = .lt ∨ p = .le ∨ p = .gt ∨ p = .ge) || isSig x || isSig y)))
   ∧ (∀ x y : Int,
     let r (p : CmpPred) : Bool := (cmpLane p (extInt x) (extInt y)).1;
     r .eq = decide (x = y) ∧ r .ne = decide (x ≠ y) ∧ r .lt = decide (x < y) ∧ r .le = decide (x ≤ y) ∧ r .gt = decide (y < x)
     ∧ r .ge = decide (y ≤ x) ∧ r .un = false ∧ ∀ p : CmpPred, (cmpLane p (extInt x) (extInt y)).2 = {})
   ∧ (∀ (m n : Bool) (a b c d : Nat), 0 < b → 0 < d →
     let r (p : CmpPred) : Bool := (cmpLane p (.fin m a b) (.fin n c d)).1;
     let x : Int := (if m then -(a : Int) else a) * d;
     let y : Int := (if n then -(c : Int) else c) * b;
     r .eq = decide (x = y) ∧ r .ne = decide (x ≠ y) ∧ r .lt = decide (x < y) ∧ r .le = decide (x ≤ y) ∧ r .gt = decide (y < x)
     ∧ r .ge = decide (y ≤ x) ∧ r .un = false)
   ∧ (∀ x y : Ext, isNan x = false → isNan y = false →
     let r (p : CmpPred) : Bool := (cmpLane p x y).1;
     r .un = false ∧ r .ne = !r .eq ∧ r .le = (r .lt || r .eq) ∧ r .gt = (cmpLane .lt y x).1 ∧ r .ge = (cmpLane .le y x).1
       ∧ ∀ p : CmpPred, (cmpLane p x y).2.nv = false)
   ∧ (∀ (m n : Bool) (a b : Nat),
     (cmpLane .eq (.inf m) (.inf n)).1 = decide (m = n) ∧ (cmpLane .lt (.inf m) (.inf n)).1 = (m && !n)
     ∧ (cmpLane .eq (.inf m) (.fin n a b)).1 = false ∧ (cmpLane .eq (.fin n a b) (.inf m)).1 = false
     ∧ (cmpLane .lt (.inf m) (.fin n a b)).1 = m ∧ (cmpLane .lt (.fin n a b) (.inf m)).1 = !m)
   ∧ ∀ (t : Ty) (n : Nat), t.isInt = true →
     readTy t n = extInt (if t.isSigned then (BitVec.ofNat t.width n).toInt else ((n % 2 ^ t.width : Nat) : Int)))
  ∧
  ∀ (s : State) (p : Plot) (c : Core), At s p c → ∀ (r : CmpPred) (t : Ty) (k : KReg) (b : VSrc) (a : VReg) (kd : KReg) (c' : Core)
    (vb : BitVec 512), t.laneCode < 16 → VbIs c b c' vb →
    let res (j : Nat) : Bool × Flags := cmpLane r (readTy t (lane c.v[a] t.width j)) (readTy t (lane vb t.width j))
    let has := Has t.lanes (c.mask k) fun j => (0, (res j).2)
    NoEffect c' has →
      ∃ (w st : Word), Makes (.vcmp r t k b a kd) s (if kd = 0 then { c' with st := st } else { c' with st := st, k := c'.k.set kd w }) 4
        ∧ Records c'.st st (kd != 0) has
        ∧ ∀ j, w.getLsbD j = (decide (j < t.lanes) && (c.mask k).getLsbD j && (res j).1)

/-- R155, R110, R107: `vred` completes, writes lane 0 and clears the others: the result is the value of the tree over the lanes that take
part, those that ABSA and NEGA have changed first, and a NaN result is the canonical one; the exceptions of the tree are recorded, and NV
for a signalling NaN that is the one lane. An integer sum is the sum of those lanes, wrapped; without lanes the result is that of the
table. That ABSA and NEGA wrap an integer lane before the tree is the model's choice (log 93). -/
def Obligations.VectorReduce : Prop :=
  ∀ (s : State) (p : Plot) (c : Core), At s p c → ∀ (o : RedOp) (t : Ty) (k : KReg) (a d : VReg), t.laneCode < 16 →
    let w := t.width
    let on (j : Nat) : Bool := (c.mask k).getLsbD j
    let into (i : Instr) (m : Option Modifier) (st : Word) (r : Nat) : Prop :=
      ∃ x, Makes i s { c with v := c.v.set d x, st := st } (mlen m) ∧ ∀ j, j < t.lanes → lane x w j = if j = 0 then r % 2 ^ w else 0
    (∀ m : Option Modifier,
      let md := modOr m
      let leaf (j : Nat) : Nat :=
        let x := lane c.v[a] w j
        if (md.absa || md.nega) && !isNan (readTy t x) then (leafCode t (srcA md (readTy t x))).1 else x
      let sum := tree (redStep o t (modeFor md (c.stBits 26 24) t)) 7 ((List.range t.lanes).map fun j => if on j then some (leaf j) else none)
      let r := match sum.1 with
        | none => redEmpty o t
        | some x => if isNan (readTy t x) then (nanCode t).getD x else x
      let has (f : Flags → Bool) : Prop := f sum.2 = true ∨ f { nv := true } = true
        ∧ ∃ j, j < t.lanes ∧ isSig (readTy t (leaf j)) = true ∧ ∀ i, i < t.lanes → (on i = true ↔ i = j)
      NoEffect c has → ∃ st, into (.vred o t k a d m) m st r ∧ Records c.st st true has)
    ∧ (t.isInt = true → ∃ st, into (.vred .sum t k a d none) none st
          ((List.range t.lanes).map fun j => if on j then lane c.v[a] w j else 0).sum
        ∧ st.getLsbD 32 = true ∧ ∀ b, b ≠ 27 → b ≠ 32 → st.getLsbD b = c.st.getLsbD b)
    ∧ ((∀ j, j < t.lanes → on j = false) →
        into (.vred o t k a d none) none (c.st ||| 0x100000000) (match o with
          | .sum => 0
          | .prod => if t.isInt then 1 else (match t with
              | .f64 => 0x3FF0000000000000
              | .f32 => 0x3F800000
              | .f16 => 0x3C00
              | _ => 0x3F80)
          | .min => if t.isSigned then 2 ^ (w - 1) - 1 else if t.isInt then 2 ^ w - 1 else (match t with
              | .f64 => 0x7FF0000000000000
              | .f32 => 0x7F800000
              | .f16 => 0x7C00
              | _ => 0x7F80)
          | .max => if t.isSigned then 2 ^ (w - 1) else if t.isInt then 0 else (match t with
              | .f64 => 0xFFF0000000000000
              | .f32 => 0xFF800000
              | .f16 => 0xFC00
              | _ => 0xFF80)))

/-- R157, R79: `vcvt` between lane types, or between the formats of a pending pair: element e, under mask bit e, from and to the lanes of
its part; the other lanes stay. -/
def Obligations.VectorConvert : Prop :=
  ∀ (s : State) (p : Plot) (c : Core), At s p c → ∀ (src t : Ty) (k : KReg) (part : Fin 8) (a d : VReg) (m : Option Modifier),
    let ty := if c.pp then c.pf else src
    let td := if c.pp then c.pd else t
    let ls := 512 / ty.width
    let ld := 512 / td.width
    let n := min ls ld
    let res (e : Nat) : Nat × Flags :=
      deliverLane s c (modOr m) td (!ty.isInt) e (srcA (modOr m) (readTy ty (lane c.v[a] ty.width (if ld ≤ ls then part.val * n + e else e)))) {}
    part.val * n < max ls ld → td.width ∈ [8, 16, 32, 64] → ty.width ∈ [8, 16, 32, 64] → NoEffect c (Has n (c.mask k) res) →
      ∃ x st, Makes (.vcvt src t k part a d m) s { c with v := c.v.set d x, st := st } (mlen m)
        ∧ Records c.st st true (Has n (c.mask k) res)
        ∧ ∀ j, j < ld → lane x td.width j =
            let e := if ld ≤ ls then j else j - part.val * n
            if (ld ≤ ls ∨ part.val * n ≤ j) ∧ e < n ∧ (c.mask k).getLsbD e = true then (res e).1 % 2 ^ td.width
            else lane c.v[d] td.width j

/-- R158, R76, R111: `vsum.q` takes the slot at HEAD into the accumulator, lane by lane, and goes on; a control word at HEAD stays there,
and the accumulator is written. That slot words are read without a check for an uncorrectable error is the model's reading (log 74). -/
def Obligations.RingSum : Prop :=
  ∀ (s : State) (p : Plot) (c : Core), At s p c → ∀ (t : Ty) (k : KReg) (q : QReg) (d : VReg) (m : Option Modifier),
    t.laneCode < 16 → c.q[q].v = true → 1 ≤ (c.q[q].tail - c.q[q].head).toNat →
    let slot := BitVec.ofNat 512 (leNat (ringHead c.lm c.q[q] 64))
    ∀ acc, (c.wait = .accum acc ∨ c.wait = .none ∧ acc = c.v[d]) →
      (slot.getLsbD 63 = true → Makes (.vsumQ t k q d m) s { c with v := c.v.set d acc, st := c.st ||| 0x100000000 } (mlen m))
      ∧ (slot.getLsbD 63 = false → c.stBits 37 37 = 0 → ∃ e x, Becomes (.vsumQ t k q d m) s e ∧ e.wait = .accum x
          ∧ e.q = c.q.set q { c.q[q] with head := c.q[q].head + 1 }
          ∧ Lanes x acc t.width t.lanes (c.mask k) (fun j =>
              let r := addExt (modeFor (modOr m) (c.stBits 26 24) t) (readTy t (lane acc t.width j)) (readTy t (lane slot t.width j))
              (deliverLane s c (modOr m) t false j r.1 r.2).1)
          ∧ e.off = c.off ∧ SameRegs c e [] ∧ SameVec c e ∧ SameLm c e ∧ SameSpecial c e ∧ SameOut c e ∧ SameIn c e ∧ SameSelf c e
          ∧ ∀ b, ¬(27 ≤ b ∧ b ≤ 31) → e.st.getLsbD b = c.st.getLsbD b)

/-- R159 to R162, R79, R75: vector loads of own LM, packed, strided, indexed and bit-granular, with and without a format pair: the
computed lanes take their elements, converted where a pair is pending; BA1, or the BA of `vlbit`, moves on. The fault of a split scale
byte outside LM is the model's choice (log 93). -/
def Obligations.VectorLoads : Prop :=
  ∀ (s : State) (p : Plot) (c : Core), At s p c → ∀ (t : Ty) (k : KReg) (n a : Fin 8) (b d : VReg) (x : Bool) (m : Option Modifier),
    t.laneCode < 16 →
    let mf := memFmt c true t
    let mk := c.mask k
    let good (at_ : Nat → Nat) : Prop := ∀ j, j < t.lanes → mk.getLsbD j = true →
      lmBad c (at_ j / 8) ((at_ j % 8 + mf.width + 7) / 8) = false
    let elem (sc : Nat) (at_ : Nat → Nat) (j : Nat) : Nat × Flags := loadLane s c (modOr m) mf t j sc (lmBits c.lm (at_ j) mf.width)
    (∀ off, vecOwn s p c (c.rn a) (spanOf c mf t) (memAlign mf) = .ok off → scaleBad c mf true = none →
      let at_ (j : Nat) : Nat := 8 * off + mf.width * j
      good at_ → Delivers (.vld t k a d m) s (c.stepBa1 mf) (mlen m) d t mk (elem (scaleByte c mf (c.lm.num (off + 16) 1)) at_))
    ∧ (∀ offs : Nat → Nat, mf ≠ .blk4 → good (fun j => 8 * offs j) →
      ((∀ j, j < t.lanes → mk.getLsbD j = true →
          vecOwn s p c (c.rn a + BitVec.ofNat 64 j * c.rn n) (mf.width / 8) (mf.width / 8) = .ok (offs j)) →
        Delivers (.vlds t k n a d m) s c (mlen m) d t mk (elem 0 fun j => 8 * offs j))
      ∧ ((∀ j, j < t.lanes → mk.getLsbD j = true →
          vecOwn s p c (indexEa (c.rn a) c.v[b] t mf j) (mf.width / 8) (mf.width / 8) = .ok (offs j)) →
        Delivers (.vgat t k b a d m) s c (mlen m) d t mk (elem 0 fun j => 8 * offs j)))
    ∧ (c.ba x + t.lanes * mf.width ≤ 0x1C0000 → mf ≠ .blk4 →
      let at_ (j : Nat) : Nat := c.ba x + mf.width * j
      good at_ → Delivers (.vlbit t k x d m) s (c.setBa x (c.ba x + t.lanes * mf.width)) (mlen m) d t mk (elem 0 at_))

/-- R159 to R161, R79, R99, R75: vector stores to own LM, packed, strided and indexed, with and without a format pair: each computed
element's bits, of overlapping ones those of the higher lane, the scale of a block; no other bit of LM. The fault of a split scale byte
outside LM is the model's choice (log 93). -/
def Obligations.VectorStores : Prop :=
  ∀ (s : State) (p : Plot) (c : Core), At s p c → c.lm.wf = true → ∀ (t : Ty) (k : KReg) (y : Fin 4) (n a : Fin 8) (b d : VReg)
    (m : Option Modifier), t.laneCode < 16 →
    let mf := memFmt c false t
    let mk := c.mask k
    let stores (i : Instr) (bt : Nat) (at_ : Nat → Nat) (scale : Option Nat) : Prop :=
      let out := storeLanes s c (modOr m) mf t bt k c.v[d]
      let res (j : Nat) : Nat × Flags := ((out.2[j]?).join).getD (0, {})
      NoEffect c (Has t.lanes mk res) →
        ∃ lm es st, Wakes i s ({ c with lm := lm, lmErr := es, st := st }.stepBa1 mf) (mlen m) ∧ lm.wf = true
          ∧ Records c.st st false (Has t.lanes mk res)
          ∧ (∀ w, w ∈ es → w ∈ c.lmErr)
          ∧ (∀ pos, (∀ j, j < t.lanes → mk.getLsbD j = true → pos < at_ j ∨ at_ j + mf.width ≤ pos) →
              (∀ x, scale = some x → pos < x ∨ x + 8 ≤ pos) → lmBit lm pos = lmBit c.lm pos)
          ∧ (∀ j x, j < t.lanes → mk.getLsbD j = true → x < mf.width →
              (∀ j', j < j' → j' < t.lanes → mk.getLsbD j' = true → at_ j + x < at_ j' ∨ at_ j' + mf.width ≤ at_ j + x) →
              (∀ z, scale = some z → at_ j + x < z ∨ z + 8 ≤ at_ j + x) → lmBit lm (at_ j + x) = (res j).1.testBit x)
          ∧ (∀ z x, scale = some z → x < 8 → (∃ j, j < t.lanes ∧ mk.getLsbD j = true) → lmBit lm (z + x) = out.1.testBit x)
    (∀ off, vecOwn s p c (c.rn a) (spanOf c mf t) (memAlign mf) = .ok off → scaleBad c mf false = none →
      stores (.vst t k y a d m) y (fun j => 8 * off + mf.width * j)
        (if c.pp = true ∧ mf = .blk4 then some (if splitScale c mf then c.ba true else 8 * (off + 16)) else none))
    ∧ ∀ offs : Nat → Nat, mf ≠ .blk4 →
      ((∀ j, j < t.lanes → mk.getLsbD j = true →
          vecOwn s p c (c.rn a + BitVec.ofNat 64 j * c.rn n) (mf.width / 8) (mf.width / 8) = .ok (offs j)) →
        stores (.vsts t k n a d m) 0 (fun j => 8 * offs j) none)
      ∧ ((∀ j, j < t.lanes → mk.getLsbD j = true →
          vecOwn s p c (indexEa (c.rn a) c.v[b] t mf j) (mf.width / 8) (mf.width / 8) = .ok (offs j)) →
        stores (.vsct t k b a d m) 0 (fun j => 8 * offs j) none)

/-- R172, R25: what a load reads at a byte of device memory: with nothing of the byte buffered or queued on the way, and no older copy in
view, the byte at its home; of the core's own buffered stores the youngest. R200, R165, R166, R172, R178, R180: a global load, plain and
with acquire, whose bytes can be read: the value, zero- or sign-extended, and what an acquire wider than the tile forgets; the plot keeps
its memory. That the load takes its value in the step that executes it is the model's choice (log 94). -/
def Obligations.GlobalLoads : Prop :=
  ((∀ (s : State) (p p' : Plot) (c : Core) (va a : Nat) (nc : Bool) (b : Byte) (t : Tile), p.tiles[tileOf c.cid]? = some t → t.toq = [] →
     p.wq = [] → c.ob = [] → c.ct = [] → lineOf a ∉ c.view → loadByte s p c va (.dev a) nc = some (b, p') → b = p.mem.get a ∧ p'.mem = p.mem)
   ∧ ∀ (c : Core) (va : Nat) (b v : Byte) (l : Loc) (x : Entry) (es : List Entry), c.ct ++ c.ob = es ++ [x] →
       x.body = .store [⟨va, l, v, 0xFF⟩] → overlay c va b = v)
  ∧
  ∀ (s : State) (p : Plot) (c : Core), At s p c → Mine s c → (c.wait = .none ∨ ∃ got held, c.wait = .fetch got none held) →
    ∀ (k : LdKind) (sc : Scope) (o : BitVec 9) (a d : Reg) (xs : List (Nat × Loc × Bool)) (p1 p2 : Plot) (bs : List Byte),
    let ea := c.r a + o.signExtend 64
    fld ea 63 48 = 0 → ea.toNat % k.size = 0 →
    translateAll p (tileOf c.cid) 0 ((List.range k.size).map fun i => ea.toNat + i) = (.ok xs, p1) →
    loadFault p1 c xs = none → hostAway s p1 c xs = false → loadBytes s c p1 xs = some (bs, p2) →
    let w : Word := if k.signed then (BitVec.ofNat (8 * k.size) (leNat bs)).signExtend 64 else BitVec.ofNat 64 (leNat bs)
    (∃ view, MakesIn (.gld k o a d) s { c.setG d w with view := view } 4 (Looked s p))
    ∧ (∃ view, MakesIn (.gldAcq k sc o a d) s { c.setG d w with view := view } 4 (Looked s p)
        ∧ (sc = .die ∨ sc = .package ∨ sc = .system → view = []))

/-- R200, R165, R178: a global store, plain and with release: its bytes with their places enter the outbound buffer, and memory stays. -/
def Obligations.GlobalStores : Prop :=
  ∀ (s : State) (p : Plot) (c : Core), At s p c → Mine s c →
    ∀ (k : LdKind) (sc : Scope) (o : BitVec 9) (a d : Reg) (xs : List (Nat × Loc × Bool)) (p1 : Plot),
    let ea := c.r a + o.signExtend 64
    fld ea 63 48 = 0 → ea.toNat % k.size = 0 →
    translateAll p (tileOf c.cid) 1 ((List.range k.size).map fun i => ea.toNat + i) = (.ok xs, p1) →
    let body (b : EBody) : Prop := ∃ ws, b = .store ws ∧ ws.map (·.va) = (List.range k.size).map (fun i => ea.toNat + i)
      ∧ ws.map (·.loc) = xs.map (·.2.1) ∧ (∀ w ∈ ws, w.mask = 0xFF)
      ∧ ∀ i, i < k.size → (ws[i]?).map (·.val) = some ((c.r d >>> (8 * i)).setWidth 8)
    EntersIn (.gst k o a d) s c 4 none false (Looked s p) body
    ∧ EntersIn (.gstRel k sc o a d) s c 4 (some sc) false (Looked s p) body

/-- R201, R79, R160: vector loads from global memory, contiguous and indexed, with and without a format pair. That all bytes are read in
one step, and the fault of a split scale byte outside LM, are the model's choices (log 94, 93). -/
def Obligations.GlobalVectorLoads : Prop :=
  ∀ (s : State) (p : Plot) (c : Core), At s p c → Mine s c → (c.wait = .none ∨ ∃ got held, c.wait = .fetch got none held) →
    ∀ (t : Ty) (k : KReg) (o : BitVec 9) (a : Reg) (b d : VReg) (xs : List (Nat × Loc × Bool)) (p1 p2 : Plot) (bs : List Byte),
    t.laneCode < 16 →
    let mf := memFmt c true t
    let w := mf.width
    let mk := c.mask k
    let loads (i : Instr) (sc : Nat) (code : Nat → Nat) : Prop :=
      let res (j : Nat) : Nat × Flags := loadLane s c Modifier.none mf t j sc (code j)
      scaleBad c mf true = none → loadFault p1 c xs = none → hostAway s p1 c xs = false → loadBytes s c p1 xs = some (bs, p2) →
        NoEffect c (Has t.lanes mk res) →
        ∃ x st view, MakesIn i s { c.stepBa1 mf with v := c.v.set d x, st := st, view := view } 4 (Looked s p)
          ∧ Records c.st st true (Has t.lanes mk res) ∧ Lanes x c.v[d] t.width t.lanes mk fun j => (res j).1
    let m := (xs.map (·.1)).zip bs
    (let ea := c.r a + o.signExtend 64;
      runCheck p c mf ea (computed c k t) 0 = (.ok xs, p1) →
        loads (.gvld t k o a d) (scaleByte c mf (byteAt m (ea.toNat + 16))) fun j =>
          numAt m (ea.toNat + w * j / 8) ((w * j % 8 + w + 7) / 8) / 2 ^ (w * j % 8) % 2 ^ w)
    ∧ (let ea := indexEa (c.r a) c.v[b] t mf;
      mf ≠ .blk4 → scatCheck p c (w / 8) ea 0 (computed c k t) = (.ok xs, p1) →
        loads (.gvgat t k b a d) 0 fun j => numAt m (ea j).toNat (w / 8))

/-- R201, R79, R99: vector stores to global memory, contiguous and indexed: one store enters the outbound buffer with the bits of the
computed elements, of overlapping ones those of the higher lane; memory stays. The fault of a split scale byte outside LM is the model's
choice (log 93). -/
def Obligations.GlobalVectorStores : Prop :=
  ∀ (s : State) (p : Plot) (c : Core), At s p c → Mine s c → c.noPlace 1 = false →
    ∀ (t : Ty) (k : KReg) (o : BitVec 9) (a : Reg) (b d : VReg) (xs : List (Nat × Loc × Bool)) (p1 : Plot),
    t.laneCode < 16 →
    let mf := memFmt c false t
    let w := mf.width
    let mk := c.mask k
    let block : Prop := c.pp = true ∧ mf = .blk4 ∧ ∃ j, j < t.lanes ∧ mk.getLsbD j = true
    let split : Prop := splitScale c mf = true
    let stores (i : Instr) (bt : Nat) (at_ : Nat → Nat) (scaleAt : Nat) : Prop :=
      let out := storeLanes s c Modifier.none mf t bt k c.v[d]
      let res (j : Nat) : Nat × Flags := ((out.2[j]?).join).getD (0, {})
      let scaled (pos : Nat) : Prop := block ∧ ¬split ∧ scaleAt ≤ pos ∧ pos < scaleAt + 8
      scaleBad c mf false = none → (split → NoSleeper c ∧ c.lm.wf = true) → NoEffect c (Has t.lanes mk res) →
        ∃ st lm es, EntersIn i s ({ c with st := st, lm := lm, lmErr := es }.stepBa1 mf) 4 none false (Looked s p) (fun body =>
            ∃ ws, body = .store ws ∧ (∀ z ∈ ws, ∃ y ∈ xs, y.1 = z.va ∧ y.2.1 = z.loc)
            ∧ (∀ pos, (∃ z ∈ ws, z.va = pos / 8 ∧ z.mask.getLsbD (pos % 8) = true)
                ↔ (∃ j, j < t.lanes ∧ mk.getLsbD j = true ∧ at_ j ≤ pos ∧ pos < at_ j + w) ∨ scaled pos)
            ∧ (∀ j x, j < t.lanes → mk.getLsbD j = true → x < w → ¬scaled (at_ j + x) →
                (∀ j', j < j' → j' < t.lanes → mk.getLsbD j' = true → at_ j + x < at_ j' ∨ at_ j' + w ≤ at_ j + x) →
                ∀ z ∈ ws, z.va = (at_ j + x) / 8 → z.val.getLsbD ((at_ j + x) % 8) = (res j).1.testBit x)
            ∧ ∀ pos, scaled pos → ∀ z ∈ ws, z.va = pos / 8 → z.val.getLsbD (pos % 8) = out.1.testBit (pos - scaleAt))
          ∧ Records c.st st false (Has t.lanes mk res)
          ∧ (¬(block ∧ split) → lm = c.lm ∧ es = c.lmErr)
          ∧ (block ∧ split → (∀ x, x ∈ es → x ∈ c.lmErr) ∧ ∀ pos, lmBit lm pos =
              if c.ba true ≤ pos ∧ pos < c.ba true + 8 then out.1.testBit (pos - c.ba true) else lmBit c.lm pos)
    (let off := if c.pp ∧ mf = .blk4 then (o.setWidth 7).signExtend 64 else o.signExtend 64;
      let ea := c.r a + off;
      runCheck p c mf ea (computed c k t) 1 = (.ok xs, p1) →
        stores (.gvst t k o a d) (if c.pp ∧ mf = .blk4 then o.toNat / 128 else 0) (fun j => 8 * ea.toNat + w * j) (8 * (ea.toNat + 16)))
    ∧ (let ea := indexEa (c.r a) c.v[b] t mf;
      mf ≠ .blk4 → scatCheck p c (w / 8) ea 1 (computed c k t) = (.ok xs, p1) →
        stores (.gvsct t k b a d) 0 (fun j => 8 * (ea j).toNat) 0)

/-- R203, R205: the new value of a word under each operation, `fadd` with one rounding to nearest even, the infinities and the canonical
NaN, and what the register receives. R203, R204, R143: atomics and reductions on a word of own LM: the word takes the new value, the
register the old one, and no other byte changes. -/
def Obligations.AtomicsOnLm : Prop :=
  (∀ (wide : Bool) (old b cmp : Nat),
     let w := if wide then 64 else 32;
     let int (n : Nat) : Int := (BitVec.ofNat w n).toInt;
     old < 2 ^ w → b < 2 ^ w → cmp < 2 ^ w →
     (∀ u, aopNew .add wide u old b cmp = (old + b) % 2 ^ w ∧ aopNew .and wide u old b cmp = old &&& b
       ∧ aopNew .or wide u old b cmp = old ||| b ∧ aopNew .xor wide u old b cmp = old ^^^ b ∧ aopNew .swap wide u old b cmp = b
       ∧ aopNew .cas wide u old b cmp = (if old = cmp then b else old))
     ∧ aopNew .min wide true old b cmp = min old b ∧ aopNew .max wide true old b cmp = max old b
     ∧ aopNew .min wide false old b cmp = (if int b < int old then b else old)
     ∧ aopNew .max wide false old b cmp = (if int old < int b then b else old)
     ∧ (∀ o, aopOut o wide true old = BitVec.ofNat 64 old) ∧ aopOut .min wide false old = (BitVec.ofNat w old).signExtend 64
     ∧ aopOut .max wide false old = (BitVec.ofNat w old).signExtend 64 ∧ aopOut .add wide false old = BitVec.ofNat 64 old
     ∧ (let t : Ty := if wide then .f64 else .f32;
       let inf := if wide then 0x7FF0000000000000 else 0x7F800000;
       let nan := if wide then 0x7FF8000000000000 else 0x7FC00000;
       let mag (n : Nat) : Nat := n % 2 ^ (w - 1);
       ∀ u, let sum := aopNew .fadd wide u old b cmp
         (inf < mag old ∨ inf < mag b → sum = nan) ∧ (mag old = inf → mag b = inf → old ≠ b → sum = nan)
         ∧ (mag old = inf → mag b < inf ∨ b = old → sum = old) ∧ (mag b = inf → mag old < inf ∨ old = b → sum = b)
         ∧ (mag old < inf → mag b < inf → sum = (roundFp t .rne false 0 (addExt .rne (readTy t old) (readTy t b)).1).1)))
  ∧
  ∀ (s : State) (p : Plot) (c : Core), At s p c → c.lm.wf = true → c.wait = .none →
    ∀ (o : AOp) (w u : Bool) (b a d : Reg) (off : Nat),
    let n := if w then 8 else 4
    myDecode s p c (c.r a) n = .ok (c.cid, off) → lmBad c off n = false →
    let old := c.lm.num off n
    let arg (x : Word) : Nat := x.toNat % 2 ^ (8 * n)
    let acts (i : Instr) (c' : Core) (new : Nat) : Prop :=
      ∃ m es, Wakes i s { c' with lm := m, lmErr := es } 4
        ∧ (∀ x, m.get x = if off ≤ x ∧ x < off + n then BitVec.ofNat 8 (new / 2 ^ (8 * (x - off))) else c.lm.get x)
        ∧ (∀ x, x ∈ es ↔ x ∈ c.lmErr ∧ ¬(off ≤ x ∧ x + 8 ≤ off + n))
    acts (.atom o w u true b a d) (c.setG d (aopOut o w u old)) (aopNew o w u old (arg (c.r b)) (arg (c.r d)))
    ∧ acts (.cas w true b a d) (c.setG d (BitVec.ofNat 64 old)) (if old = arg (c.r d) then arg (c.r b) else old)
    ∧ acts (.red o w u true b a) c (aopNew o w u old (arg (c.r b)) 0)

/-- R203, R26, R189: atomics on global memory and on another core's LM: a returning one commits, asks, and waits; its value is written
when it has come; a reduction enters the outbound buffer. -/
def Obligations.AtomicsAway : Prop :=
  ∀ (s : State) (p : Plot) (c : Core), At s p c → Mine s c → ∀ (o : AOp) (w u : Bool) (b a d : Reg),
    let n := if w then 8 else 4
    (∀ va loc nc rest p1, globalCheck p c (c.r a) n 2 0x35 = (.ok ((va, loc, nc) :: rest), p1) →
      let may (o : AOp) (returns : Bool) : Prop := (∃ x, loc = .host x) → o = .add ∨ returns = true ∧ (o = .swap ∨ o = .cas)
      (c.wait = .none → may o true → AsksIn (.atom o w u false b a d) s c (Looked s p) fun x => x = .atom o w u va loc (c.r b) (c.r d) true)
      ∧ (c.wait = .none → AsksIn (.cas w false b a d) s c (Looked s p) fun x => x = .atom .cas w false va loc (c.r b) (c.r d) true)
      ∧ (may o false → EntersIn (.red o w u false b a) s c 4 none false (Looked s p) fun x => x = .atom o w u va loc (c.r b) 0 false))
    ∧ (∀ t off, myDecode s p c (c.r a) n = .ok (t, off) → t ≠ c.cid → c.mig = false →
      let op (x : EBody) (o : AOp) (u : Bool) (cmp : Word) (returns : Bool) : Prop :=
        ∃ r, x = .remote r ∧ r.dst = t ∧ r.off = off ∧ r.act = .atom o w u (c.r b) cmp ∧ r.returns = returns
      (c.wait = .none → c.det = false → Asks (.atom o w u true b a d) s c true fun x => op x o u (c.r d) true)
      ∧ (c.wait = .none → c.det = false → Asks (.cas w true b a d) s c true fun x => op x .cas false (c.r d) true)
      ∧ Enters (.red o w u true b a) s c 4 none true fun x => op x o u 0 false)
    ∧ (∀ v ws l, c.wait = .got (v :: ws) →
      let got (i : Instr) (x : Word) : Prop := ∃ e, Becomes i s e ∧ e.r d = x ∧ SameRegs c e [d] ∧ SameSt c e stRetire ∧ Passed c e 4
        ∧ SameVec c e ∧ SameLm c e ∧ SameSpecial c e ∧ SameRings c e ∧ SameOut c e ∧ SameIn c e ∧ SameSelf c e
        ∧ (e.count c.lid).seq = (c.count c.lid).seq
      got (.atom o w u l b a d) (aopOut o w u (v.toNat % 2 ^ (8 * n)))
      ∧ got (.cas w l b a d) (aopOut .cas w false (v.toNat % 2 ^ (8 * n))))

/-- R206, R178 to R183: the fences: at core scope nothing, a release enters a fence and commits, an acquire commits and forgets the view
of the tile cache when it is wider than the tile, a full fence and `afence` complete once every earlier access is performed. -/
def Obligations.Fences : Prop :=
  ∀ (s : State) (p : Plot) (c : Core), At s p c → ∀ (k : FenceKind) (sc : Scope),
    let wide : Prop := sc = .die ∨ sc = .package ∨ sc = .system
    let passes (i : Instr) (ct : List Entry) (view : List Nat) : Prop :=
      ∃ e, Becomes i s e ∧ e.ob = [] ∧ e.ct = ct ∧ e.view = view ∧ e.wait = .none ∧ SameRegs c e [] ∧ SameSt c e stRetire ∧ NextPc c e 4
        ∧ SameVec c e ∧ SameLm c e ∧ SameSpecial c e ∧ SameRings c e ∧ SameIn c e ∧ e.cid = c.cid ∧ e.obj = c.obj ∧ e.job = c.job
        ∧ (∀ l, (e.count l).sent = (c.count l).sent + sentBy c l ∧ (e.count l).seq = (c.count l).seq)
    let done (sc : Scope) : Prop := notPerformed p { c.commit with wait := .begun } c.ord sc = false
    Makes (.fence k .core) s c 4
    ∧ (sc ≠ .core →
      (∃ e x, Becomes (.fence .rel sc) s e ∧ e.ob = [] ∧ e.ct = c.ct ++ c.ob ++ [x] ∧ x.body = .fence sc ∧ x.tag = c.tag ∧ e.view = c.view
        ∧ e.wait = .none ∧ SameRegs c e [] ∧ SameSt c e stRetire ∧ NextPc c e 4 ∧ SameVec c e ∧ SameLm c e ∧ SameSpecial c e
        ∧ SameRings c e ∧ SameIn c e)
      ∧ (wide → passes (.fence .acq sc) (c.ct ++ c.ob) []) ∧ (¬wide → passes (.fence .acq sc) (c.ct ++ c.ob) c.view)
      ∧ (c.wait = .none → done sc → (wide → passes (.fence .full sc) (c.ct ++ c.ob) []) ∧ (¬wide → passes (.fence .full sc) (c.ct ++ c.ob) c.view)))
    ∧ (c.wait = .none → done .system → passes .afence (c.ct ++ c.ob) [])

/-- R145, R90, R143: `lbit` and `sbit` on the bit stream of own LM at BA0 or BA1, with and without advance, signed or not: a field in one
8-byte word in one step, one in two words in two steps; and `ba.set`. -/
def Obligations.BitAccess : Prop :=
  ∀ (s : State) (p : Plot) (c : Core), At s p c → c.lm.wf = true → ∀ (x pi sg : Bool) (w : Fin 64) (a b d : Reg),
    let at_ := if x then c.ba1.toNat else c.ba0.toNat
    let n := w.val + 1
    let moved (c : Core) : Core :=
      if pi then (if x then { c with ba1 := BitVec.ofNat 21 (at_ + n) } else { c with ba0 := BitVec.ofNat 21 (at_ + n) }) else c
    let h := 64 - at_ % 64
    let good (a k : Nat) : Prop := lmBad c (a / 8) ((a % 8 + k + 7) / 8) = false
    let halfway (i : Instr) (y : Word) (f : Core → Prop) : Prop :=
      ∃ e, Becomes i s e ∧ f e ∧ e.wait = .half y ∧ e.off = c.off ∧ e.st = c.st ∧ SameRegs c e [] ∧ SameVec c e ∧ SameSpecial c e
        ∧ SameRings c e ∧ SameOut c e ∧ SameSelf c e
    (c.wait = .none → at_ + n ≤ 0x1C0000 → n ≤ h →
      (good at_ n → ∃ v : Word, Makes (.lbit x pi sg w d) s (moved (c.setG d v)) 4
        ∧ ∀ i, i < 64 → v.getLsbD i = if i < n then lmBit c.lm (at_ + i) else sg && lmBit c.lm (at_ + n - 1))
      ∧ (∃ m, Wakes (.sbit x pi w d) s (moved { c with lm := m }) 4
        ∧ ∀ i, lmBit m i = if at_ ≤ i ∧ i < at_ + n then (c.r d).getLsbD (i - at_) else lmBit c.lm i))
    ∧ (c.wait = .none → at_ + n ≤ 0x1C0000 → h < n →
      (good at_ h → ∃ y : Word, halfway (.lbit x pi sg w d) y (SameLm c ·) ∧ y.toNat < 2 ^ h ∧ ∀ i, i < h → y.getLsbD i = lmBit c.lm (at_ + i))
      ∧ halfway (.sbit x pi w d) 0 fun e => ∀ i, lmBit e.lm i = if at_ ≤ i ∧ i < at_ + h then (c.r d).getLsbD (i - at_) else lmBit c.lm i)
    ∧ (∀ y : Word, c.wait = .half y → y.toNat < 2 ^ h → at_ + n ≤ 0x1C0000 → h < n →
      (good (at_ + h) (n - h) → ∃ v : Word, Makes (.lbit x pi sg w d) s (moved (c.setG d v)) 4
        ∧ ∀ i, i < 64 → v.getLsbD i = if i < h then y.getLsbD i else if i < n then lmBit c.lm (at_ + i) else sg && lmBit c.lm (at_ + n - 1))
      ∧ (∃ m, Wakes (.sbit x pi w d) s (moved { c with lm := m }) 4
        ∧ ∀ i, lmBit m i = if at_ + h ≤ i ∧ i < at_ + n then (c.r d).getLsbD (i - at_) else lmBit c.lm i))
    ∧ (let v : BitVec 21 := (8 * c.r a + c.r b).setWidth 21
      Makes (.baSet x a b) s (if x then { c with ba1 := v } else { c with ba0 := v }) 4)

/-- R146, R148: `q.set` reads a descriptor from its image in own LM, when the image is legal; with V clear it unsets the descriptor. R146
to R149, R76: the ring instructions on a descriptor that is set, within its bounds; a bad count moves nothing and raises RING_OVERRUN, an
unset descriptor RING_UNSET. That `q.ld` reads its slot without a check for an uncorrectable error is the model's reading (log 74). -/
def Obligations.Rings : Prop :=
  (∀ (s : State) (p : Plot) (c : Core), At s p c → ∀ (q : QReg) (a : Reg),
     let o := (c.r a).toNat;
     let w0 := c.lm.word o;
     let w1 := c.lm.word (o + 8);
     let f := (w1 >>> 32).toNat + 2 ^ 32 - w1.toNat % 2 ^ 32;
     let r : Ring := { base := fld w0 17 0, sz := fld w0 20 18, cnt := fld w0 24 21, v := true, head := w1.setWidth 32,
                       tail := (w1 >>> 32).setWidth 32 };
     o + 16 ≤ 0x38000 → o % 8 = 0 → lmBad c o 16 = false →
     (w0.getLsbD 63 = false → Makes (.qSet q a) s { c with q := c.q.set q {} } 4)
     ∧ (w0.getLsbD 63 = true → fld w0 20 18 ≤ 5 → fld w0 24 21 ≤ 12 → fld w0 62 25 = 0 → fld w0 17 0 % (8 * 2 ^ fld w0 20 18) = 0 →
         f % 2 ^ 32 ≤ 2 ^ fld w0 24 21 → fld w0 17 0 + 2 ^ fld w0 24 21 * (8 * 2 ^ fld w0 20 18) ≤ 0x38000 →
         Makes (.qSet q a) s { c with q := c.q.set q r } 4))
  ∧
  ∀ (s : State) (p : Plot) (c : Core), At s p c → c.lm.wf = true → ∀ (q : QReg) (a d : Reg) (v : VReg) (n : Fin 4),
    let r := c.q[q]
    let f := (r.tail - r.head).toNat
    let t : BitVec 32 := (c.r a).setWidth 32
    let put (r : Ring) : Core := { c with q := c.q.set q r }
    let pushes (i : Instr) (b : Nat → Byte) : Prop :=
      let at_ := r.base + r.tail.toNat % 2 ^ r.cnt * (8 * 2 ^ r.sz)
      ∃ m es, Wakes i s { (put { r with tail := r.tail + 1 }) with lm := m, lmErr := es } 4
        ∧ (∀ x, m.get x = if at_ ≤ x ∧ x < at_ + 8 * 2 ^ r.sz then b (x - at_) else c.lm.get x)
        ∧ ∀ w, w ∈ es ↔ w ∈ c.lmErr ∧ ¬(at_ ≤ w ∧ w + 8 ≤ at_ + 8 * 2 ^ r.sz)
    (r.v = true →
      (f + t.toNat ≤ 2 ^ r.cnt → Wakes (.qAdvP q a) s (put { r with tail := r.tail + t }) 4)
      ∧ (t.toNat ≤ f → Makes (.qAdvC q a) s (put { r with head := r.head + t }) 4)
      ∧ (n.val + 1 ≤ f → Makes (.qLd d q n) s ((put { r with head := r.head + 1 }).setG d
          (c.lm.word (r.base + r.head.toNat % 2 ^ r.cnt * (8 * 2 ^ r.sz)))) 4)
      ∧ (f ≠ 2 ^ r.cnt → pushes (.qSt q a) fun x => if x < 8 then (c.r a >>> (8 * x)).setWidth 8 else 0)
      ∧ (f ≠ 2 ^ r.cnt → pushes (.qStV q v) fun x => if x < 64 then (c.v[v] >>> (8 * x)).setWidth 8 else 0)
      ∧ Makes (.qGet d q) s (c.setG d (r.head.setWidth 64 + r.tail.setWidth 64 * 0x100000000)) 4
      ∧ (f < n.val + 1 → Machine.exec (.qLd d q n) s = .next (s.modMe fun _ => c.stall))
      ∧ (2 ^ r.cnt < f + t.toNat → Machine.exec (.qAdvP q a) s = trap s 0x56 0 (BitVec.ofNat 64 q.val))
      ∧ (f < t.toNat → Machine.exec (.qAdvC q a) s = trap s 0x56 0 (BitVec.ofNat 64 q.val))
      ∧ (f = 2 ^ r.cnt → Machine.exec (.qSt q a) s = trap s 0x56 0 (BitVec.ofNat 64 q.val)
        ∧ Machine.exec (.qStV q v) s = trap s 0x56 0 (BitVec.ofNat 64 q.val)))
    ∧ (r.v = false → ∀ i, i = .qAdvP q a ∨ i = .qAdvC q a ∨ i = .qLd d q n ∨ i = .qSt q a ∨ i = .qStV q v ∨ i = .qGet d q →
        Machine.exec i s = trap s 0x55 0 (BitVec.ofNat 64 q.val))

/-- R207, R208, R196, R30, R40, R181: `send` enters a task message for its target: the handler of its label, WID, four arguments, its
identity, class and acquire. The overflow places that an entry takes are the model's reading (log 17). -/
def Obligations.SendTask : Prop :=
  ∀ (s : State) (p : Plot) (c : Core), At s p c → c.noPlace 1 = false → p.cores.length ≤ 2 ^ 14 →
    ∀ (h : BitVec 10) (a d : Reg) (off : BitVec 32), (c.r d).toNat < p.cores.length → p.handler c.obj.toNat h.toNat = some off →
      Enters (.send h a d) s c 4 none true fun b => ∃ m, b = .msg (BitVec.ofNat 14 (c.r d).toNat) m
        ∧ m.src = c.cid ∧ m.seq = (c.count c.lid).seq ∧ m.lid = c.lid ∧ m.cls = c.sendCls ∧ m.tag = c.tag
        ∧ m.acq = some (p.pairScope c.cid (BitVec.ofNat 14 (c.r d).toNat))
        ∧ m.body = .task (pcOf c.obj.toNat off.toNat) c.wid (c.rn a.val) (c.rn (a.val + 1)) (c.rn (a.val + 2)) (c.rn (a.val + 3))

/-- R229, R230: `sendh` to an enabled queue whose pages lead to the host enters an entry of eight words, with the core, the launch, WID,
four arguments and the identity. R209, R211, R212, R213: `send.q`, the multicasts and `spawn` enter what they send; a multicast of an
empty set only advances MSGSEQ, which is deduced from R194 (log 22). That an entry needs one free place is the model's reading (log 17).
-/
def Obligations.OtherSends : Prop :=
  (∀ (s : State) (p : Plot) (c : Core), At s p c → Mine s c → c.noPlace 1 = false → ∀ (n : Fin 16) (a : Reg) (q : HQ) (p1 p2 : Plot) (x y : Nat),
     p.hqs[n.val]? = some q → q.ok = true → hostPage p (tileOf c.cid) (fld q.base 47 0) = (some x, p1) →
     (fld q.pia 47 0 = 0 ∧ p2 = p1 ∨ fld q.pia 47 0 ≠ 0 ∧ hostPage p1 (tileOf c.cid) (fld q.pia 47 0) = (some y, p2)) →
       EntersIn (.sendh n a) s c 4 none true (Looked s p) fun b => ∃ ws, b = .hostq n.val ws ∧ ws.length = 8
         ∧ ws[0]? = some (BitVec.ofNat 64 (c.cid.toNat + 2 ^ 16 * c.lid.toNat)) ∧ ws[1]? = some c.wid
         ∧ (∀ i, i < 4 → ws[i + 2]? = some (c.rn (a.val + i))) ∧ ws[6]? = some c.tag.ident)
  ∧
  ∀ (s : State) (p : Plot) (c : Core), At s p c → c.noPlace 1 = false → p.cores.length ≤ 2 ^ 14 →
    ∀ (q : QReg) (n : Fin 4) (h : BitVec 10) (a b d : Reg),
    let w := c.r d
    let ms := ((List.range 48).filter fun i => w.getLsbD (16 + i)).map fun i => fld w 13 0 + i
    let bumps (i : Instr) : Prop := ∃ e, Becomes i s e ∧ SameRegs c e [] ∧ SameSt c e stRetire ∧ Passed c e 4 ∧ SameVec c e
      ∧ SameLm c e ∧ SameSpecial c e ∧ SameRings c e ∧ SameOut c e ∧ SameIn c e ∧ SameSelf c e
      ∧ (e.count c.lid).seq = (c.count c.lid).seq + 1
    (w.toNat < p.cores.length → Enters (.sendQ q n a d) s c 4 none true fun x => ∃ r, x = .remote r
        ∧ r.dst = BitVec.ofNat 14 w.toNat ∧ r.act = .ring q ((List.range (n.val + 1)).map fun i => c.rn (a.val + i)) ∧ r.returns = false)
    ∧ (ms = [] → bumps (.sendMc h a d) ∧ bumps (.sendMcSt b a d))
    ∧ (ms ≠ [] → fld w 15 14 < 2 → (∀ m ∈ ms, m < p.cores.length) →
      (∀ off, p.handler c.obj.toNat h.toNat = some off → Enters (.sendMc h a d) s c 4 none true fun x => ∃ m,
          x = .mcast (ms.map (BitVec.ofNat 14)) m (decide (fld w 15 14 = 1)) ∧ m.src = c.cid ∧ m.lid = c.lid ∧ m.cls = c.sendCls
          ∧ m.body = .task (pcOf c.obj.toNat off.toNat) c.wid (c.rn a.val) (c.rn (a.val + 1)) (c.rn (a.val + 2)) (c.rn (a.val + 3)))
      ∧ ((c.r b).toNat + 8 ≤ 0x38000 → (c.r b).toNat % 8 = 0 → Enters (.sendMcSt b a d) s c 4 none true fun x => ∃ r,
          x = .mcastSt (ms.map (BitVec.ofNat 14)) r (decide (fld w 15 14 = 1)) ∧ r.off = (c.r b).toNat
          ∧ r.act = .store (leBytes 8 (c.r a).toNat) ∧ r.returns = false))
    ∧ ((c.r a).toNat + 64 ≤ 0x38000 → (c.r a).toNat % 8 = 0 → lmBad c (c.r a).toNat 64 = false →
        Enters (.spawn a) s c 4 none true fun x => x = .spawn ((List.range 8).map fun i => c.lm.word ((c.r a).toNat + 8 * i)))

/-- R224, R225, R228: `coll.red` and `coll.res` of a good handle enter their contribution and their request. The overflow places that the
entries take are the model's reading (log 17). -/
def Obligations.Collectives : Prop :=
  ∀ (s : State) (p : Plot) (c : Core), At s p c → ∀ (h : BitVec 10) (b a d : Reg),
    (collOk s p (c.r a) true = true → Enters (.collRed b a) s c 4 none true fun x => x = .collRed (c.r a) ((c.r b).setWidth 32))
    ∧ (∀ off, collOk s p (c.r d) false = true → c.noPlace 1 = false → (c.r b).toNat + 16 ≤ 0x38000 → (c.r b).toNat % 8 = 0 →
        p.handler c.obj.toNat h.toNat = some off →
        Enters (.collRes h b a d) s c 4 none true fun x => x = .collRes (c.r d) (c.r b).toNat (pcOf c.obj.toNat off.toNat) (c.rn a.val)
          (c.rn (a.val + 1)) (c.rn (a.val + 2)) (c.rn (a.val + 3)) c.htop c.sendCls)

/-- R214 to R217, R139: `cpgo` enters a copy of the shadow registers, and gives its id; the id is outstanding from then on. R222, R242:
`cpwait` and `mx.poll` commit; of a completed copy or job they give its status word and acquire at system scope; an id that is not held
gives all ones, with the acquire, and -2; of an outstanding job `mx.poll` gives all ones, outside a DET launch. The overflow places that
a copy takes are the model's reading (log 17). -/
def Obligations.CopyAndJobStatus : Prop :=
  (∀ (s : State) (p : Plot) (c : Core), At s p c → ∀ (d : Reg) (x y : End),
     endOf p c.cid c.cpsrc = some x → endOf p c.cid c.cpdst = some y → x.near c.cid = true → y.near c.cid = true →
     rowsFit x c.cplen.toNat c.cpcnt.toNat c.cpstrs = true → rowsFit y c.cplen.toNat c.cpcnt.toNat c.cpstrd = true →
     c.noPlace 2 = false → c.xout.length < 16 →
     (c.cphdl.getLsbD 63 = true → (blockOf p c (fld c.cphdl 17 0)).isSome = true) →
       ∃ id : BitVec 16, (∀ z ∈ c.xout, z.2 ≠ id) ∧ ((∀ z ∈ c.xout, z.2 ≠ c.xnext) → id = c.xnext)
         ∧ Enters (.cpgo d) s ({ c with xnext := id + 1, xout := (c.lid, id) :: c.xout }.setG d (id.setWidth 64)) 4 none true fun b =>
           ∃ j, b = .copy j ∧ j.id = id ∧ j.src = c.cpsrc ∧ j.dst = c.cpdst ∧ j.len = c.cplen.toNat ∧ j.cnt = c.cpcnt.toNat
             ∧ j.strs = c.cpstrs ∧ j.strd = c.cpstrd ∧ j.cls = c.sendCls ∧ j.tag = c.tag
             ∧ j.blk = if c.cphdl.getLsbD 63 then some (blockAt c.lm (fld c.cphdl 17 0)) else none)
  ∧
  ∀ (s : State) (p : Plot) (c : Core), At s p c → c.wait = .none → ∀ (a d : Reg),
    let id : BitVec 16 := (c.r a).setWidth 16
    let gives (i : Instr) (v : Word) (view : List Nat) : Prop :=
      ∃ e, Becomes i s e ∧ e.r d = v ∧ e.ob = [] ∧ e.ct = c.ct ++ c.ob ∧ e.view = view ∧ e.wait = .none ∧ SameRegs c e [d]
        ∧ SameSt c e stRetire ∧ NextPc c e 4 ∧ SameVec c e ∧ SameLm c e ∧ SameSpecial c e ∧ SameRings c e ∧ SameIn c e ∧ e.job = c.job
        ∧ e.xout = c.xout ∧ e.jout = c.jout
        ∧ (∀ l, (e.count l).sent = (c.count l).sent + sentBy c l ∧ (e.count l).seq = (c.count l).seq)
    ((c.lid, id) ∉ c.xout →
      (∀ w, (c.count c.lid).xdone.find? (fun x => x.1 == id) = some (id, w) → gives (.cpwait a d) w [])
      ∧ ((∀ x ∈ (c.count c.lid).xdone, x.1 ≠ id) → gives (.cpwait a d) 0xFFFFFFFFFFFFFFFF []))
    ∧ ((c.lid, id) ∉ c.jout →
      (∀ w, (c.count c.lid).jdone.find? (fun x => x.1 == id) = some (id, w) → gives (.mxPoll a d) w [])
      ∧ ((∀ x ∈ (c.count c.lid).jdone, x.1 ≠ id) → gives (.mxPoll a d) 0xFFFFFFFFFFFFFFFE c.view))
    ∧ ((c.lid, id) ∈ c.jout → c.det = false → gives (.mxPoll a d) 0xFFFFFFFFFFFFFFFF c.view)

/-- R234, R236, R242: `mx.go` closes the open job and enters it, with its mask, its operations in order, its block and its identity; the
register and JOBID receive its id, which is outstanding from then on. R233, R242, R244 to R257: `mx.job` opens a job, `mx.rel` enters its
command, and each operation of the open job whose operands keep their limits is appended to it, with its registers, BA1 and the pending
pair read at issue; `mx.tst` sets the flags. MX_OPERAND for a load or compute operation without an f64 pair in an f64 job, and the places
of `mx.go`, are the model's readings (log 32, 17). -/
def Obligations.MatrixJobs : Prop :=
  (∀ (s : State) (p : Plot) (c : Core), At s p c → ∀ (a d : Reg) (mask : BitVec 4) (ops : List MxOp), c.job = some (mask, ops) →
     let w := c.r a;
     fld w 62 18 = 0 → (w.getLsbD 63 = true → (blockOf p c (fld w 17 0)).isSome = true) → c.jout.length < 4 →
     ((∃ o ∈ ops, o.namesF64 = true) → ∀ o ∈ ops, o.mustName = true → o.namesF64 = true) →
       ∃ id : BitVec 16, (∀ z ∈ c.jout, z.2 ≠ id) ∧ ((∀ z ∈ c.jout, z.2 ≠ c.jnext) → id = c.jnext)
         ∧ Enters (.mxGo a d) s ({ c with job := none, jobid := id, jnext := id + 1, jout := (c.lid, id) :: c.jout }.setG d (id.setWidth 64))
             4 none true fun b => ∃ j, b = .mx j ∧ j.tag = c.tag ∧ j.id = id ∧ j.mask = mask ∧ j.ops = ops ∧ j.cls = c.sendCls
               ∧ (j.f64 = true ↔ ∃ o ∈ ops, o.namesF64 = true)
               ∧ j.blk = if w.getLsbD 63 then some (blockAt c.lm (fld w 17 0)) else none)
  ∧
  ∀ (s : State) (p : Plot) (c : Core), At s p c →
    (∀ m, c.job = none → Makes (.mxJob m) s { c with job := some (m, []) } 4 ∧ Enters (.mxRel m) s c 4 none false fun b => b = .mxRel m)
    ∧ (∀ (a b : Reg) (off : Nat), myDecode s p c (c.r a) 8 = .ok (c.cid, off) → lmBad c off 8 = false →
      let w := c.lm.word off
      ∃ st : Word, Makes (.mxTst b a) s { c with st := st } 4 ∧ (flagZ st = true ↔ w &&& c.r b = 0) ∧ (flagN st = true ↔ fld w 45 38 ≠ 0)
        ∧ flagC st = w.getLsbD 5 ∧ flagV st = w.getLsbD 4 ∧ ∀ i, ¬(20 ≤ i ∧ i ≤ 23) → st.getLsbD i = c.st.getLsbD i)
    ∧ ∀ (mask : BitVec 4) (ops : List MxOp), c.job = some (mask, ops) → ops.length < 32 →
      ∀ (x : Fin 4) (xr : Bool) (a b d : Reg) (m : Option Modifier),
      let w := c.r b
      let stride := fld w 17 0
      let pair := if c.pp then some (c.pf, c.pd) else none
      let rm := RMode.of (c.stBits 26 24)
      let n := (c.stint.map (·.icount)).getD 0
      let adds (i : Instr) (len : Nat) (c' : Core) (op : MxOp) : Prop := Makes i s { c' with job := some (mask, ops ++ [op]) } len
      let scales (sc : ScaleSrc) (n : Nat) : Prop := sc = .split → c.ba1.toNat + 8 * n ≤ 0x1C0000
      let moved (sc : ScaleSrc) (n : Nat) : Core := if sc = .split then { c with ba1 := BitVec.ofNat 21 (c.ba1.toNat + 8 * n) } else c
      (mask.getLsbD x.val = true →
        adds (.mxZero x) 4 c (.zero x) ∧ adds (.mxMma x) 4 c (.mma x pair) ∧ adds (.mxMmas x) 4 c (.mmas x pair)
        ∧ (winOk p c w = true → adds (.mxMrot x b) 4 c (.mrot x pair w.toNat))
        ∧ (∀ y, mxLm p c (c.r a) 0 1 4 4 = .ok y → adds (.mxAmax x a) 4 c (.amax x y))
        ∧ (let f : Ty := if c.pp then c.pd else if jobF64 c then .f64 else .f32;
          let rows := fld w 24 18;
          let cols := fld w 31 25;
          fld w 63 33 = 0 → rows ≤ 64 → cols ≤ 64 → ∀ y z,
            (if xr then mxRing c (Fin.ofNat 8 a.val) stride else mxEnd p c (c.r a) stride rows ((cols * f.width + 7) / 8) (mxAlign f)) = .ok y →
            mxEnd p c (c.r d) 0 1 8 8 = .ok z →
            adds (.mxSt x xr b a d m) (mlen m) c (.store x y z stride rows cols (w.getLsbD 32) pair (modOr m) rm n))
        ∧ (let f : Ty := if c.pp then c.pd else .e4m3;
          let sc : ScaleSrc := if c.pp then c.ps else .none;
          let rows := fld w 24 18;
          let blocks := fld w 25 25 + 1;
          fld w 63 28 = 0 → rows ≤ 64 → scales sc (rows * blocks) → ∀ y,
            mxLm p c (c.r a) stride rows (blocks * ((if f = .blk4 then 16 else 32) + if sc = .split then 0 else 1)) 1 = .ok y →
            adds (.mxQnt x b a m) (mlen m) (moved sc (rows * blocks))
              (.quant x y stride rows (w.getLsbD 25) (fld w 27 26) pair sc c.ba1.toNat (modOr m) rm n)))
      ∧ (let rows := fld w 24 18;
        let v := 16 * 2 ^ fld w 26 25;
        let g := fld w 28 27 + 1;
        fld w 63 29 = 0 → rows ≤ 64 → fld w 26 25 < 3 → ∀ y, mxLm p c (c.r a) stride rows (7 * g * v / 8) 1 = .ok y →
          adds (.mxLdm b a) 4 c (.loadMeta y stride rows v g))
      ∧ (let f : Ty := if c.pp then c.pf else .f32;
        let sc : ScaleSrc := if c.pp then c.ps else .none;
        let rows := fld w 27 18;
        let vals := fld w 36 28;
        let k := kcOf f;
        fld w 63 37 = 0 → (f = .blk4 → vals % 32 = 0) → scales sc (rows * (vals / 32)) → ∀ y,
          (if xr then mxRing c (Fin.ofNat 8 a.val) stride
            else mxLm p c (c.r a) stride rows (if f = .blk4 ∧ sc ≠ .split then vals / 32 * 17 else (vals * f.width + 7) / 8) (mxAlign f)) = .ok y →
          let op (isB : Bool) : MxOp := .load isB y stride rows vals f sc c.ba1.toNat
          (rows ≤ 64 → vals ≤ k → adds (.mxLda xr b a) 4 (moved sc (rows * (vals / 32))) (op false))
          ∧ (rows ≤ min (4 * k) 512 → vals ≤ 64 → adds (.mxLdb xr b a) 4 (moved sc (rows * (vals / 32))) (op true)))

/-- R276, R277, R264, R263: `hnd` of each kind builds a frame below g15 and hangs it in front of the chain; `hpop` takes the innermost
one off again. -/
def Obligations.HandlerFrames : Prop :=
  ∀ (s : State) (p : Plot) (c : Core), At s p c → c.lm.wf = true → ∀ (e : BitVec 12) (h : BitVec 8) (ho : BitVec 32),
    (let f := (c.r 15).toNat - 32;
     let hangs (i : Instr) (kind : Nat) : Prop :=
       ∃ m es, let h : Word := BitVec.ofNat 64 (f + 2 ^ 18 * c.cid.toNat)
         Wakes i s ({ c with lm := m, lmErr := es, frames := c.frames + 1, htop := h }.setG 15 (BitVec.ofNat 64 f)) 4
         ∧ m.word (f + 8) = ho.setWidth 64 ∧ m.word (f + 16) = BitVec.ofNat 64 f ∧ m.word (f + 24) = c.htop
         ∧ (let w0 := m.word f
            fld w0 11 0 = e.toNat ∧ fld w0 13 12 = kind ∧ fld w0 15 14 = 0 ∧ fld w0 31 16 = c.frames.toNat ∧ fld w0 47 32 = c.obj.toNat
              ∧ fld w0 63 48 = 0)
         ∧ (∀ x, x < f ∨ f + 32 ≤ x → m.get x = c.lm.get x) ∧ ∀ x, x ∈ es ↔ x ∈ c.lmErr ∧ ¬(f ≤ x ∧ x + 8 ≤ f + 32)
     32 < (c.r 15).toNat → (c.r 15).toNat < 0x38000 → (c.r 15).toNat % 8 = 0 → p.handler c.obj.toNat h.toNat = some ho →
       hangs (.hndOnce e h) 0 ∧ hangs (.hndMany e h) 1 ∧ hangs (.hndNone e h) 2)
    ∧ (let o := hoff c.htop
       let f := Frame.of ((List.range 4).map fun i => c.lm.word (o + 8 * i))
       o ≠ 0 → hcid c.htop = c.cid.toNat → c.r 15 = BitVec.ofNat 64 o → o + 32 ≤ 0x38000 → lmBad c o 32 = false →
       f.ok c.cid.toNat o = true → (e = 0xFFF ∨ f.e = e.toNat) →
         Makes (.hpop e) s ({ c with htop := ((c.lm.word (o + 24)).setWidth 32).setWidth 64 }.setG 15 (BitVec.ofNat 64 (o + 32))) 4)

/-- R266 to R269, R272, R273, R278: `perform`, and `vperform` under a mask that is not empty, whose effect a frame of the own core takes:
the handler runs at once with its five registers; but for a NONE frame the performing context lies in the lowest free slot; what was
buffered is committed. Without a frame the stint aborts and waits for its release (R274). An empty mask performs nothing. -/
def Obligations.EffectsPerformed : Prop :=
  ∀ (s : State) (p : Plot) (c : Core), At s p c → s.cur.svc = false → c.job = none → c.rc ≤ 1 → ∀ (e : BitVec 12) (a d : Reg) (k : KReg)
    (v : VReg),
    let walked := walk c.lm c.lmErr c.cid.toNat e.toNat 1024 c.htop 0
    let offers (i : Instr) (arg mask : Word) (vec : Bool) (dreg : Nat) : Prop :=
      (∀ q f, walked = .found q f → (f.kind ≠ 2 → c.freeSlot ≠ none) →
        ∃ t x r, Machine.exec i s = .next t ∧ t.me = some x ∧ { t with fresh := s.fresh } = s.modMe (fun _ => x)
          ∧ x.r 1 = arg ∧ x.r 2 = BitVec.ofNat 64 e.toNat ∧ x.r 3 = mask ∧ x.r 15 = f.saved ∧ x.stint = some r ∧ r.lid = c.lid
          ∧ r.trig = none ∧ r.token = x.r 0 ∧ SameRegs c x [0, 1, 2, 3, 15]
          ∧ x.obj.toNat = fld f.w0 47 32 ∧ x.off.toNat = fld f.w1 31 0 ∧ x.htop = (f.link.setWidth 32).setWidth 64 ∧ x.wid = c.wid
          ∧ x.ob = [] ∧ x.ct = c.ct ++ c.ob ∧ SameLm c x ∧ SameRings c x
          ∧ (f.kind = 2 → x.slab = c.slab ∧ fld (x.r 0) 20 19 = 2)
          ∧ (f.kind ≠ 2 → ∀ i, c.freeSlot = some i → i < 32 → (∀ j, j ≠ i → x.slab[j]? = c.slab[j]?)
              ∧ ∃ y z, x.slab[i]? = some y ∧ y.state = 1 ∧ y.kind.toNat = f.kind ∧ y.rcd = some z ∧ z.g = c.g ∧ z.wid = c.wid
                ∧ z.htop = c.htop ∧ fld z.pc 31 0 = (c.off + 4).toNat ∧ fld z.pc 47 32 = c.obj.toNat ∧ (z.vec.isSome = true ↔ c.st.getLsbD 32 = true)
                ∧ y.lid = c.lid ∧ y.vec = vec
                ∧ y.dv = true ∧ y.dreg = dreg ∧ y.mask = mask ∧ y.fgen.toNat = fld f.w0 31 16
                ∧ fld (x.r 0) 13 0 = c.cid.toNat ∧ fld (x.r 0) 18 14 = i ∧ fld (x.r 0) 20 19 = f.kind ∧ fld (x.r 0) 39 24 = y.gen.toNat
                ∧ fld (x.r 0) 55 40 = c.lid.toNat))
      ∧ (walked = .none → ∃ t, Machine.exec i s = .next t ∧ ∀ x, t.me = some x → x.stint = none ∧ x.hold = .svrel ∧ x.ob = [])
    offers (.perform e a d) (c.r a) 1 false d.val
    ∧ (c.mask k ≠ 0 → offers (.vperform e k v) (c.off.setWidth 64) (c.mask k) true v.val)
    ∧ (c.mask k = 0 → Makes (.vperform e k v) s c 4)

/-- R270, R271, R279: `resume` and `resumev` of a token: the claim on the own slab and the resume message; on another core's slab the
claim is asked of its message context, and the message follows the answer; a token that is not current is stale. That a claim on a ONCE
slot leaves QUEUED as it was is the model's reading (log 35). R270, R271, R280, R281: `abort` frees a continuation of the own slab, or
makes one with queued resumes dying; `tokq` reads a slot; both ask the holder of another core's, and pass when its answer has come. So
are the places that a resume takes (log 17). -/
def Obligations.TokenInstructions : Prop :=
  (∀ (s : State) (p : Plot) (c : Core), At s p c → ∀ (a b : Reg) (v : VReg) (ty : Ty),
     let w := c.r a;
     let t := Tok.of w;
     let sends (i : Instr) (d : Core) (far : Bool) (how : ResumeHow) : Prop :=
       Enters i s d 4 none (!far) fun x => ∃ m, x = .msg (BitVec.ofNat 14 t.cid) m ∧ m.src = c.cid
         ∧ m.seq = (c.count c.lid).seq - (if far then 1 else 0) ∧ m.lid = c.lid ∧ m.cls = c.sendCls ∧ m.body = .resume t.slot t.gen t.kind how;
     let asks (i : Instr) (vec : Option Ty) : Prop :=
       Asks i s c true fun x => ∃ r, x = .remote r ∧ r.dst = BitVec.ofNat 14 t.cid ∧ r.act = .claim t.slot t.gen t.kind vec ∧ r.returns = true;
     (tokCurrent p c.lid w = false → Machine.exec (.resume a b) s = trap s 0x61 0 w ∧ Machine.exec (.resumev ty a v) s = trap s 0x61 0 w)
     ∧ (tokCurrent p c.lid w = true → t.kind = 2 →
         Machine.exec (.resume a b) s = trap s 0x62 0 w ∧ Machine.exec (.resumev ty a v) s = trap s 0x62 0 w)
     ∧ (tokCurrent p c.lid w = true → t.kind ≠ 2 →
       (c.wait = .none → t.cid = c.cid.toNat → ∀ x, c.slab[t.slot]? = some x → x.gen = t.gen → x.kind = t.kind → x.lid = c.lid → x.state = 1 →
         let d : Core := { c with slab := c.slab.set t.slot (if t.kind = 0 then { x with state := 2 } else { x with queued := x.queued + 1 }) };
         (x.vec = false → c.noPlace 0 = false → sends (.resume a b) d false (.scalar (c.r b)))
         ∧ (x.vec = true → (x.ltype = 15 ∨ x.ltype = ty.laneCode) → c.noPlace 2 = false → sends (.resumev ty a v) d false (.vector c.v[v] ty)))
       ∧ (c.wait = .none → t.cid ≠ c.cid.toNat → c.det = false → asks (.resume a b) none ∧ asks (.resumev ty a v) (some ty))
       ∧ (∀ ws, c.wait = .got (0 :: ws) → t.cid ≠ c.cid.toNat →
         (c.noPlace 0 = false → sends (.resume a b) c true (.scalar (c.r b)))
         ∧ (c.noPlace 2 = false → sends (.resumev ty a v) c true (.vector c.v[v] ty)))))
  ∧
  ∀ (s : State) (p : Plot) (c : Core), At s p c → ∀ (a d : Reg),
    let w := c.r a
    let t := Tok.of w
    let asks (i : Instr) (act : RemAct) : Prop :=
      Asks i s c true fun x => ∃ r, x = .remote r ∧ r.dst = BitVec.ofNat 14 t.cid ∧ r.act = act ∧ r.returns = true
    let answered (i : Instr) (but : List Reg) (f : Core → Prop) : Prop :=
      ∃ e, Becomes i s e ∧ f e ∧ SameRegs c e but ∧ SameSt c e stRetire ∧ Passed c e 4 ∧ SameVec c e ∧ SameLm c e ∧ SameSpecial c e
        ∧ SameRings c e ∧ SameOut c e ∧ SameIn c e ∧ SameSelf c e ∧ (e.count c.lid).seq = (c.count c.lid).seq
    (tokCurrent p c.lid w = false → Machine.exec (.abort a) s = trap s 0x61 0 w
      ∧ Writes (.tokq a d) s c 4 d (BitVec.ofNat 64 (4 * fld w 20 19)))
    ∧ (tokCurrent p c.lid w = true →
      (t.kind = 2 → Makes (.abort a) s c 4)
      ∧ (c.wait = .none → t.cid = c.cid.toNat → ∀ x, c.slab[t.slot]? = some x → x.gen = t.gen → x.kind = t.kind → x.lid = c.lid →
        (let y : Slot := if t.kind = 0 ∨ x.queued = 0 then { gen := x.gen + 1 } else { x with state := 3 };
          t.kind ≠ 2 → (x.state = 1 ∨ t.kind = 0 ∧ x.state = 2) → Makes (.abort a) s { c with slab := c.slab.set t.slot y } 4)
        ∧ (x.state ≠ 0 → ∃ v, Writes (.tokq a d) s c 4 d v ∧ fld v 1 0 = (if x.state = 1 then 1 else 2) ∧ fld v 3 2 = t.kind.toNat
            ∧ (v.getLsbD 4 = true ↔ ∃ r y, x.rcd = some r ∧ r.vec = some y) ∧ v.getLsbD 5 = x.vec ∧ fld v 15 6 = 0
            ∧ fld v 31 16 = x.resumes.toNat ∧ fld v 47 32 = x.queued.toNat ∧ fld v 63 48 = x.fgen.toNat)
        ∧ (x.state = 0 → Writes (.tokq a d) s c 4 d (BitVec.ofNat 64 (4 * t.kind.toNat))))
      ∧ (c.wait = .none → t.cid ≠ c.cid.toNat → c.det = false →
        (t.kind ≠ 2 → asks (.abort a) (.kill t.slot t.gen t.kind)) ∧ asks (.tokq a d) (.query t.slot t.gen t.kind))
      ∧ (∀ ws v, c.wait = .got (v :: ws) →
        (t.kind ≠ 2 → v = 0 → answered (.abort a) [] fun _ => True) ∧ answered (.tokq a d) [d] fun e => e.r d = v))

/-- R284, R307, R308, R310, R311, R314, R26: `wfloor`, `wprobe`, `wreg` and `wreg.free` ask a TSE and wait; when the answer has come they
write it and pass; in a DET launch `wfloor` only enters its floor. R286, R291 to R296, R309: `wst`, `wst.w`, `wld` and `wcancel` of a
good key enter their operation for the home TSE of the key: the state read from own LM at issue, the load's descriptor, or the cancelled
identity. That the round trips to a TSE are no releases, that `wreg` reads its descriptor after its commit point, and the places of the
stores are the model's readings (log 33, 38, 17). -/
def Obligations.WorldInstructions : Prop :=
  (∀ (s : State) (p : Plot) (c : Core), At s p c → ∀ (b a d : Reg),
     let g := c.r a;
     let rid := fld g 43 32;
     let asks (i : Instr) (tse : Nat) (act : TseAct) : Prop :=
       Asks i s c false fun x => ∃ o, x = .tse o ∧ o.tag = c.tag ∧ o.tse = tse ∧ o.act = act ∧ o.returns = true;
     let ws := (List.range 8).map fun i => c.lm.word (g.toNat + 8 * i);
     (c.wait = .none → ∀ r, p.routed rid = some r →
       (c.det = false → fld g 31 6 = 0 → fld g 63 44 = 0 → fld g 5 0 ≤ r.ng → asks (.wfloor b a) (rid % 16) (.floor g (c.r b).toInt))
       ∧ (c.det = true → Enters (.wfloor b a) s c 4 none false fun x => ∃ o, x = .tse o ∧ o.tag = c.tag ∧ o.tse = rid % 16
           ∧ o.act = .floor g (c.r b).toInt ∧ o.returns = false ∧ o.det = true))
     ∧ (c.wait = .none → c.det = false →
       (∀ r, wKey p g = .ok r → asks (.wprobe a d) ((g * 0x9E3779B97F4A7C15).toNat / 2 ^ 60) (.probe g))
       ∧ (g.toNat + 64 ≤ 0x38000 → g.toNat % 8 = 0 → lmBad c g.toNat 64 = false → regionOk ws = true →
           asks (.wreg a d) 16 (.reg (regionOf ws)))
       ∧ (fld g 63 12 = 0 → (p.routed (fld g 11 0)).isSome = true → asks (.wregFree a d) 16 (.free (fld g 11 0))))
     ∧ ∀ x y zs, c.wait = .got (x :: y :: zs) →
       Makes (.wfloor b a) s c 4 ∧ Makes (.wprobe a d) s ((c.setG d x).setG (d + 1) y) 4 ∧ Makes (.wreg a d) s (c.setG d x) 4
       ∧ Makes (.wregFree a d) s (c.setG d x) 4)
  ∧
  ∀ (s : State) (p : Plot) (c : Core), At s p c → ∀ (h : BitVec 10) (b a d : Reg) (r : Region),
    let home (k : Word) : Nat := (k * 0x9E3779B97F4A7C15).toNat / 2 ^ 60
    let op (i : Instr) (k : Word) (f : TseAct → Prop) : Prop :=
      Enters i s c 4 none true fun x => ∃ o, x = .tse o ∧ o.tag = c.tag ∧ o.tse = home k ∧ o.returns = false ∧ o.det = c.det ∧ f o.act
    (wKey p (c.r d) = .ok r → ∀ off, wSource p c (c.r a) r.size = .ok off → lmBad c off r.size = false →
      c.noPlace ((r.size + 63) / 64) = false →
        op (.wst b a d) (c.r d) (fun x => x = .st (c.r d) (c.r b).toInt (c.lm.bytes off r.size) false)
        ∧ op (.wstW b a d) (c.r d) (fun x => x = .st (c.r d) (c.r b).toInt (c.lm.bytes off r.size) true))
    ∧ (wKey p (c.r a) = .ok r →
      op (.wcancel b a) (c.r a) (fun x => x = .cancel (c.r a) (c.r b))
      ∧ (let x := c.r d;
        ∀ off, fld x 1 0 ≠ 3 → 8 * fld x 17 3 + 8 + r.size ≤ 0x38000 → p.handler c.obj.toNat h.toNat = some off → c.noPlace 1 = false →
          op (.wld h b a d) (c.r a) fun y => ∃ l, y = .ld l ∧ l.kw = c.r a ∧ l.t = (c.r b).toInt
            ∧ l.mode.toNat = (if c.det = true ∧ fld x 1 0 = 1 then 2 else fld x 1 0) ∧ l.eff = x.getLsbD 2 ∧ l.dst = 8 * fld x 17 3
            ∧ l.lim = (if x.getLsbD 18 then some (fld x 39 19) else none) ∧ l.dl = 1000 * fld x 63 40
            ∧ l.pc = pcOf c.obj.toNat off.toNat ∧ l.a0 = c.r 8 ∧ l.a1 = c.r 9 ∧ l.a2 = c.r 10 ∧ l.a3 = c.r 11 ∧ l.htop = c.htop
            ∧ l.cls = c.sendCls))

/-- R324 to R328, R197: `clm.st` of a member with fewer than four claims open enters a claim under the next ticket of its membership.
R24, R327, R331, R336 to R338: `clm.obj` of a member enters its objection, commits, and waits for its CLU: it passes when the CLU has
taken it, and traps when it has refused it. `clm.ld`, `clm.res` and `clm.grp` of a member commit first, and then give the word and its
version, the outcome, and the membership. The places of `clm.st` are the model's reading (log 17). -/
def Obligations.ClaimInstructions : Prop :=
  (∀ (s : State) (p : Plot) (c : Core), At s p c → Mine s c → ∀ (h : BitVec 10) (b a d : Reg) (g : Group) (m : Member) (off : BitVec 32),
     let w := c.r d;
     let tk := ticketOf m.idx g.gid (fld w 7 0) m.count;
     w.getLsbD 17 = false → fld w 63 33 = 0 → claimGroup p c (fld w 15 8) w true = .ok (g, m) → p.handler c.obj.toNat h.toNat = some off →
     8 * fld w 32 18 + 16 ≤ 0x38000 → claimsOpen p c g.gid < 4 → c.noPlace 1 = false →
       EntersIn (.clmSt h b a d) s (c.setG b tk) 4 none true
         (fun q => { q with groups := p.groups, cores := p.cores } = p ∧ SameCores p q [s.cur.idx]
           ∧ q.groups = p.groups.map fun y => if y.gid = g.gid then { y with members := y.members.map fun z =>
               if z.idx = m.idx ∧ z.left = false then { z with count := z.count + 1 } else z } else y)
         fun x => ∃ k, let v := c.setG b tk
           x = .claim k ∧ k.tag = c.tag ∧ k.ticket = tk ∧ k.value = v.r a ∧ k.dst = 8 * fld w 32 18 ∧ k.eff = w.getLsbD 16
           ∧ k.pc = pcOf c.obj.toNat off.toNat ∧ k.a0 = v.r 8 ∧ k.a1 = v.r 9 ∧ k.a2 = v.r 10 ∧ k.a3 = v.r 11 ∧ k.htop = c.htop
           ∧ k.cls = c.sendCls ∧ k.t0 = none ∧ k.done = false ∧ k.gone = none)
  ∧
  ∀ (s : State) (p : Plot) (c : Core), At s p c → Mine s c → ∀ (a d : Reg) (g : Group) (m : Member),
    let w := c.r a
    let tile := tileOf c.cid
    let rep := p.replica? tile g.gid
    let first (i : Instr) : Prop := c.wait = .none → ∃ e, Becomes i s e ∧ e.ob = [] ∧ e.ct = c.ct ++ c.ob ∧ e.wait = .begun ∧ e.off = c.off
      ∧ e.st = c.st ∧ SameRegs c e [] ∧ SameVec c e ∧ SameLm c e ∧ SameSpecial c e ∧ SameRings c e ∧ SameIn c e ∧ SameSelf c e
    (fld w 63 60 = 0 → claimGroup p c (fld w 19 12) w true = .ok (g, m) →
      (c.wait = .none → Asks (.clmObj a) s c false fun x => x = .objection w g.gid m.idx)
      ∧ (∀ ws, c.wait = .got ws → Makes (.clmObj a) s c 4)
      ∧ (∀ cause x i, c.wait = .failed cause x i → Machine.exec (.clmObj a) s = trap s cause x i)
      ∧ first (.clmRes a d)
      ∧ (c.wait = .begun → ∀ r, rep = some r →
          (∀ x, (r.decided.take 1024).find? (fun x => x.ticket == w) = some x → Makes (.clmRes a d) s ({ c with view := [] }.setG d x.word0) 4)
          ∧ ((∀ x ∈ r.decided.take 1024, x.ticket ≠ w) →
            Makes (.clmRes a d) s (c.setG d (if (r.pending w).isSome then 0xFF else 0xFE)) 4)))
    ∧ (w.getLsbD 17 = false → fld w 63 33 = 0 → w.getLsbD 16 = false → fld w 32 18 = 0 → claimGroup p c (fld w 15 8) w true = .ok (g, m) →
      first (.clmLd a d)
      ∧ (c.wait = .begun → ∀ r, rep = some r →
        let x := r.word (fld w 7 0)
        Makes (.clmLd a d) s (({ c with view := [] }.setG d x.1).setG (d + 1) (x.2.setWidth 64)) 4))
    ∧ (claimGroup p c (fld w 7 0) w false = .ok (g, m) →
      first (.clmGrp a d)
      ∧ (c.wait = .begun → ∀ r, rep = some r → Makes (.clmGrp a d) s (c.setG d (BitVec.ofNat 64
          (m.idx + 2 ^ 12 * g.size + 2 ^ 25 * r.marked.length + if g.notice.isSome then 2 ^ 38 else 0))) 4))

/-- R31, R344, R349, R362, R68: `svc` and `brk` take a service exception: the record of the core, with the PC at the instruction, goes
into the core's slot of its tile's service core, with the cause and the number, and joins SVQ; the core keeps its context with ST.SVC
set, and has counted one cycle. -/
def Obligations.ServiceException : Prop :=
  ∀ (s : State) (p : Plot) (c : Core), At s p c → s.cur.svc = false → ∀ (t : Tile), p.tiles[s.cur.idx / 32]? = some t →
    s.cur.idx % 32 < t.svc.slots.length →
    let served (i : Instr) (cause : Cause) (n : Nat) : Prop :=
      ∃ u q e t' r, Machine.exec i s = .next u ∧ OnlyMine s u ∧ At u q e
        ∧ { q with tiles := p.tiles, cores := p.cores } = p ∧ SameCores p q [s.cur.idx]
        ∧ e = { c with st := e.st, hold := .service, cyc := c.cyc + 1, counts := e.counts,
                       budget := if c.stint.isNone ∨ c.stBits 38 38 = 1 then c.budget else BitVec.ofNat 25 (c.budget.toNat - 1) }
        ∧ SameCounts c e ∧ (∀ b, b < 64 → e.st.getLsbD b = (decide (b = 38) || c.st.getLsbD b))
        ∧ q.tiles[s.cur.idx / 32]? = some t' ∧ { t' with svc := t.svc } = t
        ∧ { t'.svc with svq := t.svc.svq, slots := t.svc.slots } = t.svc
        ∧ t'.svc.svq = t.svc.svq ++ [s.cur.idx % 32] ∧ t'.svc.slots[s.cur.idx % 32]? = some (some r)
        ∧ (∀ j, j ≠ s.cur.idx % 32 → t'.svc.slots[j]? = t.svc.slots[j]?)
        ∧ r.cause = cause ∧ r.addr = 0 ∧ r.info = BitVec.ofNat 64 n ∧ r.taken = none ∧ r.rcd.g = c.g ∧ r.rcd.pc = c.pc ∧ r.rcd.st = e.st
        ∧ r.rcd.wid = c.wid ∧ r.rcd.htop = c.htop ∧ (r.rcd.vec.isSome = true ↔ c.st.getLsbD 32 = true)
    (∀ n, served (.svc n) 0x0C n.toNat) ∧ (∀ n, served (.brk n) 0x0B n.toNat) ∧ ∀ n, served (.brkCompact n) 0x0B n.toNat

/-- R349, R363: `sret` on a service core returns the record of a slot to its core, which runs again: at the same instruction, past it, or
with its stint aborted under a cause; the slot is free. The service time is counted (R398), and an instruction that is returned past
counts as executed, which is deduced (log 96). -/
def Obligations.ServiceReturn : Prop :=
  ∀ (s : State) (p : Plot) (c : Core), At s p c → s.cur.svc = true → ∀ (a h : Reg) (r : SvRec) (x : Core),
    let w := c.r a
    let slot := fld (c.r h) 4 0
    let i := 32 * s.cur.idx + slot
    fld (c.r h) 63 5 = 0 → p.served s.cur.idx slot = some r → p.cores[i]? = some x → fld w 63 16 = 0 → fld w 7 2 = 0 →
    let back (y : Core) (off : BitVec 32) : Prop :=
      y.g = r.rcd.g ∧ y.obj = BitVec.ofNat 16 (fld r.rcd.pc 47 32) ∧ y.off = off ∧ y.wid = r.rcd.wid ∧ y.htop = r.rcd.htop ∧ y.hold = .free
        ∧ (∀ b, b ≠ 38 → y.st.getLsbD b = r.rcd.st.getLsbD b) ∧ y.st.getLsbD 38 = false ∧ SameLm x y ∧ SameRings x y
        ∧ SameSpecial { x with wid := r.rcd.wid, htop := r.rcd.htop } y ∧ SameOut x y
        ∧ (r.rcd.vec = none → SameVec x y) ∧ ∀ z, r.rcd.vec = some z → y.v = z.v ∧ y.k = z.k
    let dev := (s.counted p s.cur.idx r).dev
    let rest (off : BitVec 32) (x' : Option Stint) (q : Plot) : Prop :=
      { q with tiles := p.tiles, cores := p.cores } = p ∧ SameCores p q [i] ∧ (∃ y, q.cores[i]? = some y ∧ back y off ∧ y.stint = x')
        ∧ q.served s.cur.idx slot = none ∧ ∀ j, j ≠ s.cur.idx → q.tiles[j]? = p.tiles[j]?
    (fld w 1 0 = 0 → MakesAnd (.sret a h) s c 4 dev (rest (BitVec.ofNat 32 (fld r.rcd.pc 31 0)) x.stint))
    ∧ (fld w 1 0 = 1 → MakesAnd (.sret a h) s c 4 dev
        (rest (BitVec.ofNat 32 (fld r.rcd.pc 31 0) + BitVec.ofNat 32 (p.lengthAt r.rcd.pc)) (x.stint.map Stint.tick)))
    ∧ (fld w 1 0 = 2 → fld w 15 8 ≤ 0xBF → ∃ t q y, Machine.exec (.sret a h) s = .next t ∧ OnlyMine (s.modDev fun _ => dev) t ∧ t.myPlot = some q
        ∧ q.cores[i]? = some y ∧ y.stint = none ∧ y.hold = .svrel ∧ y.ob = [] ∧ SameCores p q [i])

/-- R63, R361: on a compute core the service instructions and registers raise PRIV. R354, R360, R364 to R366: the other service
instructions and registers: the words of a record, the invalidation of translations, the mailbox of the die, SVQ, and the registers that
`wsr` writes. RESERVED_FIELD for the bits of a handle or of an operand of `tlbi` that must be zero is the model's reading (log 45). -/
def Obligations.ServiceInstructions : Prop :=
  (∀ (s : State) (p : Plot) (c : Core), At s p c → s.cur.svc = false → ∀ (a h d : Reg) (n : BitVec 7) (x : BitVec 12),
     let priv (i : Instr) : Prop := Machine.exec i s = trap s 0x09 0 (wordHere s p c);
     priv (.sret a h) ∧ priv (.rrec n h d) ∧ priv (.rrecW n h d) ∧ priv (.tlbi a) ∧ priv (.tlbiVa a h) ∧ priv (.mbox a d)
     ∧ (0x800 ≤ x.toNat → priv (.rsr d x) ∧ priv (.wsr x a)))
  ∧
  ∀ (s : State) (p : Plot) (c : Core), At s p c → s.cur.svc = true → ∀ (a h d : Reg) (t : Tile), p.tiles[s.cur.idx]? = some t →
    let others (q : Plot) : Prop := { q with tiles := p.tiles } = p ∧ ∀ j, j ≠ s.cur.idx → q.tiles[j]? = p.tiles[j]?
    let mine (i : Instr) (d : Core) (f : SvcCore → Prop) : Prop :=
      MakesIn i s d 4 fun q => others q ∧ ∃ t', q.tiles[s.cur.idx]? = some t' ∧ { t' with svc := t.svc } = t ∧ f t'.svc
    (∀ (n : BitVec 7) (r : SvRec), fld (c.r h) 63 5 = 0 → p.served s.cur.idx (fld (c.r h) 4 0) = some r → n.toNat ≤ 87 →
      (∃ w, Writes (.rrec n h d) s c 4 d w ∧ (∀ i : Fin 16, n.toNat = i.val → w = r.rcd.g[i]) ∧ (n = 16 → w = r.rcd.pc)
        ∧ (n = 17 → w = r.rcd.st) ∧ (n = 18 → w = r.rcd.wid) ∧ (n = 19 → w = r.rcd.htop) ∧ (20 ≤ n.toNat → r.rcd.vec = none → w = 0))
      ∧ ((n.toNat < 20 ∨ r.rcd.vec.isSome = true) → (n = 16 → fld (c.r d) 63 48 = 0) → mine (.rrecW n h d) c fun v =>
          { v with slots := t.svc.slots, ctx := t.svc.ctx } = t.svc
          ∧ v.slots[fld (c.r h) 4 0]? = some (some { r with rcd := r.rcd.setWord n.toNat (c.r d) })
          ∧ ∀ j, j ≠ fld (c.r h) 4 0 → v.slots[j]? = t.svc.slots[j]?))
    ∧ (c.wait = .none → fld (c.r a) 63 4 = 0 →
      let key := tlbiKey s.cur.pid s.cur.idx
      let drops (i : Instr) (va : Option Nat) : Prop :=
        (∀ q, s.plot? (fld (c.r a) 3 0) = some q → (q.dropTlb key va).tlbQuiet key = true) →
          ∃ e, Machine.exec i s = .next ((s.modPlot (fld (c.r a) 3 0) fun q => { q with
              dropping := q.dropping.filter (fun x => x.key != key), tiles := q.tiles.map fun z => { z with tlb := z.tlb.filter fun y => match va with
                | none => false
                | some v => !decide (y.page ≤ v ∧ v < y.page + y.size) } }).modMe fun _ => e)
            ∧ SameRegs c e [] ∧ SameSt c e stRetire ∧ Passed c e 4 ∧ Untouched c e
      drops (.tlbi a) none ∧ (fld (c.r h) 63 48 = 0 → drops (.tlbiVa a h) (some (c.r h).toNat)))
    ∧ (∀ m, s.dev.mboxes[t.num / 48]? = some m → (c.r a).toNat + 64 ≤ 0x100000 → (c.r a).toNat % 64 = 0 →
      let own := 1536 + t.num % 48
      ((∃ x ∈ m.slots, x.1 = own) → Writes (.mbox a d) s c 4 d 1)
      ∧ ((∀ x ∈ m.slots, x.1 ≠ own) → ∃ u e r ws, Machine.exec (.mbox a d) s = .next u ∧ u = (s.modDev fun _ => u.dev).modMe (fun _ => e)
          ∧ u.dev = { s.dev with mboxes := s.dev.mboxes.set (t.num / 48) { m with slots := (own, r) :: m.slots } }
          ∧ r.raw = some ws ∧ ws.drop 1 = (List.range 7).map (fun i => c.lm.word ((c.r a).toNat + 8 + 8 * i))
          ∧ e.r d = 0 ∧ SameRegs c e [d] ∧ SameSt c e stRetire ∧ Passed c e 4 ∧ Untouched c e))
    ∧ (t.svc.svq = [] → MakesIn (.rsr d 0x800) s (c.setG d 0) 4 others)
    ∧ (∀ (i : Nat) (l : List Nat) (r : SvRec), t.svc.svq = i :: l → t.svc.slots[i]? = some (some r) →
        mine (.rsr d 0x800) (c.setG d (BitVec.ofNat 64 (i + 2 ^ 8 * r.cause.toNat + 2 ^ 63))) fun v =>
          v.svq = l ∧ v.slots[i]? = some (some { r with taken := some (planeTime s p s.cur.idx) })
          ∧ ∀ j, j ≠ i → v.slots[j]? = t.svc.slots[j]?)
    ∧ ((∀ x ∈ p.cores, x.report = none) →
      mine (.wsr 0x802 a) c (fun v => { v with rpbase := t.svc.rpbase, rplog := t.svc.rplog, ctx := t.svc.ctx } = t.svc
        ∧ v.rpbase.toNat = fld (c.r a) 19 6 ∧ v.rplog.toNat = if 4 ≤ fld (c.r a) 23 20 ∧ fld (c.r a) 23 20 ≤ 12 then fld (c.r a) 23 20 else 4)
      ∧ mine (.wsr 0x804 a) c (fun v => { v with ctx := t.svc.ctx } = { t.svc with rptail := (c.r a).setWidth 32 }))
    ∧ mine (.wsr 0x806 a) c (fun v => { v with ctx := t.svc.ctx } = { t.svc with svlim := (c.r a).setWidth 32 })
    ∧ (∀ x, p.cores[32 * s.cur.idx + fld (c.r a) 4 0]? = some x → x.hold = .svrel → x.report = none → (c.r a).getLsbD 8 = false →
        MakesIn (.wsr 0x807 a) s c 4 fun q => SameCores p q [32 * s.cur.idx + fld (c.r a) 4 0]
          ∧ q.cores[32 * s.cur.idx + fld (c.r a) 4 0]? = some { x with hold := .free })

/-- R78, R81, R82, R83, R86: `fmt` latches its pair and its scale source and sets ST.PP; `rpt` sets RC, RS and RA and keeps a pending
format; with n = 0 it skips the next instruction and drops the format. -/
def Obligations.FormatAndRepeat : Prop :=
  ∀ (s : State) (p : Plot) (c : Core), At s p c → c.rc ≤ 1 →
    let two (i : Instr) (bits : Word) (off : BitVec 32) (st : Word → Prop) : Prop :=
      ∃ e, Becomes i s e ∧ st e.st ∧ SameSt c e bits ∧ e.off = off ∧ e.wait = .none ∧ SameRegs c e [] ∧ Untouched c e
        ∧ e.stint = c.stint.map Stint.tick
    (∀ (f g : Ty) (sc : ScaleSrc), f.fmtCode < 16 → g.fmtCode < 16 → two (.fmt f g sc) 0x7FFF (c.off + 2) fun x =>
      x.getLsbD 0 = true ∧ fld x 4 1 = f.fmtCode ∧ fld x 8 5 = g.fmtCode ∧ fld x 10 9 = sc.code ∧ fld x 14 11 = 0)
    ∧ ∀ (n : Fin 16) (f : Fin 8) (k : Fin 3),
      (n ≠ 0 → two (.rpt n f k) 0xFF800 (c.off + 2) fun x => fld x 14 11 = n.val ∧ fld x 16 15 = k.val ∧ fld x 19 17 = f.val)
      ∧ (n = 0 → two (.rpt n f k) 0x7801 (c.off + 2 + BitVec.ofNat 32 (skipLen (leNat (fetch (codeOf s p c) (c.off.toNat + 2)))))
          fun x => x.getLsbD 0 = false ∧ fld x 14 11 = 0)

/-- R21, R64, R83, R88, R89, R163, R172: what a step runs. With nothing on the agenda, the instruction that decodes at the PC of the core
that steps runs, or stalls for a cycle while it waits for a result or a bank of LM, once the checks on the mode, the pending format and
the repeat allow it: step is exec of it, and of its next repetition while a repeat is on; a decode fault takes its exception; an event of
the agenda runs with its operands. Which core steps when, and which event happens, is an input in the model (log 1). What counts as a
result, and which bank conflicts make a stint wait, are the model's readings (log 98, 7), and so is the moment at which an injection
strikes (log 26). So are the memory that a service core fetches from (log 15) and a fetch past the end of its object (log 89). -/
def Obligations.StepRunsDecoded : Prop :=
  (∀ (s : State) (p : Plot) (c : Core), At s p c → s.agenda = [] →
    (s.cur.svc = true → (svcOf p s.cur.idx).stopped = false
      ∧ c.fetchErr (skipLen (leNat (fetch (codeOf s p c) c.off.toNat))) = none) →
    (s.cur.svc = false → c.hold = .free ∧ c.stint.isSome = true ∧ c.overrun = false ∧ c.searching = false
      ∧ p.fetchErr c (skipLen (leNat (fetch (codeOf s p c) c.off.toNat))) = none) →
    (∀ i n, decode (fetch (codeOf s p c) c.off.toNat) = .ok i n → (s.cur.svc = true ∨ serviceOnly i = false) →
      reservedHere i c.pp c.pf c.pd = false →
      (c.pp = false ∨ acceptsFmt i c.pf c.pd c.ps = true ∨ c.rc = 0 ∧ ∃ m f k, i = .rpt m f k) →
      let runs (j : Instr) : Prop :=
        (c.awaitsResult j = true ∨ bankBusy s p c j = true → Machine.step s = .next (s.modMe fun _ => c.stall))
        ∧ (c.awaitsResult j = false → bankBusy s p c j = false → s.cur.svc = true ∨ s.dev.strikes = false →
          (∀ t, Machine.exec j s = .next t → Machine.step s = .next (if retiredIn s t then t.modMe (·.noteResult j) else t))
          ∧ ((∀ t, Machine.exec j s ≠ .next t) → Machine.step s = Machine.exec j s));
      (c.rc = 0 → runs i) ∧ (∀ j, c.rc ≠ 0 → repeated c (codeOf s p c) i = .ok j → runs j))
    ∧ (∀ i n, decode (fetch (codeOf s p c) c.off.toNat) = .ok i n → serviceOnly i = true → s.cur.svc = false →
        Machine.step s = decodeTrap s c (codeOf s p c) 0x09)
    ∧ (∀ cause, decode (fetch (codeOf s p c) c.off.toNat) = .bad cause false → cause ≠ 0x05 →
        Machine.step s = decodeTrap s c (codeOf s p c) cause))
  ∧ (∀ (s : State) (i : Instr) (a : EvArgs) (l : List Move), s.agenda = .event i a :: l → i.encoded = false →
      let s1 := { s with agenda := l, ev := a };
      s.dev.strikes = false ∨ eventHits s1 i a = none → Machine.step s = Machine.exec i s1)
  ∧ (∀ (c : Core) (i : Instr), c.noteResult i = { c with ready := (c.noteResult i).ready })
  ∧ ∀ (c : Core) (n : Nat) (d a b x y : Reg) (k : LdKind) (u : Bool) (t : Ty) (m : KReg) (w : VSrc) (v z z' : VReg) (f : Option Modifier),
      c.ready = [] → c.stint.isSome = true → n < 32 → c.cyc.toNat + 64 < 2 ^ 64 →
      let after (i : Instr) : Core := { c.noteResult i with cyc := c.cyc + BitVec.ofNat 64 n };
      (after (.add d a b)).awaitsResult (.add x d y) = false ∧ (after (.divI64 d a b)).awaitsResult (.add x d y) = false
      ∧ (after (.mul d a b)).awaitsResult (.add x d y) = decide (n < 2) ∧ (after (.ld k u 0 a d)).awaitsResult (.add x d y) = decide (n < 2)
      ∧ (after (.rsr d 0x001)).awaitsResult (.add x d y) = decide (n < 1) ∧ (after (.rsr d 0x00A)).awaitsResult (.add x d y) = decide (n < 3)
      ∧ (after (.vadd t m w v z f)).awaitsResult (.vadd t m w z z' f) = decide (n < 3)

/-- R65 to R68, R70, R75, R76: words written out from the encoding tables decode to the instructions that they stand for. -/
def Obligations.DecodeWords : Prop :=
  decodeTableWord 32 0x00010981 = some (.add 3 1 2) ∧ decodeTableWord 32 0xFFFFAA07 = some (.addi 4 5 (BitVec.ofInt 17 (-1)))
  ∧ decodeTableWord 16 0x0442 = some (.movCompact 1 1) ∧ decodeTableWord 32 0xFFFFF811 = some (.bc .eq (BitVec.ofInt 21 (-1)))
  ∧ decodeTableWord 32 0x00500051 = some (.svc 5) ∧ decodeTableWord 32 0x00000053 = none ∧ decodeTableWord 16 0x0038 = none

/-- R64 to R89 and the encoding tables of every major: decoding the encoding of a well-formed instruction gives it back, with every
operand at every value and whatever follows it. -/
def Obligations.DecodeEncode : Prop :=
  ∀ (i : Instr) (rest : List Byte), i.wellFormed = true → i.encoded = true → decode (encode i ++ rest) = .ok i (encode i).length

/-- R64, R66 to R68, R87: what the decoder gives is well formed, has an encoding and takes 2, 4 or 8 bytes; the compact ops 28 to 31 and
the majors without instructions raise ILLEGAL_OPCODE. -/
def Obligations.DecodeWellFormed : Prop :=
  (∀ (bs : List Byte) (i : Instr) (n : Nat), decode bs = .ok i n → i.wellFormed = true ∧ i.encoded = true ∧ (n = 2 ∨ n = 4 ∨ n = 8))
  ∧ (∀ (b0 b1 : Byte) (bs : List Byte), b0.getLsbD 0 = false → 28 ≤ b0.toNat / 2 % 32 → decode (b0 :: b1 :: bs) = .bad 0x00 false)
  ∧ ∀ (b0 b1 b2 b3 : Byte) (bs : List Byte), b0.getLsbD 0 = true →
      (b0.toNat / 2 % 64 = 0x15 ∨ b0.toNat / 2 % 64 = 0x16 ∨ b0.toNat / 2 % 64 = 0x17 ∨ 0x29 ≤ b0.toNat / 2 % 64) →
        decode (b0 :: b1 :: b2 :: b3 :: bs) = .bad 0x00 false

/-- R4, R173: every step keeps every memory of the machine in its canonical form. -/
def Obligations.MemOkKept : Prop :=
  ∀ s t : State, MemOk s → Machine.step s = .next t → MemOk t

/-- R380, R394, R395: after reset every memory is in canonical form, no plot exists and the device is booting. The zero contents of
memory are those of R373. -/
def Obligations.MemOkAtReset : Prop :=
  MemOk State.reset ∧ State.reset.plots = [] ∧ State.reset.agenda = [] ∧ State.reset.dev.devstat = 0 ∧ State.reset.dev.vfs = []
  ∧ State.reset.dev.hostlost = false ∧ ∀ a, State.reset.dev.host.get a = 0

/-- R15, R172: no step is refused; a core of a plot always has a next state; the one fault is an agent that names no core. -/
def Obligations.NeverStuck : Prop :=
  ∀ s : State, (∀ r, Machine.step s ≠ .refused r) ∧ (∀ p c, At s p c → s.agenda = [] → Goes s)
    ∧ ∀ i : Instr, (∀ p c, At s p c → i.encoded = true → Runs i s) ∧ (i.encoded = false → Runs i s)

/-- R165, R379, R381: an instruction of a compute core changes no other plot, neither memory of the host nor of a peer, and not what
happens next; it reaches them only through what it enters into its outbound buffer. -/
def Obligations.PlotIsolation : Prop :=
  ∀ (s t : State) (i : Instr), s.cur.svc = false → i.encoded = true → Machine.exec i s = .next t →
    (∀ x, x ≠ s.cur.pid → t.plot? x = s.plot? x) ∧ t.dev.host = s.dev.host ∧ t.dev.peers = s.dev.peers ∧ t.dev.vfs = s.dev.vfs
    ∧ t.dev.slots = s.dev.slots ∧ t.dev.mgmt = s.dev.mgmt ∧ t.dev.time = s.dev.time ∧ t.cur = s.cur ∧ t.agenda = s.agenda ∧ t.ev = s.ev

/-- R28, R29, R344, R348, R352: an exception of class A, where the report ring has room: the buffered entries are gone, LM and the slab
stay but for banks powered down, the context is free and waits for SVREL; the trigger returns if nothing was committed; the report names
the cause, the core, the launch, the PC, the message and what the code gives. A divisor of zero raises INT_DIVZERO (R121). -/
def Obligations.AbortException : Prop :=
  ∀ (s : State) (p : Plot) (c : Core) (x : Stint) (t : Tile), At s p c → s.cur.svc = false → c.stint = some x →
    p.tiles[s.cur.idx / 32]? = some t → t.svc.ringFull = false →
    (∀ (cause : Cause) (addr info : Word) (len : Nat) (dreg : Option Reg), cause.cls = .a → cause ≠ 0x23 →
      ∃ u q e t', trap s cause addr info len dreg = .next u ∧ OnlyMine s u ∧ At u q e ∧ SameCores p q [s.cur.idx]
        ∧ e.stint = none ∧ e.ob = [] ∧ e.job = none ∧ e.hold = .svrel ∧ e.ct = c.ct ∧ e.slab = c.slab ∧ e.runq = c.runq
        ∧ e.back = (if x.commits = 0 then x.trig else none) ∧ SameRegs c e [] ∧ e.st = c.st ∧ SameVec c e ∧ SameSpecial c e ∧ SameRings c e
        ∧ (c.runq ≠ [] ∨ e.back ≠ none → SameLm c e)
        ∧ q.tiles[s.cur.idx / 32]? = some t' ∧ t'.svc = t.svc.report
            { cause := cause, kind := 0, part := decide (0 < x.commits), ret := decide (x.commits = 0) && x.trig.isSome,
              commits := x.commits, cid := c.cid, lid := x.lid, pc := c.pc, msgid := (x.trig.map Msg.ident).getD x.token, addr := addr,
              info := info, wid := c.wid, time := BitVec.ofNat 64 s.dev.time, pid := s.cur.pid })
    ∧ ∀ d a b : Reg, c.r b = 0 → Machine.exec (.divI64 d a b) s = trap s 0x10 0 0 4 (some d)
        ∧ Machine.exec (.divN64 d a b) s = trap s 0x10 0 0 4 (some d) ∧ Machine.exec (.remI64 d a b) s = trap s 0x10 0 0 4 (some d)
        ∧ Machine.exec (.remN64 d a b) s = trap s 0x10 0 0 4 (some d)

/-- R22, R31, R37, R38, R41, R44, R46, R47, R49, R51, R55 to R57, R213: launches. A good record becomes a launch, from the mailbox or
from a spawn; sowing gives the next item to its core; a core takes the message with the least effective class, the oldest of those, and
starts its stint with the registers of R22; a stint out of budget is aborted; two equal sweeps end a quiet launch; the energy period
zeroes the counts; the end of a launch removes it and sends its completion word; suspension, the image and the resume. When a sweep is
enabled, what the image waits for, which plot may resume and what becomes of the members of its groups are the model's (log 81, 82, 83).
-/
def Obligations.LaunchEvents : Prop :=
  ∀ (s : State) (p : Plot), On s p →
    (∀ args, s.barOk p = true → judgeRec s p (p.mailbox.set 7 s.ev.v) = (0, args) →
      let new := { launchOf (p.mailbox.set 7 s.ev.v) p.nextLid [] with args := args }
      Turns .launchSubmit s
        { p with mailbox := p.mailbox.set 7 s.ev.v, nextLid := p.nextLid + 1, launches := p.launches ++ [new] })
    ∧ (∀ t ws args c, p.spawns[s.ev.j]? = some (t, ws) → ((p.spawns.take s.ev.j).any fun x => x.1.cid == t.cid) = false →
        p.core? t.cid.toNat = some c → notPerformed p c t.ord .package = false → judgeRec s p ws = (0, args) →
        let new := { launchOf ws p.nextLid [] with args := args }
        let old := p.launches.map fun x => if x.lid = t.lid then { x with recv := x.recv + 1 } else x
        Turns .spawnAccept s { p with spawns := p.spawns.eraseIdx s.ev.j, nextLid := p.nextLid + 1, launches := old ++ [new] })
    ∧ (∀ l c, p.sowing = some l → p.core? (p.target l l.sown) = some c → c.runq.length < 64 → p.sows l = true → p.imageReady l = true →
        (l.sown ≠ 0 ∨ s.tdi p ≠ .error) →
        TurnsTo .sowTaskMessage s fun q =>
          q.launches = (p.launches.map fun x => if x.lid = l.lid then { x with sown := x.sown + 1, sent := x.sent + 1 } else x)
          ∧ CoreIs p q (p.target l l.sown) fun d => d.stint = c.stint ∧ ∃ m, d.runq = c.runq ++ [m] ∧ m.lid = l.lid ∧ m.cls = l.pri
              ∧ m.src = 0x3FFF ∧ m.enq = (c.cyc.toNat : Int) ∧ m.body = .task (pcOf l.obj.toNat l.entry.toNat) (l.widOf l.sown)
                (l.args.getD 0 0) (l.args.getD 1 0) (l.args.getD 2 0) (l.args.getD 3 0))
    ∧ (∀ c, c.back = none → c.runq ≠ [] → p.susp = .no → ∃ m c1, p.select c = some (m, c1) ∧ m ∈ c.runq ∧ c1.runq = c.runq.erase m
        ∧ ∀ x ∈ c.runq, p.effClass c m ≤ p.effClass c x ∧ (p.effClass c x = p.effClass c m → m.enq ≤ x.enq))
    ∧ (∀ c m c1 pc wid a0 a1 a2 a3, p.core? s.ev.c = some c → c.hold = .free → c.stint = none → p.select c = some (m, c1) →
        m.body = .task pc wid a0 a1 a2 a3 →
        TurnsTo .stintStart s fun q => CoreIs p q s.ev.c fun d => d.stint = some ⟨m.lid, some m, 0, 0, 0⟩
          ∧ d.g.toList = [wid, a0, a1, a2, a3] ++ List.replicate 11 0 ∧ d.pc = pc &&& 0xFFFFFFFFFFFF ∧ d.st = freshSt (p.isDet m.lid) m.cls
          ∧ d.wid = wid ∧ d.htop = 0 ∧ d.budget = p.budgetOf m.lid ∧ d.clg = 0 ∧ d.cphdl = 0 ∧ d.runq = c1.runq ∧ d.lm = c.lm
          ∧ d.slab = c.slab ∧ d.q = c.q ∧ d.counts = c.counts)
    ∧ (∀ c x t, p.core? s.ev.c = some c → c.stint = some x → c.budget = 0 → c.stBits 38 38 = 0 → p.tiles[s.ev.c / 32]? = some t →
        t.svc.ringFull = false →
        TurnsTo .budgetExceeded s fun q => (CoreIs p q s.ev.c fun d => d.stint = none ∧ d.hold = .svrel ∧ d.ob = [] ∧ d.ct = c.ct
            ∧ d.back = (if x.commits = 0 then x.trig else none) ∧ SameRegs c d [])
          ∧ ∃ t', q.tiles[s.ev.c / 32]? = some t' ∧ t'.svc.rphead = t.svc.rphead + 1)
    ∧ (∀ l, p.launches = [l] → l.det = false → l.ended = false → p.sweepAt + 2000 ≤ s.dev.time →
        TurnsTo .sweep s fun q => q.sweepAt = s.dev.time ∧ ∃ l', q.launches = [l'] ∧ l'.lid = l.lid ∧ l'.sown = l.sown
          ∧ (∀ i c, p.core? i = some c → ∃ d, q.core? i = some d ∧ { d with slab := c.slab } = c ∧ (l'.ended = false → d = c)
              ∧ (l'.ended = true → d.slab = c.slab.map fun (x : Slot) =>
                if x.state ≠ 0 ∧ x.lid = l.lid then { gen := x.gen + 1 } else x))
          ∧ if p.sweepIdle l = true ∧ p.sentSum l = p.recvSum l
            then l'.quiet = some (p.sentSum l, p.recvSum l) ∧ l'.ended = decide (l.quiet = some (p.sentSum l, p.recvSum l))
            else l'.quiet = none ∧ l'.ended = false)
    ∧ (s.dev.time < p.sweepAt + 2000 → Idles .sweep s)
    ∧ (s.dev.period < s.dev.time / 1000000 → ∃ t, Machine.exec .energyPeriodEnd s = .next t
        ∧ t.dev = { s.dev with period := s.dev.time / 1000000 }
        ∧ let zero (ls : List Launch) (cs : List Core) : Prop :=
            (∀ l ∈ ls, l.pj = 0 ∧ l.swept = 0 ∧ l.demoted = false) ∧ ∀ c ∈ cs, ∀ n ∈ c.counts, n.pj = 0
          ∀ q ∈ t.plots, zero q.launches q.cores ∧ ∀ i, q.image = some i → zero i.launches i.cores)
    ∧ (∀ l loc e p', p.launch? (BitVec.ofNat 16 s.ev.n) = some l → l.ended = true → p.openFor l.lid = false → l.compl = false →
        l.ckind.toNat ≤ 1 → l.ctgt.toNat % 8 = 0 → l.ctgt.toNat < 2 ^ 48 → translate p noTile l.ctgt.toNat 1 = (.ok (loc, e), p') →
        s.dev.hostlost = false → p.parkHold = 0 → p.park = [] →
        let dev : Device := match loc with
          | .peer _ _ => { s.dev with fabNext := s.dev.fabNext + 1 }
          | _ => s.dev;
        Moves .launchCompletion s dev fun q => q.launches = (p.launches.filter fun x => x.lid != l.lid)
          ∧ (let irq := if l.ckind = 0 then [LinkAct.msix 18] else [];
             match loc with
             | .host a => q.link = p.link ++ [.completion l.lid a (compWord 0 l.lid l.aborted)] ++ irq
             | .dev a => q.link = p.link ++ irq ∧ ∃ x, q.wq = p.wq ++ [x] ∧ x.line = lineOf a
                 ∧ x.act = storeAct a (leBytes 8 (compWord 0 l.lid l.aborted).toNat)
             | .peer d a => q.link = p.link ++ irq ∧ ∃ x, q.fabric = p.fabric ++ [x] ∧ x.peer = d
                 ∧ x.act = storeAct a (leBytes 8 (compWord 0 l.lid l.aborted).toNat)))
    ∧ (p.susp = .no → Turns .plotSuspend s { p with susp := .pausing })
    ∧ (p.susp = .pausing → p.drained = true → TurnsTo .suspendImageTaken s fun q => q.susp = .taken ∧ q.launches = []
        ∧ q.image = some ⟨p.cores.map Core.imageOf, p.launches, p.nextLid, p.mxes.map (·.acc)⟩ ∧ q.mem = p.mem ∧ q.waiters = p.waiters
        ∧ q.furrows = p.furrows ∧ ∀ c ∈ q.cores, c.runq = [] ∧ c.parked = [] ∧ ∀ x ∈ c.slab, x.state = 0)
    ∧ (∀ img, s.ev.n = s.ev.p → p.image = some img → img.cores.length ≤ p.cores.length → p.torn = false →
        (∀ r ∈ s.plots, ∀ w ∈ r.waiters, w.homeOf r.pid ≠ s.ev.p) →
        TurnsTo .plotResume s fun q => q.susp = .no ∧ q.image = none ∧ q.launches = img.launches ++ p.launches ∧ q.nextLid = p.nextLid
          ∧ ∀ i c, img.cores[i]? = some c → ∃ d, q.core? i = some d ∧ d.lm = c.lm ∧ d.q = c.q ∧ d.frames = c.frames)

/-- R56, R163, R171 to R174, R178, R181, R182, R184, R190, R204, R209, R355: the steps of the abstract machine. The head of CT passes to
where its kind goes, a fence when the earlier accesses are performed at its scope; a store goes home past no older one of its line; the
oldest of a line is applied, a store, a reduction, or an atomic, which answers with the old value; a tile may lose a copy; a remote
operation arrives where there is room and executes on its target, a ring delivery at the ring's TAIL; a message is delivered in order; a
message and a ring delivery of a core wait for its earlier accesses at the pair scope; what finds no room waits 200 ns and tries again.
When the condition of `sleep.ge.g` is looked at and the loads' single step are the model's (log 28, 94). The numbers of service cores are
the model's (log 23). -/
def Obligations.OrderEvents : Prop :=
  ∀ (s : State) (p : Plot), On s p →
    (∀ c e rest, p.named s.ev = some c → c.ct = e :: rest →
      let q := p.modNamed s.ev fun c => { c with ct := rest }
      let tile := tileOf e.tag.cid
      (canPass p c e = false → Idles .pass s)
      ∧ (canPass p c e = true →
        (∀ dst m, e.body = .msg dst m → Turns .pass s { q with flights := p.flights ++ [{ dst := dst, msg := m, byCore := true }] })
        ∧ (∀ r, e.body = .remote r → p.isDet r.tag.lid = false ∨ r.returns = true → Turns .pass s { q with paths := p.paths ++ [r] })
        ∧ (∀ bs, e.body = .store bs → (∀ b ∈ bs, ∃ a, b.loc = .dev a) →
            Turns .pass s (q.modTile tile fun x => { x with toq := x.toq ++ homeParts e.tag e.rel bs }))
        ∧ (∀ o w u va a b cmp, e.body = .atom o w u va (.dev a) b cmp true → TurnsTo .pass s fun r => r.cores = q.cores
            ∧ ∀ x, p.tiles[tile]? = some x → ∃ y h, r.tiles[tile]? = some y ∧ y.toq = x.toq ++ [h] ∧ h.tags = [e.tag] ∧ h.line = lineOf a
              ∧ h.act = .atom o w u a b cmp true)
        ∧ (∀ j, e.body = .copy j → Turns .pass s { q with copies := p.copies ++ [j] })
        ∧ (∀ j, e.body = .claim j → Turns .pass s { q with claims := p.claims ++ [j] })
        ∧ (∀ n ws, e.body = .hostq n ws → Turns .pass s { q with hqIn := p.hqIn ++ [(n, e.tag, ws)] }))
      ∧ (∀ sc, e.body = .fence sc → if notPerformed p c e.tag.ord sc = true then Idles .pass s else Turns .pass s q))
    ∧ (∀ t e, p.tiles[s.ev.t]? = some t → t.toq[s.ev.j]? = some e → e.isStore = true →
        ((t.toq.take s.ev.j).any (fun x => x.line == e.line) = true → Idles .home s)
        ∧ ((t.toq.take s.ev.j).any (fun x => x.line == e.line) = false → e.rel = none →
            TurnsTo .home s fun q => q.wq = p.wq ++ [e] ∧ q.mem = p.mem ∧ ∃ t', q.tiles[s.ev.t]? = some t' ∧ t'.toq = t.toq.eraseIdx s.ev.j))
    ∧ (∀ e, p.wq[s.ev.j]? = some e →
        ((p.wq.take s.ev.j).any (fun x => x.line == e.line) = true → Idles .apply s)
        ∧ ((p.wq.take s.ev.j).any (fun x => x.line == e.line) = false → p.lineErr e.line = none →
          (∀ bs, e.act = .store bs → TurnsTo .apply s fun q => q.wq = p.wq.eraseIdx s.ev.j
            ∧ q.mem = bs.foldl (fun m x => m.setMasked x.1 x.2.1 x.2.2) p.mem)
          ∧ (∀ o w u a b cmp t, e.act = .atom o w u a b cmp true → e.tags = [t] → Waits p t →
            TurnsTo .apply s fun q => q.wq = p.wq.eraseIdx s.ev.j ∧ Got q t [BitVec.ofNat 64 (p.mem.num a (aopSize w))]
              ∧ q.mem = p.mem.write a (leBytes (aopSize w) (aopNew o w u (p.mem.num a (aopSize w)) (aopArg w b) (aopArg w cmp))))
          ∧ (∀ o w u a b, e.act = .red o w u a b → TurnsTo .apply s fun q => q.wq = p.wq.eraseIdx s.ev.j
            ∧ q.mem = p.mem.write a (leBytes (aopSize w) (aopNew o w u (p.mem.num a (aopSize w)) (aopArg w b) 0)))
          ∧ (∀ rs, e.act = .reds rs → TurnsTo .apply s fun q => q.wq = p.wq.eraseIdx s.ev.j
            ∧ q.mem = rs.foldl (fun m (x : Red) => m.write x.a (leBytes (aopSize x.wide)
                (aopNew x.o x.wide x.u (m.num x.a (aopSize x.wide)) (aopArg x.wide x.b) 0))) p.mem)))
    ∧ Turns .drop s (p.modTile s.ev.t fun t => { t with tc := t.tc.filter fun x => x.1 != s.ev.n })
    ∧ (∀ r c, p.paths[s.ev.j]? = some r → (p.paths.take s.ev.j).any (r.behind ·) = false → p.flights = [] →
        r.nextTry ≤ s.dev.time → p.core? r.dst.toNat = some c →
        ∀ i, (if r.tries = 0 then i = .arrive else i = .rnrRetry ∧ s.ev.n = 0) →
        let held : Prop := (∃ q ws, r.act = .ring q ws) ∧ p.waitsFor r.tag (p.pairScope r.tag.cid r.dst) = true
        (held → Idles i s)
        ∧ (¬held → c.mq.length < 16 →
          (r.tries = 0 ∨ r.returns = false → TurnsTo i s fun q => q.paths = p.paths.eraseIdx s.ev.j ∧ CoreIs p q r.dst.toNat fun d => d.mq = c.mq ++ [r])
          ∧ (∀ k, r.tries ≠ 0 → r.returns = true → r.tag.cid ≠ r.dst → p.core? r.tag.cid.toNat = some k → k.awaits r.tag = true →
            TurnsTo i s fun q => q.paths = p.paths.eraseIdx s.ev.j ∧ SameCores p q [r.dst.toNat, r.tag.cid.toNat]
              ∧ (∃ d, q.core? r.dst.toNat = some d ∧ d.mq = c.mq ++ [r])
              ∧ ∃ d, q.core? r.tag.cid.toNat = some d ∧ { d with st := k.st } = k ∧ ∀ b, b < 64 → d.st.getLsbD b = (k.st.getLsbD b && b != 38)))
        ∧ (¬held → 16 ≤ c.mq.length → r.tries + 1 < p.rtries → r.returns = false →
            let r' := { r with tries := r.tries + 1, nextTry := s.dev.time + min (200 * 2 ^ r.tries) 100000 }
            TurnsTo i s fun q => q.cores = p.cores ∧ q.paths = p.paths.set s.ev.j r'))
    ∧ (∀ c r rest, p.core? s.ev.c = some c → c.mq = r :: rest → r.dst.toNat = s.ev.c → c.lmErr = [] → c.bankOff = 0 → c.retain = none →
        (∀ bs, r.act = .store bs → r.returns = false → NoSleeper c →
          TurnsTo .messageContextExecute s fun q => CoreIs p q s.ev.c fun d => d.lm = c.lm.write r.off bs ∧ d.mq = rest
            ∧ d.msgBank = some (c.cyc.toNat, r.banks c) ∧ (d.count r.tag.lid).recv = (c.count r.tag.lid).recv + 1 ∧ SameRegs c d [] ∧ d.stint = c.stint)
        ∧ (∀ n, r.act = .load n → r.returns = true → Waits p r.tag →
          TurnsTo .messageContextExecute s fun q => Got q r.tag [BitVec.ofNat 64 (c.lm.num r.off n)])
        ∧ (∀ o w u b cmp, r.act = .atom o w u b cmp → r.returns = true → Waits p r.tag →
          let old := c.lm.num r.off (aopSize w)
          TurnsTo .messageContextExecute s fun q => Got q r.tag [BitVec.ofNat 64 old] ∧ ∃ d, q.core? s.ev.c = some d
            ∧ d.lm = c.lm.write r.off (leBytes (aopSize w) (aopNew o w u old (aopArg w b) (aopArg w cmp))))
        ∧ (∀ o w u b cmp, r.act = .atom o w u b cmp → r.returns = false → NoSleeper c →
          TurnsTo .messageContextExecute s fun q => CoreIs p q s.ev.c fun d => d.mq = rest
            ∧ d.lm = c.lm.write r.off (leBytes (aopSize w) (aopNew o w u (c.lm.num r.off (aopSize w)) (aopArg w b) (aopArg w cmp)))
            ∧ (d.count r.tag.lid).recv = (c.count r.tag.lid).recv + 1 ∧ SameRegs c d [] ∧ d.stint = c.stint)
        ∧ (∀ i ws, r.act = .ring i ws → r.returns = false → c.q[i].v = true → NoSleeper c → c.lm.wf = true →
          let g := c.q[i]
          let behind : Bool := p.paths.any fun x => x.before r
          (behind = true → TurnsTo .messageContextExecute s fun q => q.paths = putBack r p.paths ∧ CoreIs p q s.ev.c fun d => d.mq = rest
            ∧ d.q = c.q ∧ SameLm c d)
          ∧ (behind = false → g.fill ≠ 2 ^ g.cnt → TurnsTo .messageContextExecute s fun q => CoreIs p q s.ev.c fun d => d.mq = rest
            ∧ d.q = c.q.set i { g with tail := g.tail + 1 } ∧ (∀ x, d.lm.get x =
                if g.slotAt g.tail.toNat ≤ x ∧ x < g.slotAt g.tail.toNat + g.bytes then (wordsBytes ws).getD (x - g.slotAt g.tail.toNat) 0
                else c.lm.get x)
            ∧ (d.count r.tag.lid).recv = (c.count r.tag.lid).recv + 1 ∧ SameRegs c d [] ∧ d.stint = c.stint)
          ∧ (behind = false → g.fill = 2 ^ g.cnt → r.tries + 1 < p.rtries →
            let r' := { r with tries := r.tries + 1, nextTry := s.dev.time + min (200 * 2 ^ r.tries) 100000 }
            TurnsTo .messageContextExecute s fun q => q.paths = r' :: p.paths ∧ CoreIs p q s.ev.c fun d => d.mq = rest ∧ d.q = c.q ∧ SameLm c d)))
    ∧ (∀ f c l, s.ev.flag = false → p.flights[s.ev.j]? = some f → (p.flights.take s.ev.j).any (f.behind ·) = false → f.mode < 2 →
        p.paths.any (·.ahead f) = false → f.nextTry ≤ s.dev.time → p.current f.dst.toNat f.msg = true →
        p.launch? f.msg.lid = some l → p.core? f.dst.toNat = some c → c.runq.length < 64 → f.msg.pay = [] →
        ∀ i, (if f.tries = 0 then i = .deliver else i = .rnrRetry ∧ s.ev.n = 1) →
        let asleep : Prop := p.susp = .taken ∧ ∃ img, p.image = some img ∧ ∃ x ∈ img.launches, x.lid = f.msg.lid
        let held : Prop := f.byCore = true ∧ p.waitsFor f.msg.tag (p.pairScope f.msg.tag.cid f.dst) = true ∨ asleep
        (held → Idles i s)
        ∧ (¬held → TurnsTo i s fun q => q.flights = p.flights.eraseIdx s.ev.j ∧ CoreIs p q f.dst.toNat fun d =>
          if l.det = true then d.parked = c.parked ++ [f.msg] ∧ d.runq = c.runq
          else d.runq = c.runq ++ [{ f.msg with enq := (c.cyc.toNat : Int), enqNo := p.enqs, pay := [] }] ∧ d.parked = c.parked))
    ∧ (∀ f c l o bs rest, s.ev.flag = false → p.flights[s.ev.j]? = some f → (p.flights.take s.ev.j).any (f.behind ·) = false → f.mode < 2 →
        f.byCore = false → f.nextTry ≤ s.dev.time → p.current f.dst.toNat f.msg = true → p.launch? f.msg.lid = some l → l.det = false →
        p.core? f.dst.toNat = some c → NoSleeper c → f.msg.pay = (o, bs) :: rest → p.susp ≠ .taken →
        ∀ i, (if f.tries = 0 then i = .deliver else i = .rnrRetry ∧ s.ev.n = 1) →
        TurnsTo i s fun q => q.flights.length = p.flights.length ∧ CoreIs p q f.dst.toNat fun d =>
          d.lm = c.lm.write o (bs.take 8) ∧ d.runq = c.runq ∧ d.stint = c.stint ∧ SameRegs c d [])
    ∧ (∀ c f rest, s.ev.n = 3 → p.core? s.ev.c = some c → c.late = f :: rest → f.nextTry ≤ s.dev.time → p.current s.ev.c f.msg = true →
        (c.runq.length < 64 → TurnsTo .rnrRetry s fun q => CoreIs p q s.ev.c fun d => d.late = rest
          ∧ d.runq = c.runq ++ [{ f.msg with enq := (c.cyc.toNat : Int), enqNo := p.enqs, pay := [] }]))
    ∧ (∀ x e, s.ev.n = 2 → p.link[s.ev.j]? = some x → x = .mem e → s.dev.hostlost = true → e.act.returns = true →
        e.nextTry ≤ s.dev.time → e.tries + 1 < p.rtries →
        let e' := { e with tries := e.tries + 1, nextTry := s.dev.time + min (200 * 2 ^ e.tries) 100000 }
        TurnsTo .rnrRetry s fun q => q.link = p.link.set s.ev.j (.mem e'))

/-- R112, R113, R135, R216 to R222, R235 to R242, R250, R251: the engines. A copy is taken by its CPY in turn, or accepted or refused by
an ETE and tried again after 1 us; it moves a byte; a fault at its end is mapped or ends it; at the end its id is free and its status
kept. An MXE takes the next job when its accumulators are free or the sender's, which then owns them; it zeroes, multiplies, passes
latches to its neighbour, times out, and completes; `mx.rel` gives accumulators back. That a copy moves byte by byte, that a free value
stands for a word with an error, and the order of the matrix engine before its first job are the model's (log 19, 20, 93). -/
def Obligations.EngineEvents : Prop :=
  ∀ (s : State) (p : Plot), On s p →
    (∀ x, p.copies[s.ev.j]? = some x → x.status = none → p.cpyBusy s.ev.j x = false →
      (x.accepted = false → x.cpy ≠ none → x.tries = 0 →
        Turns .copyExecute s { p with copies := p.copies.set s.ev.j { x with accepted := true } })
      ∧ (x.accepted = false → x.cpy = none → ∀ i, (if x.tries = 0 then i = .copyExecute else i = .eteRetry ∧ x.nextTry ≤ s.dev.time) →
        (s.ev.flag = false → p.eteFull = false → Turns i s { p with copies := p.copies.set s.ev.j { x with accepted := true } })
        ∧ (s.ev.flag = true ∨ p.eteFull = true → x.tries + 1 < p.etries →
            let y := { x with tries := x.tries + 1, nextTry := s.dev.time + 1000 * min (max s.ev.v.toNat (2 ^ x.tries)) 1000 }
            Turns i s { p with copies := p.copies.set s.ev.j y })
        ∧ (s.ev.flag = true ∨ p.eteFull = true → p.etries ≤ x.tries + 1 →
            Turns i s { p with copies := p.copies.set s.ev.j { x with tries := x.tries + 1, status := some 0x96 } }))
      ∧ (∀ a b o o2 k d, x.accepted = true → x.fault = none → x.done < x.len * x.cnt → s.ev.n = 1 →
          endOf p x.tag.cid x.src = some (.lm a o) → endOf p x.tag.cid x.dst = some (.lm b o2) → a ≠ b →
          p.core? a.toNat = some k → k.lmErr = [] → p.core? b.toNat = some d →
          TurnsTo .copyExecute s fun q => q.copies = p.copies.set s.ev.j { x with done := x.done + 1 }
            ∧ SameCores p q [a.toNat, b.toNat] ∧ (∃ e, q.core? a.toNat = some e ∧ { e with counts := k.counts } = k ∧ SameCounts k e)
            ∧ ∃ e, q.core? b.toNat = some e ∧ e.lm = d.lm.set (copyAt o2 x.strd x.len x.done) (k.lm.get (copyAt o x.strs x.len x.done)))
      ∧ (∀ cause a, s.ev.opt = none → x.fault = some (cause, a) →
          (p.serves (tileOf x.tag.cid) = false → Idles .copyServiceAnswer s)
          ∧ (p.serves (tileOf x.tag.cid) = true → s.ev.flag = true →
            Turns .copyServiceAnswer s { p with copies := p.copies.set s.ev.j { x with fault := none } })
          ∧ (p.serves (tileOf x.tag.cid) = true → s.ev.flag = false →
            let y := { x with fault := none, status := some (BitVec.ofNat 64 (0x95 + 2 ^ 8 * cause.toNat + 2 ^ 16 * x.done)) }
            Turns .copyServiceAnswer s { p with copies := p.copies.set s.ev.j y }))
      ∧ (∀ c, x.fault = none → x.accepted = true → x.done = x.len * x.cnt → x.blk = none → p.pendingAt x.tag.engine = false →
          p.core? x.tag.cid.toNat = some c →
          TurnsTo .copyComplete s fun q => q.copies = p.copies.eraseIdx s.ev.j ∧ q.flights = p.flights
            ∧ CoreIs p q x.tag.cid.toNat fun d => (x.tag.lid, x.id) ∉ d.xout
              ∧ ((d.count x.tag.lid).xdone.find? fun y => y.1 == x.id) = some (x.id, BitVec.ofNat 64 (2 ^ 16 * x.done))))
    ∧ (∀ m, p.mxes[s.ev.c]? = some m →
      (∀ i j, m.run = none → m.nextCmd = some i → m.queue[i]? = some (.job j) → m.acc.length = 4 →
        TurnsTo .mxJobStart s fun q => ∃ n r, q.mxes[s.ev.c]? = some n ∧ n.run = some r ∧ r.job = j ∧ r.next = 0 ∧ n.queue = m.queue.eraseIdx i
          ∧ n.last = j.tag.cid ∧ n.af = none ∧ n.bf = none ∧ n.ab = none ∧ n.bb = none ∧ n.md = none
          ∧ ((∀ a, a < 4 → j.mask.getLsbD a = true →
                (m.acc.getD a {}).owner = none ∨ (m.acc.getD a {}).owner = some (j.tag.cid, j.tag.lid)) →
              r.failed = none ∧ ∀ a, a < 4 → if j.mask.getLsbD a = true then (n.acc.getD a {}).owner = some (j.tag.cid, j.tag.lid)
                else n.acc.getD a {} = m.acc.getD a {})
          ∧ (∀ a o, a < 4 → j.mask.getLsbD a = true → (m.acc.getD a {}).owner = some o → o ≠ (j.tag.cid, j.tag.lid) →
              r.failed = some (0x91, 0, 0) ∧ n.acc = m.acc))
      ∧ (∀ i t mask, m.run = none → m.nextCmd = some i → m.queue[i]? = some (.rel t mask) → m.acc.length = 4 →
        TurnsTo .mxRelExecute s fun q => ∃ n, q.mxes[s.ev.c]? = some n ∧ n.run = none ∧ n.queue = m.queue.eraseIdx i ∧ ∀ a, a < 4 →
          (n.acc.getD a {}).owner = if mask.getLsbD a = true ∧ (m.acc.getD a {}).owner = some (t.cid, t.lid) then none
            else (m.acc.getD a {}).owner)
      ∧ (∀ r c, m.run = some r → r.failed = none → s.ev.n = 0 → r.job.ops[r.next]? = some (.zero c) → r.job.f64 = false → m.acc.length = 4 →
        TurnsTo .mxOperationExecute s fun q => ∃ n r', q.mxes[s.ev.c]? = some n ∧ n.run = some r' ∧ r'.next = r.next + 1 ∧ r'.failed = none
          ∧ (∀ e, (n.acc.getD c.val {}).at_ .f32 e = 0) ∧ (n.acc.getD c.val {}).nv = false ∧ (n.acc.getD c.val {}).owner = (m.acc.getD c.val {}).owner
          ∧ ∀ a, a ≠ c.val → n.acc.getD a {} = m.acc.getD a {})
      ∧ (∀ r c a b kc cyc, m.run = some r → r.failed = none → s.ev.n = 0 → r.job.ops[r.next]? = some (.mma c none) → r.job.f64 = false →
        m.acc.length = 4 → m.af = some a → m.bf = some b → pairInfo a.f b.f = some (kc, cyc) → a.f ≠ .f64 →
        TurnsTo .mxOperationExecute s fun q => ∃ n r', q.mxes[s.ev.c]? = some n ∧ n.run = some r' ∧ r'.next = r.next + 1 ∧ r'.failed = none
          ∧ ∀ i j, i < 64 → j < 64 →
            let sum := (chunkSum ((List.range kc).map fun k => (a.at_ i k, b.at_ k j))).1
            let old := readTy .f32 ((m.acc.getD c.val {}).at_ .f32 (64 * i + j))
            (n.acc.getD c.val {}).at_ .f32 (64 * i + j) = (roundFp .f32 .rne false 0 (addExt .rne old sum).1).1 % 2 ^ 32)
      ∧ (∀ r c pr win k n r2, m.run = some r → r.failed = none → r.job.ops[r.next]? = some (.mrot c pr win) → r.mul = true → s.ev.flag = true →
        r.sentB = false → p.atTorus (mrotTo (p.torus s.ev.c) win true) = some k → p.mxes[k]? = some n → n.run = some r2 →
        r2.window = some win → n.bb = none →
        TurnsTo .mxLatchAccept s fun q => (∃ n', q.mxes[k]? = some n' ∧ n'.bb = m.bf)
          ∧ ∃ m' r', q.mxes[s.ev.c]? = some m' ∧ m'.run = some r' ∧ r'.sentB = true)
      ∧ (∀ r t, m.run = some r → r.since = some t → r.failed = none →
        (t + 1000000 ≤ s.dev.time → TurnsTo .mxWaitTimeout s fun q => ∃ n r', q.mxes[s.ev.c]? = some n ∧ n.run = some r'
          ∧ r'.failed = some (0x9B, 0, r.next) ∧ n.acc = m.acc)
        ∧ (s.dev.time < t + 1000000 → Idles .mxWaitTimeout s))
      ∧ (∀ r c, m.run = some r → r.failed = none → r.job.ops.length ≤ r.next → r.barFault = none → r.barDead = none → r.job.blk = none →
        p.pendingAt r.job.tag.engine = false → p.core? r.job.tag.cid.toNat = some c → (∀ a ∈ m.acc, a.faulted = false) →
        TurnsTo .mxJobComplete s fun q => (∃ n, q.mxes[s.ev.c]? = some n ∧ n.run = none ∧ n.acc = m.acc ∧ n.queue = m.queue ∧ n.af = none
            ∧ n.bf = none ∧ n.md = none)
          ∧ CoreIs p q r.job.tag.cid.toNat fun d => (r.job.tag.lid, r.job.id) ∉ d.jout
            ∧ ((d.count r.job.tag.lid).jdone.find? fun y => y.1 == r.job.id) = some (r.job.id, 0)))

/-- R56, R225 to R228, R285, R287, R293, R297 to R302, R307 to R311, R317, R322, R329 to R335, R340: the world store, the claims and the
collectives. A store newer than its furrow is appended, an older one discarded and reported; a load at a sample's instant gets the
sample, one without samples waits, and its deadline or its cancel answers it; floors go through the master to every TSE; a probe returns
the newest and oldest instants; regions come and go at routers and TSEs; a claim is announced, heard, objected to and decided; a slot's
epoch opens, closes and answers. One table of members for each plot, members of other devices, a CLU's hearing of itself at once, and
what a joining member copies are the model's (log 46, 47, 48, 50). -/
def Obligations.WorldAndClaimEvents : Prop :=
  ∀ (s : State) (p : Plot), On s p →
    let plain (l : Lid) : Prop := ∀ x ∈ p.launches ++ (p.image.map (·.launches)).getD [], x.lid = l → x.det = false
    (∀ o, p.tseq[s.ev.j]? = some o → p.tseFirst s.ev.j o →
      let gone := p.tseq.eraseIdx s.ev.j
      (∀ kw t data wt r, o.act = .st kw t data wt → p.regionAt (wRid kw) o.tse = some r → p.firstStore kw = none →
        let ss := p.samples kw
        (ss.length < r.depth → (∀ x ∈ ss.getLast?, x.t < t) → o.home = none → (∀ w ∈ p.waiters, w.op.home = none) → TurnsTo .worldStoreArrive s fun q => q.tseq = gone
          ∧ q.samples kw = ss ++ [⟨t, data⟩] ∧ ∀ k, k ≠ kw → q.samples k = p.samples k)
        ∧ (∀ x tl, o.home = none → ss.getLast? = some x → t ≤ x.t → p.tiles[tileOf o.tag.cid]? = some tl → tl.svc.ringFull = false →
          TurnsTo .worldStoreArrive s fun q => q.tseq = gone ∧ q.furrows = p.furrows ∧ q.waiters = p.waiters
            ∧ ∃ tl', q.tiles[tileOf o.tag.cid]? = some tl' ∧ tl'.svc = tl.svc.report
                { cause := 0x70, kind := 1, cid := o.tag.cid, lid := o.tag.lid, msgid := o.tag.ident, addr := kw, info := BitVec.ofInt 64 t,
                  wid := o.tag.wid, pid := s.ev.p, time := BitVec.ofNat 64 s.dev.time }))
      ∧ (∀ l r, o.act = .ld l → p.regionAt (wRid l.kw) o.tse = some r → p.region? (wRid l.kw) = some r → plain o.tag.lid → o.home = none →
        let ss := p.samples l.kw
        (∀ x, ss.find? (fun y => y.t == l.t) = some x → (sampleAt ss 0).t ≤ l.t → l.t ≤ (sampleAt ss (ss.length - 1)).t → x.data ≠ [] →
          TurnsTo .worldLoadArrive s fun q => q.tseq = gone ∧ q.waiters = p.waiters ∧ ∃ m, q.flights = p.flights ++ [{ dst := o.tag.cid, msg := m }]
            ∧ m.body = .data l.pc 0 (BitVec.ofNat 64 l.dst) l.a0 l.a1 l.a2 l.a3 l.htop o.tag.wid none
            ∧ m.pay = [(l.dst + 8, x.data), (l.dst, leBytes 8 0)])
        ∧ (ss = [] → l.mode ≠ 0 → p.waitUsed o.tse < p.wshare → TurnsTo .worldLoadArrive s fun q => q.tseq = gone ∧ q.flights = p.flights
            ∧ q.waiters = p.waiters ++ [⟨o, s.dev.time, deadlineOf r o s.dev.time l.dl⟩]))
      ∧ (∀ kw id, o.act = .cancel kw id →
        (p.waiters = [] → Turns .wcancelArrive s (({ p with tseq := gone } : Plot).spendFor o.tag 500))
        ∧ (∀ w l, p.waiters = [w] → w.op.act = .ld l → l.kw = kw → w.op.tag.ident = id → plain w.op.tag.lid → w.op.home = none →
          p.susp ≠ .taken →
          TurnsTo .wcancelArrive s fun q => q.waiters = [] ∧ ∃ m, q.flights = p.flights ++ [{ dst := w.op.tag.cid, msg := m }]))
      ∧ (∀ g t r f x, o.act = .floor g t → p.regionAt (wRid g) (wRid g % 16) = some r → fld g 31 6 = 0 → fld g 63 44 = 0 → fld g 5 0 ≤ r.ng →
        p.floors.find? (fun y => y.rid == r.rid && y.tse == 16) = some f → f.fs[fld g 5 0]? = some x → x ≤ t →
        TurnsTo .floorMasterArrive s fun q => q.tseq = gone ++ (List.range 16).map (fun n => { o with tse := n, act := .floorAt (wRid g) (fld g 5 0) t })
          ∧ q.floors = p.floors.map fun y => if y.rid = r.rid ∧ y.tse = 16 then { y with fs := y.fs.set (fld g 5 0) t } else y)
      ∧ (∀ rid g t r, o.act = .floorAt rid g t → p.regionAt rid o.tse = some r → p.waiters = [] → gone = [] → Waits p o.tag →
        TurnsTo .floorApply s fun q => q.tseq = [] ∧ Got q o.tag []
          ∧ q.floors = p.floors.map fun y => if y.rid = rid ∧ y.tse = o.tse then { y with fs := y.fs.modify g fun x => max x t } else y)
      ∧ (∀ kw x xs r, o.act = .probe kw → p.regionAt (wRid kw) o.tse = some r → p.samples kw = x :: xs → Waits p o.tag →
        TurnsTo .wprobeArrive s fun q => q.tseq = gone ∧ q.furrows = p.furrows
          ∧ Got q o.tag [BitVec.ofInt 64 ((x :: xs).getLast (by simp)).t, BitVec.ofInt 64 x.t])
      ∧ (∀ r, o.act = .reg r → r.routed = false → r.at_ = [] →
        (p.region? r.rid = none → p.poolUsed + r.charge ≤ p.pool → s.ev.n = 16 →
          TurnsTo .regionRegisterApply s fun q => q.regions = { r with routed := true } :: p.regions.filter (fun x => x.rid != r.rid)
            ∧ q.floors = ⟨r.rid, 16, List.replicate (r.ng + 1) r.floor0⟩ :: p.floors)
        ∧ ((p.region? r.rid).isSome = true → Waits p o.tag → TurnsTo .regionRegisterApply s fun q => q.tseq = gone ∧ q.regions = p.regions
            ∧ Fails q o.tag 0x72 (BitVec.ofNat 64 r.rid) 0))
      ∧ (∀ rid r, o.act = .free rid → p.region? rid = some r →
        (o.returns = true → r.routed = true → r.at_.length = 16 → TurnsTo .regionFreeApply s fun q =>
          q.regions = p.regions.map fun x => if x.rid = rid then { x with routed := false } else x)
        ∧ (o.returns = false → r.at_ = [s.ev.n] → p.waiters = [] → Waits p o.tag → TurnsTo .regionFreeApply s fun q => q.tseq = gone
            ∧ (∀ x ∈ q.regions, x.rid ≠ rid) ∧ (∀ x ∈ q.floors, x.rid ≠ rid) ∧ Got q o.tag [BitVec.ofNat 64 r.charge])))
    ∧ (∀ w l d, p.waiters[s.ev.j]? = some w → w.op.act = .ld l → w.deadline = some d → plain w.op.tag.lid → w.op.home = none → p.susp ≠ .taken →
      (d ≤ s.dev.time → TurnsTo .waitDeadline s fun q => q.waiters = p.waiters.eraseIdx s.ev.j
        ∧ ∃ m, q.flights = p.flights ++ [{ dst := w.op.tag.cid, msg := m }])
      ∧ (s.dev.time < d → Idles .waitDeadline s))
    ∧ (∀ w l q, p.waiters[s.ev.j]? = some w → w.op.act = .ld l → s.plot? (w.homeOf p.pid) = some q → q.susp = .taken → Idles .waitDeadline s)
    ∧ (∀ x g c, p.claims[s.ev.j]? = some x → x.gone = none → x.done = false → x.t0 = none → p.group? (tkGroup x.ticket) = some g →
      p.core? x.tag.cid.toNat = some c → s.dev.syncLost = false → g.notice = none →
      let t := tileOf x.tag.cid
      let now := planeTime s p t
      ∀ r, p.replica? t g.gid = some r →
        (r.complete g = true → notPerformed p c x.tag.ord .system = false → TurnsTo .claimAnnounce s fun q =>
          q.claims = p.claims.set s.ev.j { x with t0 := some now }
            ∧ q.plane = p.plane ++ (g.tiles.filter fun y => y != t && !p.cut.contains (t, y)).map
                (fun y => ⟨t, y, g.gid, now, .announce x.ticket x.value, x.tag.seq, false⟩)
            ∧ ∃ r' os, q.replica? t g.gid = some r' ∧ r'.pend = r.pend ++ [⟨x.ticket, x.value, now, os⟩] ∧ r'.vals = r.vals
              ∧ ∀ m, (∃ z ∈ os, z.1 = m) ↔ ∃ z ∈ r.early, z.1 = x.ticket ∧ z.2.1 = m)
        ∧ (r.complete g = false ∨ notPerformed p c x.tag.ord .system = true → Idles .claimAnnounce s))
    ∧ (∀ c x rest w gid m g r, s.ev.flag = false → p.core? s.ev.c = some c → c.ct = x :: rest → x.body = .objection w gid m →
      canPass p c x = true → Waits p x.tag → p.group? gid = some g → p.replica? (tileOf x.tag.cid) gid = some r →
      let t := tileOf x.tag.cid
      let now := planeTime s p t
      (∀ y, r.pending w = some y →
        (now ≤ y.t0 + g.w - g.skew → TurnsTo .pass s fun q => Got q x.tag []
          ∧ (∃ r', q.replica? t gid = some r' ∧ r'.vals = r.vals ∧ r'.decided = r.decided ∧ (m, now) ∈ r'.heard
            ∧ ∃ z, r'.pending w = some z ∧ z.t0 = y.t0 ∧ z.value = y.value ∧ ∃ o ∈ z.objs, o.1 = m)
          ∧ ((s.dev.syncLost && g.span) = false → ∀ k ∈ g.tiles, k ≠ t → p.cut.contains (t, k) = false →
              ⟨t, k, gid, now, .object w m, 0, false⟩ ∈ q.plane))
        ∧ (y.t0 + g.w - g.skew < now → TurnsTo .pass s fun q => Fails q x.tag 0x80 0 w ∧ q.plane = p.plane))
      ∧ (r.pending w = none → TurnsTo .pass s fun q => q.plane = p.plane
          ∧ Fails q x.tag (if r.decided.any (fun y => y.ticket == w) then 0x80 else 0x85) 0 w))
    ∧ (∀ x g r, p.plane[s.ev.j]? = some x → (p.plane.take s.ev.j).any (fun y => y.src == x.src && y.dst == x.dst) = false →
      p.cut.contains (x.src, x.dst) = false → x.bad = false →
      p.group? x.gid = some g → p.replica? x.dst x.gid = some r → g.notice = none →
      (∀ t v, x.act = .announce t v → TurnsTo .announcementArrive s fun q => q.plane = p.plane.eraseIdx s.ev.j
        ∧ ∃ r' os, q.replica? x.dst x.gid = some r' ∧ r'.pend = r.pend ++ [⟨t, v, x.stamp, os⟩]
          ∧ ∀ m, (∃ z ∈ os, z.1 = m) ↔ ∃ z ∈ r.early, z.1 = t ∧ z.2.1 = m)
      ∧ (∀ t m, x.act = .object t m → TurnsTo .objectionArrive s fun q => q.plane = p.plane.eraseIdx s.ev.j
        ∧ ∃ r', q.replica? x.dst x.gid = some r' ∧ r'.heard = (m, x.stamp) :: r.heard
          ∧ ∀ y ∈ r'.pend, y.ticket = t → ∃ z ∈ y.objs, z.1 = m)
      ∧ (∀ m, x.act = .heartbeat m → s.ev.flag = true → TurnsTo .heartbeat s fun q => q.plane = p.plane.eraseIdx s.ev.j
        ∧ ∃ r', q.replica? x.dst x.gid = some r' ∧ r'.heard = (m, x.stamp) :: r.heard ∧ r'.pend = r.pend)
      ∧ (∀ m, x.act = .remove m → s.ev.flag = true → TurnsTo .heartbeat s fun q => q.plane = p.plane.eraseIdx s.ev.j
        ∧ ∃ r', q.replica? x.dst x.gid = some r' ∧ r' = { r with roll := ⟨m, x.stamp, .remove⟩ :: r.roll }
          ∧ ((∀ y ∈ r.marks, y.1 = m → y.2 < x.stamp) → m ∉ r'.marked))
      ∧ (∀ m, x.act = .leave m → s.ev.flag = true → TurnsTo .heartbeat s fun q => q.plane = p.plane.eraseIdx s.ev.j
        ∧ q.replica? x.dst x.gid = some { r with roll := ⟨m, x.stamp, .leave⟩ :: r.roll })
      ∧ (∀ v, x.act = .values v → s.ev.flag = true → TurnsTo .heartbeat s fun q => q.plane = p.plane.eraseIdx s.ev.j
        ∧ ∃ r', q.replica? x.dst x.gid = some r' ∧ r'.synced = true ∧ (r.synced = true → r' = r)
          ∧ (r.synced = false → r.early = [] → r.pend = [] → r'.vals = v.vals ∧ r'.decided = v.decided ∧ r'.pend = v.pend)))
    ∧ (∀ g r x, p.group? s.ev.n = some g → p.replica? s.ev.t s.ev.n = some r → r.pend = [x] →
      let abs := absentFor g r (g.lost s.dev) x.t0
      let last := x.t0 + g.w - g.skew
      (x.t0 + g.w + g.d ≤ planeTime s p s.ev.t → p.plane = [] → r.synced = true → collider g r x = none →
        TurnsTo .claimDecide s fun q => ∃ r' z, q.replica? s.ev.t s.ev.n = some r' ∧ r'.pend = [] ∧ r'.decided = z :: r.decided ∧ z.ticket = x.ticket
          ∧ (∀ m ∈ abs, (m, last) ∈ r'.marks)
          ∧ (if abs ≠ [] then r'.word (tkWord x.ticket) = r.word (tkWord x.ticket) ∧ fld z.word0 7 0 = 3
             else if (∀ o ∈ x.objs, last < o.2) then r'.word (tkWord x.ticket) = (x.value, (r.word (tkWord x.ticket)).2 + 1) ∧ fld z.word0 7 0 = 0
             else r'.word (tkWord x.ticket) = r.word (tkWord x.ticket) ∧ fld z.word0 7 0 = 1))
      ∧ (planeTime s p s.ev.t < x.t0 + g.w + g.d ∨ r.synced = false → Idles .claimDecide s)
      ∧ ((∃ m ∈ p.plane, m.gid = g.gid ∧ m.dst ∈ g.tiles ∧ m.stamp + g.d < planeTime s p s.ev.t) → Idles .claimDecide s))
    ∧ (∀ (g : Group) (r : Replica) (lost : List Nat) (t0 : Nat) (e : Roll) (m n stamp : Nat), t0 + g.w - g.skew < e.stamp → t0 + g.w - g.skew < stamp →
      (m ∈ absentFor g (r.learn e) lost t0 ↔ m ∈ absentFor g r lost t0) ∧ (m ∈ absentFor g (r.hear n stamp) lost t0 ↔ m ∈ absentFor g r lost t0))
    ∧ (∀ t h v x, s.ev.flag = false → p.collIn[s.ev.j]? = some (t, h, v) → s.slot? (hSlot h) = some x → x.open_ = none →
      later16 (hEpoch h) x.closed = true → hIdx h < x.devs.length → 1 < x.devs.length →
      ∃ u q, Machine.exec .collContributionArrive s = .next u ∧ u.plot? s.ev.p = some q ∧ q.collIn = p.collIn.eraseIdx s.ev.j ∧ q.cores = p.cores
        ∧ u.slot? (hSlot h) = some { x with open_ := some (hEpoch h, s.dev.time + x.timeout, [(hIdx h, v)]) })
    ∧ (∀ x ep dl kept, s.slot? s.ev.n = some x → x.open_ = some (ep, dl, kept) →
      (dl ≤ s.dev.time → ∃ u, Machine.exec .epochDeadline s = .next u
        ∧ u.slot? s.ev.n = some { x with closed := ep, open_ := none, kept := some (slotRecord x ep kept) })
      ∧ (s.dev.time < dl → Idles .epochDeadline s))
    ∧ (∀ r x w0 w1, p.collReqs[s.ev.j]? = some r → p.collReqs = [r] → s.slot? (hSlot r.h) = some x → hEpoch r.h = x.closed →
      x.kept = some (w0, w1) → ∃ u q m, Machine.exec .collResArrive s = .next u ∧ u.plot? s.ev.p = some q ∧ q.collReqs = []
        ∧ q.flights = p.flights ++ [{ dst := r.tag.cid, msg := m }] ∧ m.pay = [(r.off, wordsBytes [w0, w1])]
        ∧ m.body = .data r.pc (if w0.getLsbD 33 then 0xA7 else 0) (BitVec.ofNat 64 r.off) r.a0 r.a1 r.a2 r.a3 r.htop r.tag.wid none)

/-- R318, R320, R321, R340, R349 to R354, R359, R365, R367, R375, R376, R391: Haruesol and its functions. SVQ gives the oldest request;
the releases let a core go on; the watchdog aborts a service that is late; a page answer sends the runner back; a whole invalidation puts
PTROOT into effect; firmware switches. A function answers in g0 to g3, leaves the other registers, and the runner goes on behind its
`svc`. That NULL answers for an unlisted number is the model's choice (log 49). So is what a joining member copies (log 50); the table of
members is the plot's (log 46). COLL_ALLOC takes a list of devices at any alignment (log 58) and gives the lowest free slot number (log
96). That a tile without a plot switches too is from what the model keeps of it (log 96). -/
def Obligations.ServiceEvents : Prop :=
  ∀ (s : State) (p : Plot), On s p →
    let t := s.ev.t
    let j := s.ev.j
    let i := 32 * t + j
    let now := planeTime s p t
    (∀ x k rest r, p.tiles[t]? = some x → x.svc.svq = k :: rest → k < 32 → x.svc.slots[k]? = some (some r) →
      ((x.svc.stopped = true ∨ ∃ img, s.dev.svcNext = some img ∧ img.version ≠ x.svc.svver) → Idles .svqRead s)
      ∧ (x.svc.stopped = false → (∀ img, s.dev.svcNext = some img → img.version = x.svc.svver) →
        (r.cause ≠ 0x30 → r.cause ≠ 0x31 → (r.cause ≠ 0x0B ∨ p.debug = true) →
          Moves .svqRead s { s.dev with replies := [BitVec.ofNat 64 (k + 2 ^ 8 * r.cause.toNat + 2 ^ 63)] :: s.dev.replies } fun q =>
            q.cores = p.cores ∧ ∃ y, q.tiles[t]? = some y ∧ y.svc.svq = rest
              ∧ y.svc.slots = x.svc.slots.set k (some { r with taken := some now }))
        ∧ (∀ c, r.cause = 0x0B → p.debug = false → p.core? (32 * t + k) = some c → ∃ u q d, Machine.exec .svqRead s = .next u
            ∧ u.plot? s.ev.p = some q ∧ q.served t k = none ∧ q.core? (32 * t + k) = some d ∧ d.stint = none ∧ d.hold = .svrel)))
    ∧ ((svcOf p t).stopped = true → (∃ c, p.core? i = some c) → Idles .svrelWrite s)
    ∧ (∀ c, p.core? i = some c → c.hold = .svrel → c.report = none → (svcOf p t).stopped = false →
      (c.thrice = none →
        TurnsTo .svrelWrite s fun q => CoreIs p q i fun d => d.hold = .free ∧ d.back = (if s.ev.flag then none else c.back) ∧ SameRegs c d []
          ∧ d.runq = c.runq)
      ∧ (c.thrice.isSome = true → ∃ u q d, Machine.exec .svrelWrite s = .next u ∧ u.plot? s.ev.p = some q ∧ q.core? i = some d ∧ d.hold = .free
          ∧ d.back = none ∧ SameRegs c d [] ∧ d.runq = c.runq))
    ∧ (∀ r a c x, p.served t j = some r → r.taken = some a → p.core? i = some c → p.tiles[t]? = some x → x.svc.svlim ≠ 0 →
      (now < a + 1000 * x.svc.svlim.toNat → Idles .watchdogService s)
      ∧ (a + 1000 * x.svc.svlim.toNat ≤ now → (r.offered = false ∨ r.answered = true ∨ x.svc.stopped = true) → r.cause ≠ 0x0B ∨ p.debug = false →
        ∃ u q d, Machine.exec .watchdogService s = .next u ∧ u.plot? s.ev.p = some q ∧ q.served t j = none ∧ q.core? i = some d
          ∧ d.stint = none ∧ d.hold = .mbrel ∧ d.g = r.rcd.g))
    ∧ (∀ m tile c, s.dev.mboxes[s.ev.c]? = some m → (m.slots.any fun x => x.1 == s.ev.n) = true → s.ev.n < 1536 →
      s.tileAt (48 * s.ev.c + s.ev.n / 32) = some (s.ev.p, tile) → p.core? (32 * tile + s.ev.n % 32) = some c → c.hold = .mbrel →
      ∃ u q d m', Machine.exec .mbrelWrite s = .next u ∧ u.plot? s.ev.p = some q ∧ q.core? (32 * tile + s.ev.n % 32) = some d ∧ d.hold = .free
        ∧ d.back = (if s.ev.flag = true ∨ c.thrice.isSome = true then none else c.back) ∧ u.dev.mboxes[s.ev.c]? = some m' ∧ ∀ x ∈ m'.slots, x.1 ≠ s.ev.n)
    ∧ (∀ img, s.dev.svcNext = some img → s.ev.flag = true → s.dev.hasTile s.ev.n = true → s.tileAt s.ev.n = none →
      (s.dev.spareOf s.ev.n).svc.stopped = false → (s.dev.spareOf s.ev.n).svc.svver ≠ img.version →
      ∃ u, Machine.exec .fwSwitch s = .next u ∧ u.plots = s.plots ∧ u.dev.svcVer = img.version
        ∧ (u.dev.spareOf s.ev.n).svc.svver = img.version)
    ∧ (∀ img x, s.dev.svcNext = some img → s.ev.flag = false → p.tiles[t]? = some x → x.svc.stopped = false → x.svc.svver ≠ img.version →
      (∀ r, some r ∈ x.svc.slots → r.taken = none ∨ r.cause = 0x0B ∧ p.debug = true) →
      ∃ u q y, Machine.exec .fwSwitch s = .next u ∧ u.dev.svcVer = img.version ∧ u.plot? s.ev.p = some q ∧ q.tiles[t]? = some y
        ∧ y.svc.svver = img.version ∧ q.cores = p.cores)
    ∧ (let k := fld s.ev.v 13 5;
      let m := fld s.ev.v 4 0;
      let key := faultKey (32 * k + m);
      ∀ r c, s.barOk p = true → s.ev.flag = false → p.served k m = some r → r.offered = true → r.answered = false → (svcOf p k).stopped = false →
      p.core? (32 * k + m) = some c → (p.dropping.any fun x => x.key == key) = false →
      (s.ev.v.getLsbD 16 = false → (p.dropTlb key (some r.addr.toNat)).tlbQuiet key = false →
        TurnsTo .pfansWrite s fun q => q.served k m = some { r with answered := true, refused := false } ∧ q.cores = p.cores
          ∧ ∀ x ∈ q.tiles, ∀ y ∈ x.tlb, ¬(y.page ≤ r.addr.toNat ∧ r.addr.toNat < y.page + y.size))
      ∧ (s.ev.v.getLsbD 16 = false → (p.dropTlb key (some r.addr.toNat)).tlbQuiet key = true →
        Moves .pfansWrite s (s.counted p k r).dev fun q => q.served k m = none
          ∧ CoreIs p q (32 * k + m) fun d => d.hold = .free ∧ d.g = r.rcd.g ∧ d.pc = r.rcd.pc &&& 0xFFFFFFFFFFFF ∧ d.stint = c.stint)
      ∧ (s.ev.v.getLsbD 16 = true → ∃ u q d, Machine.exec .pfansWrite s = .next u ∧ u.plot? s.ev.p = some q
        ∧ q.core? (32 * k + m) = some d ∧ d.stint = none ∧ d.hold = .svrel))
    ∧ (s.ev.flag = false → s.barOk p = true → p.tlbinv.getLsbD 63 = false → s.ev.v.getLsbD 63 = true → s.ev.v.getLsbD 62 = true →
      (p.dropTlb hostKey none).tlbQuiet hostKey = true →
        TurnsTo .tlbinvWrite s fun q => q.tlbinv.getLsbD 63 = false ∧ q.ptrootEff = p.ptroot ∧ ∀ x ∈ q.tiles, x.tlb = [])
    ∧ (∀ r c, p.served t j = some r → r.taken.isSome = true → r.cause = 0x0C → (svcOf p t).stopped = false → p.core? i = some c →
      let dev := (s.counted p t r).dev
      let word (k : Nat) : Nat := (r.rcd.word k).toNat
      let answered (q : Plot) (status : Cause) (g1 g2 g3 : Word) : Prop := q.served t j = none ∧ ∃ d, q.core? i = some d ∧ d.hold = .free
        ∧ d.stBits 38 38 = 0 ∧ d.r 0 = status.setWidth 64 ∧ d.r 1 = g1 ∧ d.r 2 = g2 ∧ d.r 3 = g3 ∧ (∀ k : Reg, 3 < k.val → d.r k = r.rcd.g[k])
        ∧ d.off = BitVec.ofNat 32 (fld r.rcd.pc 31 0) + BitVec.ofNat 32 (p.lengthAt r.rcd.pc)
      let plain (q : Plot) (status : Cause) : Prop := answered q status r.rcd.g[1] r.rcd.g[2] r.rcd.g[3]
      (r.info = 0 → Moves .null s dev fun q => answered q 0 ((svcOf p t).svver.setWidth 64) r.rcd.g[2] r.rcd.g[3])
      ∧ (svcListed r.info.toNat = false → Moves .null s dev fun q => plain q 0x0A)
      ∧ (r.info = 0x010 → r.begun = none → word 1 ≤ 255 → 1 ≤ word 2 → word 2 ≤ 4096 → word 3 = 0 → word 4 = 0 → word 5 = 0 →
        (∀ x ∈ s.dev.peers, x.job ≠ p.job) → p.declared (word 1) = true →
        (p.group? (word 1) = none → Moves .clmDeclare s dev fun q => plain q 0
          ∧ q.groups = p.groups ++ [⟨word 1, word 2, 1000, 400, 20, none, false, 0, []⟩])
        ∧ ((p.group? (word 1)).isSome = true → Moves .clmDeclare s dev fun q => plain q 0x82 ∧ q.groups = p.groups))
      ∧ (∀ g, r.info = 0x011 → p.group? (word 1) = some g → word 2 < g.size → (g.live.any fun m => m.idx == word 2) = false → g.mine c.cid = none →
        (g.live.any (g.beyond s.dev)) = false → r.begun = none →
        (g.here = [] → (∃ m ∈ g.live, m.dev.isSome = true) → TurnsTo .clmJoin s fun q => q.served t j = some { r with begun := some 0 }
          ∧ ∃ y, q.replica? t g.gid = some y ∧ y.synced = false ∧ y.vals = [])
        ∧ ((∀ m ∈ g.live, m.dev = none) → Moves .clmJoin s dev fun q => plain q 0 ∧ ∃ g', q.group? g.gid = some g' ∧ g'.size = g.size
          ∧ g'.members = ⟨word 2, c.cid, c.lid, r.rcd.wid, 0, false, now, none⟩ :: g.members.filter fun m => m.idx != word 2))
      ∧ (r.info = 0x011 → r.begun.isSome = true →
        (p.joined t (word 1) = true → Moves .clmJoin s dev fun q => plain q 0) ∧ (p.joined t (word 1) = false → TurnsTo .clmJoin s fun q =>
          q.served t j = some { r with begun := some 0 } ∧ q.cores = p.cores))
      ∧ (∀ g m, r.info = 0x012 → p.group? (word 1) = some g → g.mine c.cid = some m → Moves .clmLeave s dev fun q => plain q 0
        ∧ ∃ g', q.group? g.gid = some g' ∧ g'.mine c.cid = none)
      ∧ (∀ g, r.info = 0x013 → p.group? (word 1) = some g → (g.members.any fun m => m.idx == word 2) = true →
        Moves .clmRemove s dev fun q => plain q 0 ∧ (∃ g', q.group? g.gid = some g' ∧ ∀ m ∈ g'.live, m.idx ≠ word 2)
          ∧ (q.replica? t g.gid = (p.replica? t g.gid).map fun y => { y with roll := ⟨word 2, p.clock s.dev t, .remove⟩ :: y.roll })
          ∧ ((s.dev.syncLost && g.span) = false → ∀ k ∈ g.tiles, k ≠ t → p.cut.contains (t, k) = false →
              ⟨t, k, g.gid, p.clock s.dev t, .remove (word 2), 0, false⟩ ∈ q.plane))
      ∧ (∀ g, r.info = 0x014 → p.group? (word 1) = some g → Moves .clmDissolve s dev fun q => plain q 0 ∧ q.group? g.gid = none)
      ∧ (∀ n, r.info = 0x100 → word 1 ≤ 3 → 1 ≤ word 2 → word 2 ≤ 64 → 1 ≤ word 3 → word 3 ≤ 1000000 → word 4 + 4 * word 2 ≤ 0x38000 →
        let devs := (List.range (word 2)).map fun k => c.lm.num (word 4 + 4 * k) 4
        (∀ d ∈ devs, s.jobDev p d = true) → (s.dev.slots.filter fun x => x.owner == s.ev.p && x.job == p.job).length < p.swshare →
        n < 4096 → s.slot? n = none → (∀ k, k < n → (s.slot? k).isSome = true) → n ≤ s.dev.slots.length →
        let new : SwSlot := ⟨n, p.job, s.ev.p, word 1, devs, 1000 * word 3, 0, none, 0, none, s.fresh⟩
        Moves .collAlloc s { dev with slots := new :: s.dev.slots } fun q =>
          answered q 0 (BitVec.ofNat 64 (n + 2 ^ 32)) r.rcd.g[2] r.rcd.g[3])
      ∧ (∀ x, r.info = 0x101 → s.slot? (fld (r.rcd.word 1) 11 0) = some x →
        (x.owner = s.ev.p → ∃ u q, Machine.exec .collFree s = .next u ∧ u.slot? x.num = none ∧ u.plot? s.ev.p = some q ∧ plain q 0)
        ∧ (x.owner ≠ s.ev.p → Moves .collFree s dev fun q => plain q 0xA8))
      ∧ (r.info = 0x102 → word 1 ≤ 7 →
        let lanes (i : Nat) : Nat := ((s.dev.ports[i]?).map (·.lanes)).getD 0
        (∀ i, i < 24 → lanes i < 16) → (∀ x ∈ s.dev.hbm, x < 256) → Moves .shape s dev fun q => ∃ g2 g3,
          answered q 0 (BitVec.ofNat 64 (s.dev.dieTiles.getD (word 1) 0)) g2 g3
          ∧ (∀ i, i < 16 → fld g2 (4 * i + 3) (4 * i) = lanes i) ∧ (∀ i, i < 8 → fld g3 (4 * i + 3) (4 * i) = lanes (16 + i))
          ∧ fld g3 39 32 = s.dev.hbm.getD (2 * word 1) 0 ∧ fld g3 47 40 = s.dev.hbm.getD (2 * word 1 + 1) 0))

/-- R6, R37, R188, R229 to R231, R370 to R372, R392, R393, R395: the host. An entry of an enabled queue with room is written at PI and
its interrupt follows it; CI and EN change; BAR2 writes bytes to plot memory, reads them as a load at home does, and does AtomicOps of 4
and 8 bytes; heartbeats are taken; when the link goes down, or 100 ms pass without a heartbeat, the host is lost and every TDI of a lost
link enters ERROR; the host returns, and the PF takes control. The 64 bytes of a parked entry, the order after a return and the event
ring of a host loss are the model's (log 25, 85, 86). -/
def Obligations.HostEvents : Prop :=
  ∀ (s : State),
    (∀ p, On s p →
      (∀ n t ws rest a, s.ev.flag = false → p.hqIn = (n, t, ws) :: rest → n < p.hqs.length →
        let q := p.hqs.getD n {}
        q.ok = true → q.full = false → q.pia = 0 → s.dev.hostlost = false → p.parkHold = 0 → p.park = [] →
        p.hostAt (fld q.base 47 0 + 64 * (q.pi.toNat % 2 ^ fld q.base 51 48)) = some a →
        TurnsTo .hostQueueEntryWrite s fun r => r.hqIn = rest ∧ r.hqs = p.hqs.set n { q with pi := q.pi + 1 } ∧ ∃ e,
          r.link = p.link ++ [.mem e, .msix n] ∧ e.line = lineOf a ∧ e.act = storeAct a (wordsBytes (hqWords ws q.pi)))
      ∧ (s.barOk p = true → p.park = [] → s.ev.n < p.hqs.length →
        let q := p.hqs.getD s.ev.n {}
        TurnsTo .hqciWrite s (fun r => r.hqs = p.hqs.set s.ev.n { q with ci := s.ev.v.setWidth 32 } ∧ r.cores = p.cores)
        ∧ TurnsTo .hostQueueDisable s fun r => r.hqs = p.hqs.set s.ev.n { q with base := s.ev.v &&& 0xFFFFFFFFFFFFF } ∧ r.cores = p.cores)
      ∧ (s.barOk p = false → ∀ i, i = .hqciWrite ∨ i = .hostQueueDisable ∨ i = .hostBar2Read ∨ i = .hostAtomicop →
        Sets i s { s.dev with replies := [1] :: s.dev.replies })
      ∧ (s.barOk p = true →
        let a := s.ev.v.toNat
        let k := s.ev.bytes.length
        (s.ev.flag = false → k ≠ 0 → a % 64 + k ≤ 64 → a + k ≤ p.memsz → p.mem.wf = true → TurnsTo .hostBar2Write s fun q => q.mem = p.mem
          ∧ ∀ x, q.home.get x = if a ≤ x ∧ x < a + k then s.ev.bytes.getD (x - a) 0 else p.home.get x)
        ∧ (s.ev.n ≠ 0 → a + s.ev.n ≤ p.memsz → p.memErr = [] →
          Sets .hostBar2Read s { s.dev with replies := (0 :: bytesWords (p.home.bytes a s.ev.n)) :: s.dev.replies })
        ∧ (p.memsz < a + s.ev.n → Sets .hostBar2Read s { s.dev with replies := [1] :: s.dev.replies })
        ∧ ((s.ev.op = .add ∨ s.ev.op = .swap) → (s.ev.n = 4 ∨ s.ev.n = 8) → a % s.ev.n = 0 → a + s.ev.n ≤ p.memsz → p.memErr = [] → p.wq = [] →
          let w := s.ev.n == 8
          let old := p.mem.num a s.ev.n
          let new := if s.ev.op = .add then old + aopArg w s.ev.w else aopArg w s.ev.w
          Moves .hostAtomicop s { s.dev with replies := [0, BitVec.ofNat 64 old] :: s.dev.replies } fun q =>
            q.mem = p.mem.write a (leBytes s.ev.n (new % 2 ^ (8 * s.ev.n))))))
    ∧ (∀ (p : Plot) (o : Fin 8), p.bar0 (8 * o.val) = p.mailbox.getD o.val 0 &&& mailboxMask o.val)
    ∧ fld (mailboxMask 0) 63 48 = 0 ∧ fld (mailboxMask 1) 63 60 = 0 ∧ fld (mailboxMask 5) 7 5 = 0 ∧ fld (mailboxMask 6) 63 48 = 0
    ∧ (s.ev.flag = true → Sets .hostBar2Write s { s.dev with staged := some s.ev.img })
    ∧ (s.dev.linkUp = true → Sets .hostbeatWrite s
        { s.dev with beat := s.ev.v &&& 0xFFFFFFFF00000001, beatAt := s.dev.time, beatSince := true })
    ∧ (s.dev.linkUp = false → Idles .hostbeatWrite s ∧ Idles .devctlTake s)
    ∧ (s.dev.linkUp = true → Sets .devctlTake s { s.dev with pfOwns := true })
    ∧ (s.dev.hostlost = false →
      let late := s.dev.beat.getLsbD 0 = true ∧ s.dev.beatAt + 100000000 ≤ s.dev.time
      (s.ev.flag = true ∧ s.dev.linkUp = true ∨ late → ∃ u, Machine.exec .hostLost s = .next u ∧ u.dev.hostlost = true ∧ u.dev.pfOwns = false
        ∧ (s.ev.flag = true → u.dev.linkUp = false ∧ (s.dev.linkUp = true → ∀ n, 1 ≤ n → n ≤ 128 → (u.dev.vf n).tdi = .error))
        ∧ (s.ev.flag = false → u.dev.linkUp = s.dev.linkUp ∧ u.dev.vfs = s.dev.vfs))
      ∧ (¬(s.ev.flag = true ∧ s.dev.linkUp = true) → ¬late → Idles .hostLost s))
    ∧ (s.dev.hostlost = true → s.dev.linkUp = true ∨ s.ev.flag = true → (s.dev.beat.getLsbD 0 = false ∨ s.dev.beatSince = true) →
      ∃ u, Machine.exec .hostReturn s = .next u ∧ u.dev.hostlost = false ∧ u.dev.linkUp = true ∧ u.dev.vfs = s.dev.vfs)

/-- R8, R15, R359, R370, R373, R377 to R380, R382, R383, R394 to R398: the device. A start reaches READY, or fails and resets the device,
and the third failure in a row, or 60 s, counts too; a restart leaves no plot; images are accepted or not; the PF makes, resizes and
tears down plots of unlocked functions and drives a locked one into ERROR; registers take their writable fields; errors are injected,
found by the scrub and logged; SPDM requests are answered when the exchange has come so far, else with ERROR; TDISP moves a TDI; a broken
stream drives its TDIs into ERROR. The response codes are SPDM's (log 53), a restart keeps what log 56 names, and the ERROR of a change
to a locked function is deduced from R377 (log 57). So are the moment at which an injection strikes (log 26) and when a plot may be made
(log 84). What a tile keeps while no plot holds it is the model's reading (log 96). -/
def Obligations.DeviceEvents : Prop :=
  ∀ (s : State),
    (s.dev.linkUp = true → s.dev.pfOwns = true → ∃ t, Machine.exec .devctlRestart s = .next t ∧ t.plots = [] ∧ t.dev.devstat = 0 ∧ t.dev.vfs = [] ∧ t.dev.hostlost = false
      ∧ t.dev.inj = 0 ∧ t.dev.slots = [] ∧ t.dev.time = s.dev.time ∧ t.dev.host = s.dev.host)
    ∧ (s.dev.linkUp = false ∨ s.dev.pfOwns = false → Idles .devctlRestart s)
    ∧ (s.dev.devstat = 0 →
      (s.ev.fail = none → s.dev.bootAt + 60000000000 ≤ s.dev.time → s.dev.fails.toNat < 2 → ∃ t, Machine.exec .deviceStart s = .next t
        ∧ t.dev.devstat = 0 ∧ t.dev.fails = s.dev.fails + 1 ∧ t.dev.reason = 5)
      ∧ (s.ev.fail = none → s.dev.time < s.dev.bootAt + 60000000000 → ∃ t, Machine.exec .deviceStart s = .next t ∧ t.dev.devstat = 1 ∧ t.dev.fails = 0 ∧ t.plots = s.plots
        ∧ (s.ev.nums = [] → t.dev.dieTiles = s.dev.dieTiles ∧ t.dev.hbm = s.dev.hbm ∧ t.dev.ports = s.dev.ports)
        ∧ (s.ev.nums.length = 48 → t.dev.dieTiles = (s.ev.nums.take 8).map (min 48 ·) ∧ t.dev.hbm = ((s.ev.nums.drop 8).take 16).map (min 32 ·)
          ∧ ∀ i (x : Port), s.dev.ports[i]? = some x → t.dev.ports[i]? = some { x with lanes := min x.lanes (s.ev.nums.getD (24 + i) 0) }))
      ∧ (∀ r x, s.ev.fail = some (r, x) → s.dev.fails.toNat < 2 → ∃ t, Machine.exec .deviceStart s = .next t ∧ t.plots = [] ∧ t.dev.devstat = 0
        ∧ t.dev.fails = s.dev.fails + 1 ∧ t.dev.reason = BitVec.ofNat 4 r)
      ∧ (∀ r x, s.ev.fail = some (r, x) → 2 ≤ s.dev.fails.toNat → ∃ t, Machine.exec .deviceStart s = .next t ∧ t.dev.devstat = 2)
      ∧ (s.dev.bootAt + 60000000000 ≤ s.dev.time → s.dev.fails.toNat < 2 → ∃ t, Machine.exec .startTimeout s = .next t
        ∧ t.dev.fails = s.dev.fails + 1 ∧ t.dev.reason = 5)
      ∧ (s.dev.time < s.dev.bootAt + 60000000000 → Idles .startTimeout s))
    ∧ (s.dev.devstat ≠ 0 → Idles .deviceStart s ∧ Idles .startTimeout s)
    ∧ (s.ev.flag = true → s.dev.linkUp = true → Sets .fwctlCommit s { s.dev with fwResult := 1 })
    ∧ (s.ev.flag = false → s.dev.staged = none → Sets .fwctlCommit s { s.dev with fwResult := 3 })
    ∧ (∀ i, s.ev.flag = false → s.dev.staged = some i → Sets .fwctlCommit s
        (if i.signed = false then { s.dev with fwResult := 3 } else if i.secVersion < s.dev.minSec then { s.dev with fwResult := 4 }
         else match i.kind with
           | .service => { s.dev with fwResult := 2, svcNext := some i }
           | .mgmt => { s.dev with fwResult := 2, mgmtNext := some i }
           | .rot => { s.dev with fwResult := 2, rotNext := some i }))
    ∧ (s.dev.devstat = 1 → s.ev.p < 16 → (∀ q ∈ s.plots, q.pid ≠ s.ev.p) → 1 ≤ s.ev.n → s.ev.n ≤ 128 → (s.dev.vf s.ev.n).plot = none →
        (s.dev.vf s.ev.n).tdi = .unlocked → 0 < s.ev.v.toNat → s.ev.v.toNat % 65536 = 0 → s.ev.v.toNat < 2 ^ 40 →
        s.tilesOk s.ev.p s.ev.nums = true → (s.plots.map fun q => q.memsz + q.pool).sum + s.ev.v.toNat ≤ s.dev.capacity →
        let bare (v : Vf) : Vf := if v.plot = some s.ev.p then { v with plot := none } else v
        Moves .plotCreate s ((({ s.dev with vfs := s.dev.vfs.map bare } : Device).gives s.ev.nums).modVf s.ev.n fun v =>
            { v with plot := some s.ev.p }) fun q => q.vf = s.ev.n ∧ q.memsz = s.ev.v.toNat
          ∧ q.job = s.ev.w.setWidth 32 ∧ q.mem = [] ∧ q.launches = [] ∧ q.tiles.length = s.ev.nums.length ∧ q.cores.length = 32 * s.ev.nums.length
          ∧ (∀ x ∈ q.tiles, x.num ∈ s.ev.nums) ∧ (∀ i x y, q.tiles[i]? = some x → q.tiles[i + 1]? = some y → x.num < y.num)
          ∧ (∀ i c, q.core? i = some c → i < 2 ^ 14 → c.cid.toNat = i ∧ c.stint = none ∧ c.runq = [] ∧ c.lm = []
              ∧ ∀ x, q.tiles[i / 32]? = some x → c.cyc = (s.dev.spareOf x.num).cycs.getD (i % 32) 0))
    ∧ (s.dev.devstat = 1 → s.ev.p < 16 → 1 ≤ s.ev.n → s.ev.n ≤ 128 → (s.dev.vf s.ev.n).tdi = .locked ∨ (s.dev.vf s.ev.n).tdi = .run →
        Sets .plotCreate s (s.dev.tdiError s.ev.n))
    ∧ (∀ p, On s p → p.torn = false →
      (s.tdi p = .unlocked →
        (p.idle = true → s.tilesOk p.pid s.ev.nums = true → Moves .plotResize s ((s.dev.getsBack (p.frees s.ev.nums)).gives s.ev.nums) fun q => q.mem = p.mem ∧ q.tiles.length = s.ev.nums.length
          ∧ q.cores.length = 32 * s.ev.nums.length ∧ ∀ x ∈ q.tiles, x.num ∈ s.ev.nums
            ∧ ∀ y, p.tiles.find? (fun z => z.num == x.num) = some y → { x with svc := { x.svc with ctx := { x.svc.ctx with cid := y.svc.ctx.cid } } } = y)
        ∧ (p.idle = false → Idles .plotResize s)
        ∧ (s.ev.flag = !s.dev.pfOwns → p.link = [] → (∀ x ∈ s.dev.slots, x.owner ≠ s.ev.p) → (∀ w ∈ p.waiters, w.op.home = none) →
          Moves .plotTeardown s (s.dev.getsBack (p.frees [])) fun q => q.torn = true ∧ q.vf = p.vf ∧ q.cores = [] ∧ q.tiles = []
            ∧ q.launches = []))
      ∧ (s.tdi p = .locked ∨ s.tdi p = .run → Sets .plotResize s (s.dev.tdiError p.vf)
        ∧ (s.ev.flag = !s.dev.pfOwns → Sets .plotTeardown s (s.dev.tdiError p.vf)))
      ∧ (s.ev.flag = s.dev.pfOwns → Idles .plotTeardown s))
    ∧ (1 ≤ s.ev.n → s.ev.n ≤ 128 → s.dev.devstat ≠ 2 → Sets .functionReset s (s.dev.tdiError s.ev.n))
    ∧ (∀ p, On s p → s.barOk p = true →
      (∀ n, s.ev.reg = .hqPia n → n.val < p.hqs.length →
        Turns .registerWrite s { p with hqs := p.hqs.set n.val { p.hqs.getD n.val {} with pia := s.ev.v &&& 0xFFFFFFFFFFFF } })
      ∧ (s.ev.reg = .ptroot → Turns .registerWrite s { p with ptroot := s.ev.v &&& 0xFFFFFFF001 })
      ∧ (s.ev.reg = .pfqBase → Turns .registerWrite s { p with pfqBase := s.ev.v &&& 0x800FFFFFFFFFFFFF })
      ∧ (s.ev.reg = .pfqCi → Turns .registerWrite s { p with pfqCi := s.ev.v.setWidth 32 })
      ∧ (∀ o, s.ev.reg = .mailbox o → Turns .registerWrite s { p with mailbox := p.mailbox.set o.val s.ev.v }))
    ∧ (s.dev.linkUp = true → (s.ev.reg = .injAddr → s.dev.inj.getLsbD 6 = false → Sets .registerWrite s { s.dev with injAddr := s.ev.v })
      ∧ (s.ev.reg = .fwLen → Sets .registerWrite s { s.dev with fwLen := s.ev.v.setWidth 32 }))
    ∧ (s.ev.reg = .readOnly → Idles .registerWrite s)
    ∧ (s.dev.devstat = 2 → Idles .injArm s)
    ∧ (s.dev.devstat ≠ 2 → s.ev.flag = true → s.dev.inj.getLsbD 6 = false →
        Sets .injArm s { s.dev with inj := s.ev.v.setWidth 7 &&& 0x3F, injPlot := s.ev.p })
    ∧ (∀ p c, s.dev.devstat ≠ 2 → s.ev.flag = false → s.dev.inj.getLsbD 6 = false → On s p → s.ev.v.toNat % 16 = 0 → fld s.ev.v 5 4 = 2 → p.core? (fld s.dev.injAddr 31 18) = some c →
        Moves .injArm s { s.dev with inj := (s.ev.v.setWidth 7 &&& 0x3F) ||| 0x40, injPlot := s.ev.p } fun q => CoreIs p q (fld s.dev.injAddr 31 18) fun d =>
          d.lmErr = (8 * (fld s.dev.injAddr 17 0 / 8)) :: c.lmErr)
    ∧ (∀ p c, s.dev.devstat ≠ 2 → s.ev.flag = true → s.dev.inj.getLsbD 6 = true → s.dev.inj.toNat % 16 = 0 → s.dev.inj.toNat / 16 % 4 = 2 →
        s.dev.injPlot = s.ev.p → On s p → p.core? (fld s.dev.injAddr 31 18) = some c →
        Moves .injArm s { s.dev with inj := s.ev.v.setWidth 7 &&& 0x3F } fun q => CoreIs p q (fld s.dev.injAddr 31 18) fun d =>
          d.lmErr = c.lmErr.erase (8 * (fld s.dev.injAddr 17 0 / 8)))
    ∧ (∀ (u : Nat) (o : Out) (t : State), (s.dev.strikes = false → struck s (some u) o = o) ∧ struck s none o = o
        ∧ (s.dev.strikes = true → t ≠ s → ∃ v, struck s (some u) (.next t) = .next v ∧ v.dev.inj.getLsbD 6 = false))
    ∧ (s.dev.strikes = true → s.dev.inj.getLsbD 6 = true ∧ fld (s.dev.inj.setWidth 64) 5 4 ≠ 0)
    ∧ (∀ p cause, On s p → p.torn = false → 64 * s.ev.n < p.memsz → p.lineErr s.ev.n = some cause → ∃ t q e, Machine.exec .patrolScrub s = .next t
        ∧ (NewError s.dev cause.toNat (BitVec.ofNat 64 (64 * s.ev.n)) → t.dev.errCount = s.dev.errCount + 1) ∧ t.plot? s.ev.p = some q ∧ q.errlog.head? = some e ∧ fld (e.getD 0 0) 7 0 = cause.toNat
        ∧ e.getD 1 0 = BitVec.ofNat 64 (64 * s.ev.n) ∧ q.memErr = p.memErr)
    ∧ (s.ev.nums = [] → Sets .lifetimeCounterWrite s s.dev.saved)
    ∧ (∀ name n, s.ev.nums = [] → s.dev.lifeNew = [(name, n)] → s.dev.time < s.dev.hoursAt + 3600000000000 → ∃ t, Machine.exec .lifetimeCounterWrite s = .next t ∧ t.dev.lifeNew = []
        ∧ t.dev.life.lookup name = some (min (2 ^ 64 - 1) ((s.dev.life.lookup name).getD 0 + n)))
    ∧ (s.dev.linkUp = true → s.dev.devstat ≠ 2 ∨ s.ev.n = 0 →
      let f := s.dev.vf s.ev.n
      let answers (i : Instr) (ok : Prop) (code spdm session : Nat) : Prop := ∃ t, Machine.exec i s = .next t ∧ t.plots = s.plots ∧
        let g := t.dev.vf s.ev.n
        (ok → g.resp.map (·.1) = some code ∧ g.spdm = spdm ∧ g.session = session)
        ∧ (¬ok → g.resp = some (0x7F, []) ∧ g.spdm = f.spdm ∧ g.session = f.session) ∧ g.tdi = f.tdi ∧ g.plot = f.plot
      answers .getVersion True 0x04 1 0
      ∧ answers .getCapabilities (1 ≤ f.spdm) 0x61 (max 2 f.spdm) f.session
      ∧ answers .negotiateAlgorithms (2 ≤ f.spdm) 0x63 3 f.session
      ∧ answers .getDigests (3 ≤ f.spdm) 0x01 f.spdm f.session
      ∧ answers .getCertificate (3 ≤ f.spdm ∧ s.ev.j = 0) 0x02 f.spdm f.session
      ∧ answers .challenge (3 ≤ f.spdm) 0x03 f.spdm f.session
      ∧ answers .getMeasurements (3 ≤ f.spdm ∧ 1 ≤ s.ev.j ∧ s.ev.j ≤ 6 ∧ (s.ev.j = 6 → s.ev.n ≠ 0)) 0x60 f.spdm f.session
      ∧ answers .keyExchange (3 ≤ f.spdm ∧ f.session = 0) 0x64 f.spdm 1
      ∧ answers .finish (f.session = 1) 0x65 f.spdm 2
      ∧ answers .keyUpdate (f.session = 2) 0x69 f.spdm f.session
      ∧ answers .endSession (f.session = 2) 0x6C f.spdm 0
      ∧ (∃ t, Machine.exec .vendorDefined s = .next t ∧ let g := t.dev.vf s.ev.n
          (f.session ≠ 2 → g.resp = some (0x7F, []) ∧ g.tdi = f.tdi)
          ∧ (f.session = 2 →
            (s.ev.vendor = .tdispLock → g.tdi = if f.tdi = .unlocked then .locked else f.tdi)
            ∧ (s.ev.vendor = .tdispStart → g.tdi = if f.tdi = .locked then .run else f.tdi)
            ∧ (s.ev.vendor = .tdispStop → g.tdi = .unlocked)
            ∧ (∀ k, s.ev.vendor = .ideKey k → g.keys = [k] ∧ g.tdi = f.tdi)
            ∧ (s.ev.vendor = .tdispReport → g.resp = some (0x7E, s.tdiReport s.ev.n) ∧ g.tdi = f.tdi)
            ∧ (s.ev.vendor = .tdispState → g.resp = some (0x7E, [tdiCode f.tdi]) ∧ g.tdi = f.tdi)
            ∧ (s.ev.vendor = .counters → g.resp = (if s.ev.n = 0 then some (0x7E, s.dev.counters) else some (0x7F, [])) ∧ g.tdi = f.tdi))))
    ∧ (∃ t, Machine.exec .ideIntegrity s = .next t ∧ t.plots = s.plots ∧ t.dev.vfs = s.dev.vfs.map fun v =>
        if v.keys.contains s.ev.n then { v with tdi := .error, keys := v.keys.filter fun x => x != s.ev.n } else v)

/-- R355, R357, R385, R387 to R389: the fabric. A flit that fails its CRC is replayed and logged, three times at most before the port
retrains, and with an empty bucket a lane is retired; the bucket refills every 450 s; a discarded packet is repeated 1 us later, and
after the eighth repeat the operation ends with FABRIC_ABORT (log 60); a peer performs an access, refuses it, or has no room yet; an
access of a peer acts on the memory of the plot of its job; synchronisation is lost after 10 ms with every port down, and returns. Failed
tags as inputs, and die 0 for the events of the ports, are the model's (log 65, 87); so is the INFO of a refused access, 1 (log 77). -/
def Obligations.FabricEvents : Prop :=
  ∀ (s : State),
    (∀ x, s.dev.ports[s.ev.n]? = some x → x.up = true →
      let before := if s.ev.flag then x.replays else 0
      (before < 3 → ∃ t y, Machine.exec .linkReplay s = .next t ∧ t.plots = s.plots ∧ t.dev.ports = s.dev.ports.set s.ev.n y
        ∧ y = { x with replays := before + 1 }
        ∧ (NewError s.dev 0xA0 (BitVec.ofNat 64 s.ev.n) → t.dev.errCount = s.dev.errCount + 1))
      ∧ (3 ≤ before → ∃ t y, Machine.exec .linkReplay s = .next t ∧ t.plots = s.plots ∧ t.dev.ports = s.dev.ports.set s.ev.n y
        ∧ y.retraining = some s.dev.time ∧ y.bucket = x.bucket - 1 ∧ y.replays = 0
        ∧ y.lanes = (if x.bucket = 0 then x.lanes - 1 else x.lanes)
        ∧ (NewError s.dev 0xA2 (BitVec.ofNat 64 s.ev.n) → t.dev.errCount = s.dev.errCount + 1)))
    ∧ (∀ x, s.dev.ports[s.ev.n]? = some x →
      (x.up = false → Idles .linkReplay s)
      ∧ Sets .retrainBucketRefill s (if s.dev.time < x.refillAt + 450000000000 then s.dev
          else { s.dev with ports := s.dev.ports.set s.ev.n { x with bucket := min 8 (x.bucket + 1), refillAt := s.dev.time } })
      ∧ Sets .retrainingComplete s (if x.lanes = 0 then s.dev else { s.dev with ports := s.dev.ports.set s.ev.n { x with retraining := none } }))
    ∧ (∀ p e, On s p → p.fabric[s.ev.j]? = some e → s.fabClear e.peer e.fabNo = true →
      (e.aborted = false → TurnsTo .fabricAbortFlit s fun q =>
        q.fabric = p.fabric.set s.ev.j { e with aborts := e.aborts + 1, aborted := true, nextTry := s.dev.time + 1000 })
      ∧ (e.aborted = true → s.dev.time < e.nextTry → Idles .fabricRepeat s)
      ∧ (e.aborted = true → e.nextTry ≤ s.dev.time →
        (e.aborts ≤ 8 → TurnsTo .fabricRepeat s fun q => q.fabric = p.fabric.set s.ev.j { e with aborted := false })
        ∧ (∀ t, 8 < e.aborts → e.act.returns = true → e.tags = [t] → Waits p t → TurnsTo .fabricRepeat s fun q =>
          q.fabric = p.fabric.eraseIdx s.ev.j ∧ Fails q t 0xA9 (BitVec.ofNat 64 e.va) (BitVec.ofNat 64 e.aborts)))
      ∧ (∀ x o w u a b cmp t y, s.ev.opt = none → s.dev.ports[s.ev.n]? = some x → x.up = true → e.aborted = false → e.nextTry ≤ s.dev.time →
        e.act = .atom o w u a b cmp true → e.tags = [t] → Waits p t → s.dev.peers.find? (fun z => z.dev == e.peer) = some y →
        (y.job = p.job → a < y.memsz →
          (s.ev.flag = false → Moves .fabricPeerAccess s
              { s.dev with peers := s.dev.peers.map fun z => if z.dev = e.peer then { z with mem := (applyAct y.mem e.act).1 } else z } fun q =>
            q.fabric = p.fabric.eraseIdx s.ev.j ∧ Got q t [BitVec.ofNat 64 (y.mem.num a (aopSize w))])
          ∧ (s.ev.flag = true → e.tries + 1 < p.rtries →
            let e' := { e with tries := e.tries + 1, nextTry := s.dev.time + min (200 * 2 ^ e.tries) 100000 }
            TurnsTo .fabricPeerAccess s fun q => q.fabric = p.fabric.set s.ev.j e')
          ∧ (s.ev.flag = true → p.rtries ≤ e.tries + 1 → TurnsTo .fabricPeerAccess s fun q => q.fabric = p.fabric.eraseIdx s.ev.j
            ∧ Fails q t 0x40 (BitVec.ofNat 64 e.va) (BitVec.ofNat 64 (e.tries + 1))))
        ∧ (y.job ≠ p.job → TurnsTo .fabricPeerAccess s fun q => q.fabric = p.fabric.eraseIdx s.ev.j
            ∧ Fails q t 0xA9 (BitVec.ofNat 64 e.va) 1))
      ∧ (∀ x y, s.ev.opt = none → s.dev.ports[s.ev.n]? = some x → x.up = true → e.aborted = false → e.nextTry ≤ s.dev.time → s.ev.flag = false →
        s.dev.peers.find? (fun z => z.dev == e.peer) = some y → y.job = p.job →
        let holds (m : Memory) : Device := { s.dev with peers := s.dev.peers.map fun z => if z.dev = e.peer then { z with mem := m } else z }
        (∀ b bs, e.act = .store (b :: bs) → b.1 < y.memsz →
          Moves .fabricPeerAccess s (holds ((b :: bs).foldl (fun m x => m.setMasked x.1 x.2.1 x.2.2) y.mem)) fun q =>
            q.fabric = p.fabric.eraseIdx s.ev.j)
        ∧ (∀ a n t, e.act = .read a n → a < y.memsz → e.tags = [t] → Waits p t → Moves .fabricPeerAccess s (holds y.mem) fun q =>
            q.fabric = p.fabric.eraseIdx s.ev.j ∧ Got q t [BitVec.ofNat 64 (y.mem.num a n)])))
    ∧ (∀ p k, s.plots = [p] → p.torn = false → p.job = s.ev.w.setWidth 32 → s.ev.opt = some k → s.ev.v.toNat + s.ev.t ≤ p.memsz → p.memErr = [] →
      k = 0 → fabricForm 0 s.ev.v.toNat s.ev.t = true → Sets .fabricPeerAccess s { s.dev with replies := (0 :: bytesWords (p.home.bytes s.ev.v.toNat s.ev.t)) :: s.dev.replies })
    ∧ (∀ k, s.ev.opt = some k → k = 3 ∨ (∀ p ∈ s.plots, p.torn = true ∨ p.job ≠ s.ev.w.setWidth 32)
        ∧ fabricForm k s.ev.v.toNat (if k = 1 then s.ev.bytes.length else s.ev.t) = true →
      ∃ t, Machine.exec .fabricPeerAccess s = .next t ∧ t.plots = s.plots
        ∧ (NewError s.dev 0xB0 s.ev.v → t.dev.errCount = s.dev.errCount + 1) ∧ t.dev.replies = s.dev.replies)
    ∧ ((s.ev.flag = true ∨ ∀ x ∈ s.dev.ports, ∃ t, x.retraining = some t ∧ t + 10000000 ≤ s.dev.time) →
        Sets .fabricSyncLoss s { s.dev with syncLost := true })
    ∧ ((∃ x ∈ s.dev.ports, x.up = true) → Sets .fabricSyncReturn s { s.dev with syncLost := false })
    ∧ ((∀ x ∈ s.dev.ports, x.up = false) → Idles .fabricSyncReturn s)
end

