-- ==== Sys2Proof/Laws/Fields.lean ====
section
/-! SUPPORT. Bit fields of a word: what a field reads after a field has been written. -/
namespace Sys2Proof.Machine

theorem testBit_mask (n lo i : Nat) : ((2 ^ n - 1) * 2 ^ lo).testBit i = (decide (lo ≤ i) && decide (i < lo + n)) := by
  rw [Nat.testBit_mul_two_pow, Nat.testBit_two_pow_sub_one]
  by_cases h : lo ≤ i
  · simp only [h, decide_true, Bool.true_and]; congr 1; simp only [eq_iff_iff]; omega
  · simp [h]

theorem testBit_place (n lo v i : Nat) :
    (v % 2 ^ n * 2 ^ lo).testBit i = (decide (lo ≤ i) && decide (i < lo + n) && v.testBit (i - lo)) := by
  rw [Nat.testBit_mul_two_pow, Nat.testBit_mod_two_pow]
  by_cases h : lo ≤ i
  · simp only [h, decide_true, Bool.true_and]; congr 1; simp only [decide_eq_decide]; omega
  · simp [h]

/-- Bit i of a word after a field has been written. -/
theorem getLsbD_setFld (w : Word) (lo n v i : Nat) (h : lo + n ≤ 64) :
    (setFld w lo n v).getLsbD i = if lo ≤ i ∧ i < lo + n then v.testBit (i - lo) else w.getLsbD i := by
  unfold setFld
  simp only [BitVec.getLsbD_or, BitVec.getLsbD_and, BitVec.getLsbD_not, BitVec.getLsbD_ofNat, testBit_mask, testBit_place]
  by_cases hi : i < 64
  · by_cases h1 : lo ≤ i <;> by_cases h2 : i < lo + n <;> simp [hi, h1, h2]
  · have h3 : ¬ (lo ≤ i ∧ i < lo + n) := by omega
    rw [if_neg h3, BitVec.getLsbD_of_ge _ _ (by omega)]; simp [hi]

/-- Bit i of a field. -/
theorem testBit_fld (w : Word) (hi lo i : Nat) : (fld w hi lo).testBit i = (decide (i < hi + 1 - lo) && w.getLsbD (lo + i)) := by
  unfold fld
  rw [Nat.testBit_mod_two_pow, Nat.testBit_div_two_pow, Nat.add_comm i lo]; rfl

/-- A field that has been written reads the value written. -/
theorem fld_setFld_self (w : Word) (lo n v : Nat) (hn : 0 < n) (h : lo + n ≤ 64) : fld (setFld w lo n v) (lo + n - 1) lo = v % 2 ^ n := by
  apply Nat.eq_of_testBit_eq; intro i
  rw [testBit_fld, getLsbD_setFld _ _ _ _ _ h, Nat.testBit_mod_two_pow]
  have e1 : lo + n - 1 + 1 - lo = n := by omega
  have e2 : lo + i - lo = i := by omega
  by_cases hi : i < n
  · have h2 : lo ≤ lo + i ∧ lo + i < lo + n := by omega
    simp [e1, e2, hi, h2]
  · simp [e1, hi]

/-- A field reads as before when another, apart from it, has been written. -/
theorem fld_setFld_ne (w : Word) (lo n v hi l : Nat) (h : lo + n ≤ 64) (apart : hi < lo ∨ lo + n ≤ l) :
    fld (setFld w lo n v) hi l = fld w hi l := by
  apply Nat.eq_of_testBit_eq; intro i
  rw [testBit_fld, testBit_fld, getLsbD_setFld _ _ _ _ _ h]
  by_cases hi2 : i < hi + 1 - l
  · have h2 : ¬ (lo ≤ l + i ∧ l + i < lo + n) := by omega
    simp [h2]
  · simp [hi2]

theorem fld_lt (w : Word) (hi lo : Nat) : fld w hi lo < 2 ^ (hi + 1 - lo) := Nat.mod_lt _ (Nat.two_pow_pos _)

/-- Two words that agree outside a field agree once it has been written. -/
theorem setFld_setFld (w : Word) (lo n v u : Nat) (h : lo + n ≤ 64) : setFld (setFld w lo n v) lo n u = setFld w lo n u := by
  apply BitVec.eq_of_getLsbD_eq; intro i _
  rw [getLsbD_setFld _ _ _ _ _ h, getLsbD_setFld _ _ _ _ _ h, getLsbD_setFld _ _ _ _ _ h]
  split <;> rfl

/-! The flags after they are set (R60, R120). -/

theorem flags_nibble (z n c v : Bool) (i : Nat) :
    (boolNat z + 2 * boolNat n + 4 * boolNat c + 8 * boolNat v).testBit i
      = ((decide (i = 0) && z) || (decide (i = 1) && n) || (decide (i = 2) && c) || (decide (i = 3) && v)) := by
  rcases i with _ | _ | _ | _ | i
  · cases z <;> cases n <;> cases c <;> cases v <;> rfl
  · cases z <;> cases n <;> cases c <;> cases v <;> rfl
  · cases z <;> cases n <;> cases c <;> cases v <;> rfl
  · cases z <;> cases n <;> cases c <;> cases v <;> rfl
  · have hb : boolNat z + 2 * boolNat n + 4 * boolNat c + 8 * boolNat v < 2 ^ 4 := by
      cases z <;> cases n <;> cases c <;> cases v <;> decide
    rw [Nat.testBit_lt_two_pow (Nat.lt_of_lt_of_le hb (Nat.pow_le_pow_right (by decide) (by omega)))]
    simp

theorem getLsbD_setFlags (st : Word) (z n c v : Bool) (i : Nat) :
    (setFlags st z n c v).getLsbD i
      = if i = 20 then z else if i = 21 then n else if i = 22 then c else if i = 23 then v else st.getLsbD i := by
  unfold setFlags
  rw [getLsbD_setFld _ _ _ _ _ (by decide), flags_nibble]
  split
  · rename_i h
    have : i = 20 ∨ i = 21 ∨ i = 22 ∨ i = 23 := by omega
    rcases this with rfl | rfl | rfl | rfl <;> simp
  · rename_i h
    rw [if_neg (by omega), if_neg (by omega), if_neg (by omega), if_neg (by omega)]

@[simp] theorem flagZ_setFlags (st : Word) (z n c v : Bool) : flagZ (setFlags st z n c v) = z := by
  unfold flagZ; rw [getLsbD_setFlags]; rfl
@[simp] theorem flagN_setFlags (st : Word) (z n c v : Bool) : flagN (setFlags st z n c v) = n := by
  unfold flagN; rw [getLsbD_setFlags]; rfl
@[simp] theorem flagC_setFlags (st : Word) (z n c v : Bool) : flagC (setFlags st z n c v) = c := by
  unfold flagC; rw [getLsbD_setFlags]; rfl
@[simp] theorem flagV_setFlags (st : Word) (z n c v : Bool) : flagV (setFlags st z n c v) = v := by
  unfold flagV; rw [getLsbD_setFlags]; rfl

end Sys2Proof.Machine
end

