-- ==== Sys2Proof/Laws/State.lean ====
section
/-! SUPPORT. One lemma for each field and each named update of a core, of a plot and of the machine: what the update leaves, and what
it writes. No later proof unfolds a record update. -/
namespace Sys2Proof.Machine

/-! One field of a core is written. -/

@[simp] theorem Core.setG_g (c : Core) (i : Reg) (w : Word) : (c.setG i w).g = c.g.set i w := rfl
@[simp] theorem Core.setG_cid (c : Core) (i : Reg) (w : Word) : (c.setG i w).cid = c.cid := rfl
@[simp] theorem Core.setG_obj (c : Core) (i : Reg) (w : Word) : (c.setG i w).obj = c.obj := rfl
@[simp] theorem Core.setG_off (c : Core) (i : Reg) (w : Word) : (c.setG i w).off = c.off := rfl
@[simp] theorem Core.setG_st (c : Core) (i : Reg) (w : Word) : (c.setG i w).st = c.st := rfl
@[simp] theorem Core.setG_wid (c : Core) (i : Reg) (w : Word) : (c.setG i w).wid = c.wid := rfl
@[simp] theorem Core.setG_htop (c : Core) (i : Reg) (w : Word) : (c.setG i w).htop = c.htop := rfl
@[simp] theorem Core.setG_v (c : Core) (i : Reg) (w : Word) : (c.setG i w).v = c.v := rfl
@[simp] theorem Core.setG_k (c : Core) (i : Reg) (w : Word) : (c.setG i w).k = c.k := rfl
@[simp] theorem Core.setG_budget (c : Core) (i : Reg) (w : Word) : (c.setG i w).budget = c.budget := rfl
@[simp] theorem Core.setG_lmret (c : Core) (i : Reg) (w : Word) : (c.setG i w).lmret = c.lmret := rfl
@[simp] theorem Core.setG_ba0 (c : Core) (i : Reg) (w : Word) : (c.setG i w).ba0 = c.ba0 := rfl
@[simp] theorem Core.setG_ba1 (c : Core) (i : Reg) (w : Word) : (c.setG i w).ba1 = c.ba1 := rfl
@[simp] theorem Core.setG_cyc (c : Core) (i : Reg) (w : Word) : (c.setG i w).cyc = c.cyc := rfl
@[simp] theorem Core.setG_xfid (c : Core) (i : Reg) (w : Word) : (c.setG i w).xfid = c.xfid := rfl
@[simp] theorem Core.setG_jobid (c : Core) (i : Reg) (w : Word) : (c.setG i w).jobid = c.jobid := rfl
@[simp] theorem Core.setG_cpsrc (c : Core) (i : Reg) (w : Word) : (c.setG i w).cpsrc = c.cpsrc := rfl
@[simp] theorem Core.setG_cpdst (c : Core) (i : Reg) (w : Word) : (c.setG i w).cpdst = c.cpdst := rfl
@[simp] theorem Core.setG_cplen (c : Core) (i : Reg) (w : Word) : (c.setG i w).cplen = c.cplen := rfl
@[simp] theorem Core.setG_cpstrs (c : Core) (i : Reg) (w : Word) : (c.setG i w).cpstrs = c.cpstrs := rfl
@[simp] theorem Core.setG_cpstrd (c : Core) (i : Reg) (w : Word) : (c.setG i w).cpstrd = c.cpstrd := rfl
@[simp] theorem Core.setG_cpcnt (c : Core) (i : Reg) (w : Word) : (c.setG i w).cpcnt = c.cpcnt := rfl
@[simp] theorem Core.setG_cphdl (c : Core) (i : Reg) (w : Word) : (c.setG i w).cphdl = c.cphdl := rfl
@[simp] theorem Core.setG_clg (c : Core) (i : Reg) (w : Word) : (c.setG i w).clg = c.clg := rfl
@[simp] theorem Core.setG_q (c : Core) (i : Reg) (w : Word) : (c.setG i w).q = c.q := rfl
@[simp] theorem Core.setG_lm (c : Core) (i : Reg) (w : Word) : (c.setG i w).lm = c.lm := rfl
@[simp] theorem Core.setG_lmErr (c : Core) (i : Reg) (w : Word) : (c.setG i w).lmErr = c.lmErr := rfl
@[simp] theorem Core.setG_bankOff (c : Core) (i : Reg) (w : Word) : (c.setG i w).bankOff = c.bankOff := rfl
@[simp] theorem Core.setG_stint (c : Core) (i : Reg) (w : Word) : (c.setG i w).stint = c.stint := rfl
@[simp] theorem Core.setG_wait (c : Core) (i : Reg) (w : Word) : (c.setG i w).wait = c.wait := rfl
@[simp] theorem Core.setG_ob (c : Core) (i : Reg) (w : Word) : (c.setG i w).ob = c.ob := rfl
@[simp] theorem Core.setG_ct (c : Core) (i : Reg) (w : Word) : (c.setG i w).ct = c.ct := rfl
@[simp] theorem Core.setG_mq (c : Core) (i : Reg) (w : Word) : (c.setG i w).mq = c.mq := rfl
@[simp] theorem Core.setG_runq (c : Core) (i : Reg) (w : Word) : (c.setG i w).runq = c.runq := rfl
@[simp] theorem Core.setG_back (c : Core) (i : Reg) (w : Word) : (c.setG i w).back = c.back := rfl
@[simp] theorem Core.setG_parked (c : Core) (i : Reg) (w : Word) : (c.setG i w).parked = c.parked := rfl
@[simp] theorem Core.setG_late (c : Core) (i : Reg) (w : Word) : (c.setG i w).late = c.late := rfl
@[simp] theorem Core.setG_slab (c : Core) (i : Reg) (w : Word) : (c.setG i w).slab = c.slab := rfl
@[simp] theorem Core.setG_frames (c : Core) (i : Reg) (w : Word) : (c.setG i w).frames = c.frames := rfl
@[simp] theorem Core.setG_retain (c : Core) (i : Reg) (w : Word) : (c.setG i w).retain = c.retain := rfl
@[simp] theorem Core.setG_view (c : Core) (i : Reg) (w : Word) : (c.setG i w).view = c.view := rfl
@[simp] theorem Core.setG_job (c : Core) (i : Reg) (w : Word) : (c.setG i w).job = c.job := rfl
@[simp] theorem Core.setG_xnext (c : Core) (i : Reg) (w : Word) : (c.setG i w).xnext = c.xnext := rfl
@[simp] theorem Core.setG_jnext (c : Core) (i : Reg) (w : Word) : (c.setG i w).jnext = c.jnext := rfl
@[simp] theorem Core.setG_xout (c : Core) (i : Reg) (w : Word) : (c.setG i w).xout = c.xout := rfl
@[simp] theorem Core.setG_jout (c : Core) (i : Reg) (w : Word) : (c.setG i w).jout = c.jout := rfl
@[simp] theorem Core.setG_counts (c : Core) (i : Reg) (w : Word) : (c.setG i w).counts = c.counts := rfl
@[simp] theorem Core.setG_hold (c : Core) (i : Reg) (w : Word) : (c.setG i w).hold = c.hold := rfl
@[simp] theorem Core.setG_report (c : Core) (i : Reg) (w : Word) : (c.setG i w).report = c.report := rfl
@[simp] theorem Core.setG_returned (c : Core) (i : Reg) (w : Word) : (c.setG i w).returned = c.returned := rfl
@[simp] theorem Core.setG_ord (c : Core) (i : Reg) (w : Word) : (c.setG i w).ord = c.ord := rfl
@[simp] theorem Core.setG_ready (c : Core) (i : Reg) (w : Word) : (c.setG i w).ready = c.ready := rfl
@[simp] theorem Core.setG_msgBank (c : Core) (i : Reg) (w : Word) : (c.setG i w).msgBank = c.msgBank := rfl
@[simp] theorem Core.setSt_st (c : Core) (lo n v : Nat) : (c.setSt lo n v).st = setFld c.st lo n v := rfl
@[simp] theorem Core.setSt_cid (c : Core) (lo n v : Nat) : (c.setSt lo n v).cid = c.cid := rfl
@[simp] theorem Core.setSt_g (c : Core) (lo n v : Nat) : (c.setSt lo n v).g = c.g := rfl
@[simp] theorem Core.setSt_obj (c : Core) (lo n v : Nat) : (c.setSt lo n v).obj = c.obj := rfl
@[simp] theorem Core.setSt_off (c : Core) (lo n v : Nat) : (c.setSt lo n v).off = c.off := rfl
@[simp] theorem Core.setSt_wid (c : Core) (lo n v : Nat) : (c.setSt lo n v).wid = c.wid := rfl
@[simp] theorem Core.setSt_htop (c : Core) (lo n v : Nat) : (c.setSt lo n v).htop = c.htop := rfl
@[simp] theorem Core.setSt_v (c : Core) (lo n v : Nat) : (c.setSt lo n v).v = c.v := rfl
@[simp] theorem Core.setSt_k (c : Core) (lo n v : Nat) : (c.setSt lo n v).k = c.k := rfl
@[simp] theorem Core.setSt_budget (c : Core) (lo n v : Nat) : (c.setSt lo n v).budget = c.budget := rfl
@[simp] theorem Core.setSt_lmret (c : Core) (lo n v : Nat) : (c.setSt lo n v).lmret = c.lmret := rfl
@[simp] theorem Core.setSt_ba0 (c : Core) (lo n v : Nat) : (c.setSt lo n v).ba0 = c.ba0 := rfl
@[simp] theorem Core.setSt_ba1 (c : Core) (lo n v : Nat) : (c.setSt lo n v).ba1 = c.ba1 := rfl
@[simp] theorem Core.setSt_cyc (c : Core) (lo n v : Nat) : (c.setSt lo n v).cyc = c.cyc := rfl
@[simp] theorem Core.setSt_xfid (c : Core) (lo n v : Nat) : (c.setSt lo n v).xfid = c.xfid := rfl
@[simp] theorem Core.setSt_jobid (c : Core) (lo n v : Nat) : (c.setSt lo n v).jobid = c.jobid := rfl
@[simp] theorem Core.setSt_cpsrc (c : Core) (lo n v : Nat) : (c.setSt lo n v).cpsrc = c.cpsrc := rfl
@[simp] theorem Core.setSt_cpdst (c : Core) (lo n v : Nat) : (c.setSt lo n v).cpdst = c.cpdst := rfl
@[simp] theorem Core.setSt_cplen (c : Core) (lo n v : Nat) : (c.setSt lo n v).cplen = c.cplen := rfl
@[simp] theorem Core.setSt_cpstrs (c : Core) (lo n v : Nat) : (c.setSt lo n v).cpstrs = c.cpstrs := rfl
@[simp] theorem Core.setSt_cpstrd (c : Core) (lo n v : Nat) : (c.setSt lo n v).cpstrd = c.cpstrd := rfl
@[simp] theorem Core.setSt_cpcnt (c : Core) (lo n v : Nat) : (c.setSt lo n v).cpcnt = c.cpcnt := rfl
@[simp] theorem Core.setSt_cphdl (c : Core) (lo n v : Nat) : (c.setSt lo n v).cphdl = c.cphdl := rfl
@[simp] theorem Core.setSt_clg (c : Core) (lo n v : Nat) : (c.setSt lo n v).clg = c.clg := rfl
@[simp] theorem Core.setSt_q (c : Core) (lo n v : Nat) : (c.setSt lo n v).q = c.q := rfl
@[simp] theorem Core.setSt_lm (c : Core) (lo n v : Nat) : (c.setSt lo n v).lm = c.lm := rfl
@[simp] theorem Core.setSt_lmErr (c : Core) (lo n v : Nat) : (c.setSt lo n v).lmErr = c.lmErr := rfl
@[simp] theorem Core.setSt_bankOff (c : Core) (lo n v : Nat) : (c.setSt lo n v).bankOff = c.bankOff := rfl
@[simp] theorem Core.setSt_stint (c : Core) (lo n v : Nat) : (c.setSt lo n v).stint = c.stint := rfl
@[simp] theorem Core.setSt_wait (c : Core) (lo n v : Nat) : (c.setSt lo n v).wait = c.wait := rfl
@[simp] theorem Core.setSt_ob (c : Core) (lo n v : Nat) : (c.setSt lo n v).ob = c.ob := rfl
@[simp] theorem Core.setSt_ct (c : Core) (lo n v : Nat) : (c.setSt lo n v).ct = c.ct := rfl
@[simp] theorem Core.setSt_mq (c : Core) (lo n v : Nat) : (c.setSt lo n v).mq = c.mq := rfl
@[simp] theorem Core.setSt_runq (c : Core) (lo n v : Nat) : (c.setSt lo n v).runq = c.runq := rfl
@[simp] theorem Core.setSt_back (c : Core) (lo n v : Nat) : (c.setSt lo n v).back = c.back := rfl
@[simp] theorem Core.setSt_parked (c : Core) (lo n v : Nat) : (c.setSt lo n v).parked = c.parked := rfl
@[simp] theorem Core.setSt_late (c : Core) (lo n v : Nat) : (c.setSt lo n v).late = c.late := rfl
@[simp] theorem Core.setSt_slab (c : Core) (lo n v : Nat) : (c.setSt lo n v).slab = c.slab := rfl
@[simp] theorem Core.setSt_frames (c : Core) (lo n v : Nat) : (c.setSt lo n v).frames = c.frames := rfl
@[simp] theorem Core.setSt_retain (c : Core) (lo n v : Nat) : (c.setSt lo n v).retain = c.retain := rfl
@[simp] theorem Core.setSt_view (c : Core) (lo n v : Nat) : (c.setSt lo n v).view = c.view := rfl
@[simp] theorem Core.setSt_job (c : Core) (lo n v : Nat) : (c.setSt lo n v).job = c.job := rfl
@[simp] theorem Core.setSt_xnext (c : Core) (lo n v : Nat) : (c.setSt lo n v).xnext = c.xnext := rfl
@[simp] theorem Core.setSt_jnext (c : Core) (lo n v : Nat) : (c.setSt lo n v).jnext = c.jnext := rfl
@[simp] theorem Core.setSt_xout (c : Core) (lo n v : Nat) : (c.setSt lo n v).xout = c.xout := rfl
@[simp] theorem Core.setSt_jout (c : Core) (lo n v : Nat) : (c.setSt lo n v).jout = c.jout := rfl
@[simp] theorem Core.setSt_counts (c : Core) (lo n v : Nat) : (c.setSt lo n v).counts = c.counts := rfl
@[simp] theorem Core.setSt_hold (c : Core) (lo n v : Nat) : (c.setSt lo n v).hold = c.hold := rfl
@[simp] theorem Core.setSt_report (c : Core) (lo n v : Nat) : (c.setSt lo n v).report = c.report := rfl
@[simp] theorem Core.setSt_returned (c : Core) (lo n v : Nat) : (c.setSt lo n v).returned = c.returned := rfl
@[simp] theorem Core.setSt_ord (c : Core) (lo n v : Nat) : (c.setSt lo n v).ord = c.ord := rfl
@[simp] theorem Core.setSt_ready (c : Core) (lo n v : Nat) : (c.setSt lo n v).ready = c.ready := rfl
@[simp] theorem Core.setSt_msgBank (c : Core) (lo n v : Nat) : (c.setSt lo n v).msgBank = c.msgBank := rfl
@[simp] theorem Core.setLm_lm (c : Core) (m : Memory) : (c.setLm m).lm = m := rfl
@[simp] theorem Core.setLm_cid (c : Core) (m : Memory) : (c.setLm m).cid = c.cid := rfl
@[simp] theorem Core.setLm_g (c : Core) (m : Memory) : (c.setLm m).g = c.g := rfl
@[simp] theorem Core.setLm_obj (c : Core) (m : Memory) : (c.setLm m).obj = c.obj := rfl
@[simp] theorem Core.setLm_off (c : Core) (m : Memory) : (c.setLm m).off = c.off := rfl
@[simp] theorem Core.setLm_st (c : Core) (m : Memory) : (c.setLm m).st = c.st := rfl
@[simp] theorem Core.setLm_wid (c : Core) (m : Memory) : (c.setLm m).wid = c.wid := rfl
@[simp] theorem Core.setLm_htop (c : Core) (m : Memory) : (c.setLm m).htop = c.htop := rfl
@[simp] theorem Core.setLm_v (c : Core) (m : Memory) : (c.setLm m).v = c.v := rfl
@[simp] theorem Core.setLm_k (c : Core) (m : Memory) : (c.setLm m).k = c.k := rfl
@[simp] theorem Core.setLm_budget (c : Core) (m : Memory) : (c.setLm m).budget = c.budget := rfl
@[simp] theorem Core.setLm_lmret (c : Core) (m : Memory) : (c.setLm m).lmret = c.lmret := rfl
@[simp] theorem Core.setLm_ba0 (c : Core) (m : Memory) : (c.setLm m).ba0 = c.ba0 := rfl
@[simp] theorem Core.setLm_ba1 (c : Core) (m : Memory) : (c.setLm m).ba1 = c.ba1 := rfl
@[simp] theorem Core.setLm_cyc (c : Core) (m : Memory) : (c.setLm m).cyc = c.cyc := rfl
@[simp] theorem Core.setLm_xfid (c : Core) (m : Memory) : (c.setLm m).xfid = c.xfid := rfl
@[simp] theorem Core.setLm_jobid (c : Core) (m : Memory) : (c.setLm m).jobid = c.jobid := rfl
@[simp] theorem Core.setLm_cpsrc (c : Core) (m : Memory) : (c.setLm m).cpsrc = c.cpsrc := rfl
@[simp] theorem Core.setLm_cpdst (c : Core) (m : Memory) : (c.setLm m).cpdst = c.cpdst := rfl
@[simp] theorem Core.setLm_cplen (c : Core) (m : Memory) : (c.setLm m).cplen = c.cplen := rfl
@[simp] theorem Core.setLm_cpstrs (c : Core) (m : Memory) : (c.setLm m).cpstrs = c.cpstrs := rfl
@[simp] theorem Core.setLm_cpstrd (c : Core) (m : Memory) : (c.setLm m).cpstrd = c.cpstrd := rfl
@[simp] theorem Core.setLm_cpcnt (c : Core) (m : Memory) : (c.setLm m).cpcnt = c.cpcnt := rfl
@[simp] theorem Core.setLm_cphdl (c : Core) (m : Memory) : (c.setLm m).cphdl = c.cphdl := rfl
@[simp] theorem Core.setLm_clg (c : Core) (m : Memory) : (c.setLm m).clg = c.clg := rfl
@[simp] theorem Core.setLm_q (c : Core) (m : Memory) : (c.setLm m).q = c.q := rfl
@[simp] theorem Core.setLm_lmErr (c : Core) (m : Memory) : (c.setLm m).lmErr = c.lmErr := rfl
@[simp] theorem Core.setLm_bankOff (c : Core) (m : Memory) : (c.setLm m).bankOff = c.bankOff := rfl
@[simp] theorem Core.setLm_stint (c : Core) (m : Memory) : (c.setLm m).stint = c.stint := rfl
@[simp] theorem Core.setLm_wait (c : Core) (m : Memory) : (c.setLm m).wait = c.wait := rfl
@[simp] theorem Core.setLm_ob (c : Core) (m : Memory) : (c.setLm m).ob = c.ob := rfl
@[simp] theorem Core.setLm_ct (c : Core) (m : Memory) : (c.setLm m).ct = c.ct := rfl
@[simp] theorem Core.setLm_mq (c : Core) (m : Memory) : (c.setLm m).mq = c.mq := rfl
@[simp] theorem Core.setLm_runq (c : Core) (m : Memory) : (c.setLm m).runq = c.runq := rfl
@[simp] theorem Core.setLm_back (c : Core) (m : Memory) : (c.setLm m).back = c.back := rfl
@[simp] theorem Core.setLm_parked (c : Core) (m : Memory) : (c.setLm m).parked = c.parked := rfl
@[simp] theorem Core.setLm_late (c : Core) (m : Memory) : (c.setLm m).late = c.late := rfl
@[simp] theorem Core.setLm_slab (c : Core) (m : Memory) : (c.setLm m).slab = c.slab := rfl
@[simp] theorem Core.setLm_frames (c : Core) (m : Memory) : (c.setLm m).frames = c.frames := rfl
@[simp] theorem Core.setLm_retain (c : Core) (m : Memory) : (c.setLm m).retain = c.retain := rfl
@[simp] theorem Core.setLm_view (c : Core) (m : Memory) : (c.setLm m).view = c.view := rfl
@[simp] theorem Core.setLm_job (c : Core) (m : Memory) : (c.setLm m).job = c.job := rfl
@[simp] theorem Core.setLm_xnext (c : Core) (m : Memory) : (c.setLm m).xnext = c.xnext := rfl
@[simp] theorem Core.setLm_jnext (c : Core) (m : Memory) : (c.setLm m).jnext = c.jnext := rfl
@[simp] theorem Core.setLm_xout (c : Core) (m : Memory) : (c.setLm m).xout = c.xout := rfl
@[simp] theorem Core.setLm_jout (c : Core) (m : Memory) : (c.setLm m).jout = c.jout := rfl
@[simp] theorem Core.setLm_counts (c : Core) (m : Memory) : (c.setLm m).counts = c.counts := rfl
@[simp] theorem Core.setLm_hold (c : Core) (m : Memory) : (c.setLm m).hold = c.hold := rfl
@[simp] theorem Core.setLm_report (c : Core) (m : Memory) : (c.setLm m).report = c.report := rfl
@[simp] theorem Core.setLm_returned (c : Core) (m : Memory) : (c.setLm m).returned = c.returned := rfl
@[simp] theorem Core.setLm_ord (c : Core) (m : Memory) : (c.setLm m).ord = c.ord := rfl
@[simp] theorem Core.setLm_ready (c : Core) (m : Memory) : (c.setLm m).ready = c.ready := rfl
@[simp] theorem Core.setLm_msgBank (c : Core) (m : Memory) : (c.setLm m).msgBank = c.msgBank := rfl
@[simp] theorem Core.setRing_q (c : Core) (i : QReg) (r : Ring) : (c.setRing i r).q = c.q.set i r := rfl
@[simp] theorem Core.setRing_cid (c : Core) (i : QReg) (r : Ring) : (c.setRing i r).cid = c.cid := rfl
@[simp] theorem Core.setRing_g (c : Core) (i : QReg) (r : Ring) : (c.setRing i r).g = c.g := rfl
@[simp] theorem Core.setRing_obj (c : Core) (i : QReg) (r : Ring) : (c.setRing i r).obj = c.obj := rfl
@[simp] theorem Core.setRing_off (c : Core) (i : QReg) (r : Ring) : (c.setRing i r).off = c.off := rfl
@[simp] theorem Core.setRing_st (c : Core) (i : QReg) (r : Ring) : (c.setRing i r).st = c.st := rfl
@[simp] theorem Core.setRing_wid (c : Core) (i : QReg) (r : Ring) : (c.setRing i r).wid = c.wid := rfl
@[simp] theorem Core.setRing_htop (c : Core) (i : QReg) (r : Ring) : (c.setRing i r).htop = c.htop := rfl
@[simp] theorem Core.setRing_v (c : Core) (i : QReg) (r : Ring) : (c.setRing i r).v = c.v := rfl
@[simp] theorem Core.setRing_k (c : Core) (i : QReg) (r : Ring) : (c.setRing i r).k = c.k := rfl
@[simp] theorem Core.setRing_budget (c : Core) (i : QReg) (r : Ring) : (c.setRing i r).budget = c.budget := rfl
@[simp] theorem Core.setRing_lmret (c : Core) (i : QReg) (r : Ring) : (c.setRing i r).lmret = c.lmret := rfl
@[simp] theorem Core.setRing_ba0 (c : Core) (i : QReg) (r : Ring) : (c.setRing i r).ba0 = c.ba0 := rfl
@[simp] theorem Core.setRing_ba1 (c : Core) (i : QReg) (r : Ring) : (c.setRing i r).ba1 = c.ba1 := rfl
@[simp] theorem Core.setRing_cyc (c : Core) (i : QReg) (r : Ring) : (c.setRing i r).cyc = c.cyc := rfl
@[simp] theorem Core.setRing_xfid (c : Core) (i : QReg) (r : Ring) : (c.setRing i r).xfid = c.xfid := rfl
@[simp] theorem Core.setRing_jobid (c : Core) (i : QReg) (r : Ring) : (c.setRing i r).jobid = c.jobid := rfl
@[simp] theorem Core.setRing_cpsrc (c : Core) (i : QReg) (r : Ring) : (c.setRing i r).cpsrc = c.cpsrc := rfl
@[simp] theorem Core.setRing_cpdst (c : Core) (i : QReg) (r : Ring) : (c.setRing i r).cpdst = c.cpdst := rfl
@[simp] theorem Core.setRing_cplen (c : Core) (i : QReg) (r : Ring) : (c.setRing i r).cplen = c.cplen := rfl
@[simp] theorem Core.setRing_cpstrs (c : Core) (i : QReg) (r : Ring) : (c.setRing i r).cpstrs = c.cpstrs := rfl
@[simp] theorem Core.setRing_cpstrd (c : Core) (i : QReg) (r : Ring) : (c.setRing i r).cpstrd = c.cpstrd := rfl
@[simp] theorem Core.setRing_cpcnt (c : Core) (i : QReg) (r : Ring) : (c.setRing i r).cpcnt = c.cpcnt := rfl
@[simp] theorem Core.setRing_cphdl (c : Core) (i : QReg) (r : Ring) : (c.setRing i r).cphdl = c.cphdl := rfl
@[simp] theorem Core.setRing_clg (c : Core) (i : QReg) (r : Ring) : (c.setRing i r).clg = c.clg := rfl
@[simp] theorem Core.setRing_lm (c : Core) (i : QReg) (r : Ring) : (c.setRing i r).lm = c.lm := rfl
@[simp] theorem Core.setRing_lmErr (c : Core) (i : QReg) (r : Ring) : (c.setRing i r).lmErr = c.lmErr := rfl
@[simp] theorem Core.setRing_bankOff (c : Core) (i : QReg) (r : Ring) : (c.setRing i r).bankOff = c.bankOff := rfl
@[simp] theorem Core.setRing_stint (c : Core) (i : QReg) (r : Ring) : (c.setRing i r).stint = c.stint := rfl
@[simp] theorem Core.setRing_wait (c : Core) (i : QReg) (r : Ring) : (c.setRing i r).wait = c.wait := rfl
@[simp] theorem Core.setRing_ob (c : Core) (i : QReg) (r : Ring) : (c.setRing i r).ob = c.ob := rfl
@[simp] theorem Core.setRing_ct (c : Core) (i : QReg) (r : Ring) : (c.setRing i r).ct = c.ct := rfl
@[simp] theorem Core.setRing_mq (c : Core) (i : QReg) (r : Ring) : (c.setRing i r).mq = c.mq := rfl
@[simp] theorem Core.setRing_runq (c : Core) (i : QReg) (r : Ring) : (c.setRing i r).runq = c.runq := rfl
@[simp] theorem Core.setRing_back (c : Core) (i : QReg) (r : Ring) : (c.setRing i r).back = c.back := rfl
@[simp] theorem Core.setRing_parked (c : Core) (i : QReg) (r : Ring) : (c.setRing i r).parked = c.parked := rfl
@[simp] theorem Core.setRing_late (c : Core) (i : QReg) (r : Ring) : (c.setRing i r).late = c.late := rfl
@[simp] theorem Core.setRing_slab (c : Core) (i : QReg) (r : Ring) : (c.setRing i r).slab = c.slab := rfl
@[simp] theorem Core.setRing_frames (c : Core) (i : QReg) (r : Ring) : (c.setRing i r).frames = c.frames := rfl
@[simp] theorem Core.setRing_retain (c : Core) (i : QReg) (r : Ring) : (c.setRing i r).retain = c.retain := rfl
@[simp] theorem Core.setRing_view (c : Core) (i : QReg) (r : Ring) : (c.setRing i r).view = c.view := rfl
@[simp] theorem Core.setRing_job (c : Core) (i : QReg) (r : Ring) : (c.setRing i r).job = c.job := rfl
@[simp] theorem Core.setRing_xnext (c : Core) (i : QReg) (r : Ring) : (c.setRing i r).xnext = c.xnext := rfl
@[simp] theorem Core.setRing_jnext (c : Core) (i : QReg) (r : Ring) : (c.setRing i r).jnext = c.jnext := rfl
@[simp] theorem Core.setRing_xout (c : Core) (i : QReg) (r : Ring) : (c.setRing i r).xout = c.xout := rfl
@[simp] theorem Core.setRing_jout (c : Core) (i : QReg) (r : Ring) : (c.setRing i r).jout = c.jout := rfl
@[simp] theorem Core.setRing_counts (c : Core) (i : QReg) (r : Ring) : (c.setRing i r).counts = c.counts := rfl
@[simp] theorem Core.setRing_hold (c : Core) (i : QReg) (r : Ring) : (c.setRing i r).hold = c.hold := rfl
@[simp] theorem Core.setRing_report (c : Core) (i : QReg) (r : Ring) : (c.setRing i r).report = c.report := rfl
@[simp] theorem Core.setRing_returned (c : Core) (i : QReg) (r : Ring) : (c.setRing i r).returned = c.returned := rfl
@[simp] theorem Core.setRing_ord (c : Core) (i : QReg) (r : Ring) : (c.setRing i r).ord = c.ord := rfl
@[simp] theorem Core.setRing_ready (c : Core) (i : QReg) (r : Ring) : (c.setRing i r).ready = c.ready := rfl
@[simp] theorem Core.setRing_msgBank (c : Core) (i : QReg) (r : Ring) : (c.setRing i r).msgBank = c.msgBank := rfl
@[simp] theorem Core.modSlot_cid (c : Core) (i : Nat) (f : Slot → Slot) : (c.modSlot i f).cid = c.cid := rfl
@[simp] theorem Core.modSlot_g (c : Core) (i : Nat) (f : Slot → Slot) : (c.modSlot i f).g = c.g := rfl
@[simp] theorem Core.modSlot_obj (c : Core) (i : Nat) (f : Slot → Slot) : (c.modSlot i f).obj = c.obj := rfl
@[simp] theorem Core.modSlot_off (c : Core) (i : Nat) (f : Slot → Slot) : (c.modSlot i f).off = c.off := rfl
@[simp] theorem Core.modSlot_st (c : Core) (i : Nat) (f : Slot → Slot) : (c.modSlot i f).st = c.st := rfl
@[simp] theorem Core.modSlot_wid (c : Core) (i : Nat) (f : Slot → Slot) : (c.modSlot i f).wid = c.wid := rfl
@[simp] theorem Core.modSlot_htop (c : Core) (i : Nat) (f : Slot → Slot) : (c.modSlot i f).htop = c.htop := rfl
@[simp] theorem Core.modSlot_v (c : Core) (i : Nat) (f : Slot → Slot) : (c.modSlot i f).v = c.v := rfl
@[simp] theorem Core.modSlot_k (c : Core) (i : Nat) (f : Slot → Slot) : (c.modSlot i f).k = c.k := rfl
@[simp] theorem Core.modSlot_budget (c : Core) (i : Nat) (f : Slot → Slot) : (c.modSlot i f).budget = c.budget := rfl
@[simp] theorem Core.modSlot_lmret (c : Core) (i : Nat) (f : Slot → Slot) : (c.modSlot i f).lmret = c.lmret := rfl
@[simp] theorem Core.modSlot_ba0 (c : Core) (i : Nat) (f : Slot → Slot) : (c.modSlot i f).ba0 = c.ba0 := rfl
@[simp] theorem Core.modSlot_ba1 (c : Core) (i : Nat) (f : Slot → Slot) : (c.modSlot i f).ba1 = c.ba1 := rfl
@[simp] theorem Core.modSlot_cyc (c : Core) (i : Nat) (f : Slot → Slot) : (c.modSlot i f).cyc = c.cyc := rfl
@[simp] theorem Core.modSlot_xfid (c : Core) (i : Nat) (f : Slot → Slot) : (c.modSlot i f).xfid = c.xfid := rfl
@[simp] theorem Core.modSlot_jobid (c : Core) (i : Nat) (f : Slot → Slot) : (c.modSlot i f).jobid = c.jobid := rfl
@[simp] theorem Core.modSlot_cpsrc (c : Core) (i : Nat) (f : Slot → Slot) : (c.modSlot i f).cpsrc = c.cpsrc := rfl
@[simp] theorem Core.modSlot_cpdst (c : Core) (i : Nat) (f : Slot → Slot) : (c.modSlot i f).cpdst = c.cpdst := rfl
@[simp] theorem Core.modSlot_cplen (c : Core) (i : Nat) (f : Slot → Slot) : (c.modSlot i f).cplen = c.cplen := rfl
@[simp] theorem Core.modSlot_cpstrs (c : Core) (i : Nat) (f : Slot → Slot) : (c.modSlot i f).cpstrs = c.cpstrs := rfl
@[simp] theorem Core.modSlot_cpstrd (c : Core) (i : Nat) (f : Slot → Slot) : (c.modSlot i f).cpstrd = c.cpstrd := rfl
@[simp] theorem Core.modSlot_cpcnt (c : Core) (i : Nat) (f : Slot → Slot) : (c.modSlot i f).cpcnt = c.cpcnt := rfl
@[simp] theorem Core.modSlot_cphdl (c : Core) (i : Nat) (f : Slot → Slot) : (c.modSlot i f).cphdl = c.cphdl := rfl
@[simp] theorem Core.modSlot_clg (c : Core) (i : Nat) (f : Slot → Slot) : (c.modSlot i f).clg = c.clg := rfl
@[simp] theorem Core.modSlot_q (c : Core) (i : Nat) (f : Slot → Slot) : (c.modSlot i f).q = c.q := rfl
@[simp] theorem Core.modSlot_lm (c : Core) (i : Nat) (f : Slot → Slot) : (c.modSlot i f).lm = c.lm := rfl
@[simp] theorem Core.modSlot_lmErr (c : Core) (i : Nat) (f : Slot → Slot) : (c.modSlot i f).lmErr = c.lmErr := rfl
@[simp] theorem Core.modSlot_bankOff (c : Core) (i : Nat) (f : Slot → Slot) : (c.modSlot i f).bankOff = c.bankOff := rfl
@[simp] theorem Core.modSlot_stint (c : Core) (i : Nat) (f : Slot → Slot) : (c.modSlot i f).stint = c.stint := rfl
@[simp] theorem Core.modSlot_wait (c : Core) (i : Nat) (f : Slot → Slot) : (c.modSlot i f).wait = c.wait := rfl
@[simp] theorem Core.modSlot_ob (c : Core) (i : Nat) (f : Slot → Slot) : (c.modSlot i f).ob = c.ob := rfl
@[simp] theorem Core.modSlot_ct (c : Core) (i : Nat) (f : Slot → Slot) : (c.modSlot i f).ct = c.ct := rfl
@[simp] theorem Core.modSlot_mq (c : Core) (i : Nat) (f : Slot → Slot) : (c.modSlot i f).mq = c.mq := rfl
@[simp] theorem Core.modSlot_runq (c : Core) (i : Nat) (f : Slot → Slot) : (c.modSlot i f).runq = c.runq := rfl
@[simp] theorem Core.modSlot_back (c : Core) (i : Nat) (f : Slot → Slot) : (c.modSlot i f).back = c.back := rfl
@[simp] theorem Core.modSlot_parked (c : Core) (i : Nat) (f : Slot → Slot) : (c.modSlot i f).parked = c.parked := rfl
@[simp] theorem Core.modSlot_late (c : Core) (i : Nat) (f : Slot → Slot) : (c.modSlot i f).late = c.late := rfl
@[simp] theorem Core.modSlot_frames (c : Core) (i : Nat) (f : Slot → Slot) : (c.modSlot i f).frames = c.frames := rfl
@[simp] theorem Core.modSlot_retain (c : Core) (i : Nat) (f : Slot → Slot) : (c.modSlot i f).retain = c.retain := rfl
@[simp] theorem Core.modSlot_view (c : Core) (i : Nat) (f : Slot → Slot) : (c.modSlot i f).view = c.view := rfl
@[simp] theorem Core.modSlot_job (c : Core) (i : Nat) (f : Slot → Slot) : (c.modSlot i f).job = c.job := rfl
@[simp] theorem Core.modSlot_xnext (c : Core) (i : Nat) (f : Slot → Slot) : (c.modSlot i f).xnext = c.xnext := rfl
@[simp] theorem Core.modSlot_jnext (c : Core) (i : Nat) (f : Slot → Slot) : (c.modSlot i f).jnext = c.jnext := rfl
@[simp] theorem Core.modSlot_xout (c : Core) (i : Nat) (f : Slot → Slot) : (c.modSlot i f).xout = c.xout := rfl
@[simp] theorem Core.modSlot_jout (c : Core) (i : Nat) (f : Slot → Slot) : (c.modSlot i f).jout = c.jout := rfl
@[simp] theorem Core.modSlot_counts (c : Core) (i : Nat) (f : Slot → Slot) : (c.modSlot i f).counts = c.counts := rfl
@[simp] theorem Core.modSlot_hold (c : Core) (i : Nat) (f : Slot → Slot) : (c.modSlot i f).hold = c.hold := rfl
@[simp] theorem Core.modSlot_report (c : Core) (i : Nat) (f : Slot → Slot) : (c.modSlot i f).report = c.report := rfl
@[simp] theorem Core.modSlot_returned (c : Core) (i : Nat) (f : Slot → Slot) : (c.modSlot i f).returned = c.returned := rfl
@[simp] theorem Core.modSlot_ord (c : Core) (i : Nat) (f : Slot → Slot) : (c.modSlot i f).ord = c.ord := rfl
@[simp] theorem Core.modSlot_ready (c : Core) (i : Nat) (f : Slot → Slot) : (c.modSlot i f).ready = c.ready := rfl
@[simp] theorem Core.modSlot_msgBank (c : Core) (i : Nat) (f : Slot → Slot) : (c.modSlot i f).msgBank = c.msgBank := rfl
@[simp] theorem Core.modSlot_slab (c : Core) (i : Nat) (f : Slot → Slot) : (c.modSlot i f).slab = c.slab.modify i f := rfl
@[simp] theorem Core.modCount_cid (c : Core) (l : Lid) (f : LCount → LCount) : (c.modCount l f).cid = c.cid := rfl
@[simp] theorem Core.modCount_g (c : Core) (l : Lid) (f : LCount → LCount) : (c.modCount l f).g = c.g := rfl
@[simp] theorem Core.modCount_obj (c : Core) (l : Lid) (f : LCount → LCount) : (c.modCount l f).obj = c.obj := rfl
@[simp] theorem Core.modCount_off (c : Core) (l : Lid) (f : LCount → LCount) : (c.modCount l f).off = c.off := rfl
@[simp] theorem Core.modCount_st (c : Core) (l : Lid) (f : LCount → LCount) : (c.modCount l f).st = c.st := rfl
@[simp] theorem Core.modCount_wid (c : Core) (l : Lid) (f : LCount → LCount) : (c.modCount l f).wid = c.wid := rfl
@[simp] theorem Core.modCount_htop (c : Core) (l : Lid) (f : LCount → LCount) : (c.modCount l f).htop = c.htop := rfl
@[simp] theorem Core.modCount_v (c : Core) (l : Lid) (f : LCount → LCount) : (c.modCount l f).v = c.v := rfl
@[simp] theorem Core.modCount_k (c : Core) (l : Lid) (f : LCount → LCount) : (c.modCount l f).k = c.k := rfl
@[simp] theorem Core.modCount_budget (c : Core) (l : Lid) (f : LCount → LCount) : (c.modCount l f).budget = c.budget := rfl
@[simp] theorem Core.modCount_lmret (c : Core) (l : Lid) (f : LCount → LCount) : (c.modCount l f).lmret = c.lmret := rfl
@[simp] theorem Core.modCount_ba0 (c : Core) (l : Lid) (f : LCount → LCount) : (c.modCount l f).ba0 = c.ba0 := rfl
@[simp] theorem Core.modCount_ba1 (c : Core) (l : Lid) (f : LCount → LCount) : (c.modCount l f).ba1 = c.ba1 := rfl
@[simp] theorem Core.modCount_cyc (c : Core) (l : Lid) (f : LCount → LCount) : (c.modCount l f).cyc = c.cyc := rfl
@[simp] theorem Core.modCount_xfid (c : Core) (l : Lid) (f : LCount → LCount) : (c.modCount l f).xfid = c.xfid := rfl
@[simp] theorem Core.modCount_jobid (c : Core) (l : Lid) (f : LCount → LCount) : (c.modCount l f).jobid = c.jobid := rfl
@[simp] theorem Core.modCount_cpsrc (c : Core) (l : Lid) (f : LCount → LCount) : (c.modCount l f).cpsrc = c.cpsrc := rfl
@[simp] theorem Core.modCount_cpdst (c : Core) (l : Lid) (f : LCount → LCount) : (c.modCount l f).cpdst = c.cpdst := rfl
@[simp] theorem Core.modCount_cplen (c : Core) (l : Lid) (f : LCount → LCount) : (c.modCount l f).cplen = c.cplen := rfl
@[simp] theorem Core.modCount_cpstrs (c : Core) (l : Lid) (f : LCount → LCount) : (c.modCount l f).cpstrs = c.cpstrs := rfl
@[simp] theorem Core.modCount_cpstrd (c : Core) (l : Lid) (f : LCount → LCount) : (c.modCount l f).cpstrd = c.cpstrd := rfl
@[simp] theorem Core.modCount_cpcnt (c : Core) (l : Lid) (f : LCount → LCount) : (c.modCount l f).cpcnt = c.cpcnt := rfl
@[simp] theorem Core.modCount_cphdl (c : Core) (l : Lid) (f : LCount → LCount) : (c.modCount l f).cphdl = c.cphdl := rfl
@[simp] theorem Core.modCount_clg (c : Core) (l : Lid) (f : LCount → LCount) : (c.modCount l f).clg = c.clg := rfl
@[simp] theorem Core.modCount_q (c : Core) (l : Lid) (f : LCount → LCount) : (c.modCount l f).q = c.q := rfl
@[simp] theorem Core.modCount_lm (c : Core) (l : Lid) (f : LCount → LCount) : (c.modCount l f).lm = c.lm := rfl
@[simp] theorem Core.modCount_lmErr (c : Core) (l : Lid) (f : LCount → LCount) : (c.modCount l f).lmErr = c.lmErr := rfl
@[simp] theorem Core.modCount_bankOff (c : Core) (l : Lid) (f : LCount → LCount) : (c.modCount l f).bankOff = c.bankOff := rfl
@[simp] theorem Core.modCount_stint (c : Core) (l : Lid) (f : LCount → LCount) : (c.modCount l f).stint = c.stint := rfl
@[simp] theorem Core.modCount_wait (c : Core) (l : Lid) (f : LCount → LCount) : (c.modCount l f).wait = c.wait := rfl
@[simp] theorem Core.modCount_ob (c : Core) (l : Lid) (f : LCount → LCount) : (c.modCount l f).ob = c.ob := rfl
@[simp] theorem Core.modCount_ct (c : Core) (l : Lid) (f : LCount → LCount) : (c.modCount l f).ct = c.ct := rfl
@[simp] theorem Core.modCount_mq (c : Core) (l : Lid) (f : LCount → LCount) : (c.modCount l f).mq = c.mq := rfl
@[simp] theorem Core.modCount_runq (c : Core) (l : Lid) (f : LCount → LCount) : (c.modCount l f).runq = c.runq := rfl
@[simp] theorem Core.modCount_back (c : Core) (l : Lid) (f : LCount → LCount) : (c.modCount l f).back = c.back := rfl
@[simp] theorem Core.modCount_parked (c : Core) (l : Lid) (f : LCount → LCount) : (c.modCount l f).parked = c.parked := rfl
@[simp] theorem Core.modCount_late (c : Core) (l : Lid) (f : LCount → LCount) : (c.modCount l f).late = c.late := rfl
@[simp] theorem Core.modCount_slab (c : Core) (l : Lid) (f : LCount → LCount) : (c.modCount l f).slab = c.slab := rfl
@[simp] theorem Core.modCount_frames (c : Core) (l : Lid) (f : LCount → LCount) : (c.modCount l f).frames = c.frames := rfl
@[simp] theorem Core.modCount_retain (c : Core) (l : Lid) (f : LCount → LCount) : (c.modCount l f).retain = c.retain := rfl
@[simp] theorem Core.modCount_view (c : Core) (l : Lid) (f : LCount → LCount) : (c.modCount l f).view = c.view := rfl
@[simp] theorem Core.modCount_job (c : Core) (l : Lid) (f : LCount → LCount) : (c.modCount l f).job = c.job := rfl
@[simp] theorem Core.modCount_xnext (c : Core) (l : Lid) (f : LCount → LCount) : (c.modCount l f).xnext = c.xnext := rfl
@[simp] theorem Core.modCount_jnext (c : Core) (l : Lid) (f : LCount → LCount) : (c.modCount l f).jnext = c.jnext := rfl
@[simp] theorem Core.modCount_xout (c : Core) (l : Lid) (f : LCount → LCount) : (c.modCount l f).xout = c.xout := rfl
@[simp] theorem Core.modCount_jout (c : Core) (l : Lid) (f : LCount → LCount) : (c.modCount l f).jout = c.jout := rfl
@[simp] theorem Core.modCount_hold (c : Core) (l : Lid) (f : LCount → LCount) : (c.modCount l f).hold = c.hold := rfl
@[simp] theorem Core.modCount_report (c : Core) (l : Lid) (f : LCount → LCount) : (c.modCount l f).report = c.report := rfl
@[simp] theorem Core.modCount_returned (c : Core) (l : Lid) (f : LCount → LCount) : (c.modCount l f).returned = c.returned := rfl
@[simp] theorem Core.modCount_ord (c : Core) (l : Lid) (f : LCount → LCount) : (c.modCount l f).ord = c.ord := rfl
@[simp] theorem Core.modCount_ready (c : Core) (l : Lid) (f : LCount → LCount) : (c.modCount l f).ready = c.ready := rfl
@[simp] theorem Core.modCount_msgBank (c : Core) (l : Lid) (f : LCount → LCount) : (c.modCount l f).msgBank = c.msgBank := rfl
@[simp] theorem Core.bumpSeq_cid (c : Core) : (c.bumpSeq).cid = c.cid := rfl
@[simp] theorem Core.bumpSeq_g (c : Core) : (c.bumpSeq).g = c.g := rfl
@[simp] theorem Core.bumpSeq_obj (c : Core) : (c.bumpSeq).obj = c.obj := rfl
@[simp] theorem Core.bumpSeq_off (c : Core) : (c.bumpSeq).off = c.off := rfl
@[simp] theorem Core.bumpSeq_st (c : Core) : (c.bumpSeq).st = c.st := rfl
@[simp] theorem Core.bumpSeq_wid (c : Core) : (c.bumpSeq).wid = c.wid := rfl
@[simp] theorem Core.bumpSeq_htop (c : Core) : (c.bumpSeq).htop = c.htop := rfl
@[simp] theorem Core.bumpSeq_v (c : Core) : (c.bumpSeq).v = c.v := rfl
@[simp] theorem Core.bumpSeq_k (c : Core) : (c.bumpSeq).k = c.k := rfl
@[simp] theorem Core.bumpSeq_budget (c : Core) : (c.bumpSeq).budget = c.budget := rfl
@[simp] theorem Core.bumpSeq_lmret (c : Core) : (c.bumpSeq).lmret = c.lmret := rfl
@[simp] theorem Core.bumpSeq_ba0 (c : Core) : (c.bumpSeq).ba0 = c.ba0 := rfl
@[simp] theorem Core.bumpSeq_ba1 (c : Core) : (c.bumpSeq).ba1 = c.ba1 := rfl
@[simp] theorem Core.bumpSeq_cyc (c : Core) : (c.bumpSeq).cyc = c.cyc := rfl
@[simp] theorem Core.bumpSeq_xfid (c : Core) : (c.bumpSeq).xfid = c.xfid := rfl
@[simp] theorem Core.bumpSeq_jobid (c : Core) : (c.bumpSeq).jobid = c.jobid := rfl
@[simp] theorem Core.bumpSeq_cpsrc (c : Core) : (c.bumpSeq).cpsrc = c.cpsrc := rfl
@[simp] theorem Core.bumpSeq_cpdst (c : Core) : (c.bumpSeq).cpdst = c.cpdst := rfl
@[simp] theorem Core.bumpSeq_cplen (c : Core) : (c.bumpSeq).cplen = c.cplen := rfl
@[simp] theorem Core.bumpSeq_cpstrs (c : Core) : (c.bumpSeq).cpstrs = c.cpstrs := rfl
@[simp] theorem Core.bumpSeq_cpstrd (c : Core) : (c.bumpSeq).cpstrd = c.cpstrd := rfl
@[simp] theorem Core.bumpSeq_cpcnt (c : Core) : (c.bumpSeq).cpcnt = c.cpcnt := rfl
@[simp] theorem Core.bumpSeq_cphdl (c : Core) : (c.bumpSeq).cphdl = c.cphdl := rfl
@[simp] theorem Core.bumpSeq_clg (c : Core) : (c.bumpSeq).clg = c.clg := rfl
@[simp] theorem Core.bumpSeq_q (c : Core) : (c.bumpSeq).q = c.q := rfl
@[simp] theorem Core.bumpSeq_lm (c : Core) : (c.bumpSeq).lm = c.lm := rfl
@[simp] theorem Core.bumpSeq_lmErr (c : Core) : (c.bumpSeq).lmErr = c.lmErr := rfl
@[simp] theorem Core.bumpSeq_bankOff (c : Core) : (c.bumpSeq).bankOff = c.bankOff := rfl
@[simp] theorem Core.bumpSeq_stint (c : Core) : (c.bumpSeq).stint = c.stint := rfl
@[simp] theorem Core.bumpSeq_wait (c : Core) : (c.bumpSeq).wait = c.wait := rfl
@[simp] theorem Core.bumpSeq_ob (c : Core) : (c.bumpSeq).ob = c.ob := rfl
@[simp] theorem Core.bumpSeq_ct (c : Core) : (c.bumpSeq).ct = c.ct := rfl
@[simp] theorem Core.bumpSeq_mq (c : Core) : (c.bumpSeq).mq = c.mq := rfl
@[simp] theorem Core.bumpSeq_runq (c : Core) : (c.bumpSeq).runq = c.runq := rfl
@[simp] theorem Core.bumpSeq_back (c : Core) : (c.bumpSeq).back = c.back := rfl
@[simp] theorem Core.bumpSeq_parked (c : Core) : (c.bumpSeq).parked = c.parked := rfl
@[simp] theorem Core.bumpSeq_late (c : Core) : (c.bumpSeq).late = c.late := rfl
@[simp] theorem Core.bumpSeq_slab (c : Core) : (c.bumpSeq).slab = c.slab := rfl
@[simp] theorem Core.bumpSeq_frames (c : Core) : (c.bumpSeq).frames = c.frames := rfl
@[simp] theorem Core.bumpSeq_retain (c : Core) : (c.bumpSeq).retain = c.retain := rfl
@[simp] theorem Core.bumpSeq_view (c : Core) : (c.bumpSeq).view = c.view := rfl
@[simp] theorem Core.bumpSeq_job (c : Core) : (c.bumpSeq).job = c.job := rfl
@[simp] theorem Core.bumpSeq_xnext (c : Core) : (c.bumpSeq).xnext = c.xnext := rfl
@[simp] theorem Core.bumpSeq_jnext (c : Core) : (c.bumpSeq).jnext = c.jnext := rfl
@[simp] theorem Core.bumpSeq_xout (c : Core) : (c.bumpSeq).xout = c.xout := rfl
@[simp] theorem Core.bumpSeq_jout (c : Core) : (c.bumpSeq).jout = c.jout := rfl
@[simp] theorem Core.bumpSeq_hold (c : Core) : (c.bumpSeq).hold = c.hold := rfl
@[simp] theorem Core.bumpSeq_report (c : Core) : (c.bumpSeq).report = c.report := rfl
@[simp] theorem Core.bumpSeq_returned (c : Core) : (c.bumpSeq).returned = c.returned := rfl
@[simp] theorem Core.bumpSeq_ord (c : Core) : (c.bumpSeq).ord = c.ord := rfl
@[simp] theorem Core.bumpSeq_ready (c : Core) : (c.bumpSeq).ready = c.ready := rfl
@[simp] theorem Core.bumpSeq_msgBank (c : Core) : (c.bumpSeq).msgBank = c.msgBank := rfl
@[simp] theorem Core.setBa_cid (c : Core) (x : Bool) (n : Nat) : (c.setBa x n).cid = c.cid := by cases x <;> rfl
@[simp] theorem Core.setBa_g (c : Core) (x : Bool) (n : Nat) : (c.setBa x n).g = c.g := by cases x <;> rfl
@[simp] theorem Core.setBa_obj (c : Core) (x : Bool) (n : Nat) : (c.setBa x n).obj = c.obj := by cases x <;> rfl
@[simp] theorem Core.setBa_off (c : Core) (x : Bool) (n : Nat) : (c.setBa x n).off = c.off := by cases x <;> rfl
@[simp] theorem Core.setBa_st (c : Core) (x : Bool) (n : Nat) : (c.setBa x n).st = c.st := by cases x <;> rfl
@[simp] theorem Core.setBa_wid (c : Core) (x : Bool) (n : Nat) : (c.setBa x n).wid = c.wid := by cases x <;> rfl
@[simp] theorem Core.setBa_htop (c : Core) (x : Bool) (n : Nat) : (c.setBa x n).htop = c.htop := by cases x <;> rfl
@[simp] theorem Core.setBa_v (c : Core) (x : Bool) (n : Nat) : (c.setBa x n).v = c.v := by cases x <;> rfl
@[simp] theorem Core.setBa_k (c : Core) (x : Bool) (n : Nat) : (c.setBa x n).k = c.k := by cases x <;> rfl
@[simp] theorem Core.setBa_budget (c : Core) (x : Bool) (n : Nat) : (c.setBa x n).budget = c.budget := by cases x <;> rfl
@[simp] theorem Core.setBa_lmret (c : Core) (x : Bool) (n : Nat) : (c.setBa x n).lmret = c.lmret := by cases x <;> rfl
@[simp] theorem Core.setBa_cyc (c : Core) (x : Bool) (n : Nat) : (c.setBa x n).cyc = c.cyc := by cases x <;> rfl
@[simp] theorem Core.setBa_xfid (c : Core) (x : Bool) (n : Nat) : (c.setBa x n).xfid = c.xfid := by cases x <;> rfl
@[simp] theorem Core.setBa_jobid (c : Core) (x : Bool) (n : Nat) : (c.setBa x n).jobid = c.jobid := by cases x <;> rfl
@[simp] theorem Core.setBa_cpsrc (c : Core) (x : Bool) (n : Nat) : (c.setBa x n).cpsrc = c.cpsrc := by cases x <;> rfl
@[simp] theorem Core.setBa_cpdst (c : Core) (x : Bool) (n : Nat) : (c.setBa x n).cpdst = c.cpdst := by cases x <;> rfl
@[simp] theorem Core.setBa_cplen (c : Core) (x : Bool) (n : Nat) : (c.setBa x n).cplen = c.cplen := by cases x <;> rfl
@[simp] theorem Core.setBa_cpstrs (c : Core) (x : Bool) (n : Nat) : (c.setBa x n).cpstrs = c.cpstrs := by cases x <;> rfl
@[simp] theorem Core.setBa_cpstrd (c : Core) (x : Bool) (n : Nat) : (c.setBa x n).cpstrd = c.cpstrd := by cases x <;> rfl
@[simp] theorem Core.setBa_cpcnt (c : Core) (x : Bool) (n : Nat) : (c.setBa x n).cpcnt = c.cpcnt := by cases x <;> rfl
@[simp] theorem Core.setBa_cphdl (c : Core) (x : Bool) (n : Nat) : (c.setBa x n).cphdl = c.cphdl := by cases x <;> rfl
@[simp] theorem Core.setBa_clg (c : Core) (x : Bool) (n : Nat) : (c.setBa x n).clg = c.clg := by cases x <;> rfl
@[simp] theorem Core.setBa_q (c : Core) (x : Bool) (n : Nat) : (c.setBa x n).q = c.q := by cases x <;> rfl
@[simp] theorem Core.setBa_lm (c : Core) (x : Bool) (n : Nat) : (c.setBa x n).lm = c.lm := by cases x <;> rfl
@[simp] theorem Core.setBa_lmErr (c : Core) (x : Bool) (n : Nat) : (c.setBa x n).lmErr = c.lmErr := by cases x <;> rfl
@[simp] theorem Core.setBa_bankOff (c : Core) (x : Bool) (n : Nat) : (c.setBa x n).bankOff = c.bankOff := by cases x <;> rfl
@[simp] theorem Core.setBa_stint (c : Core) (x : Bool) (n : Nat) : (c.setBa x n).stint = c.stint := by cases x <;> rfl
@[simp] theorem Core.setBa_wait (c : Core) (x : Bool) (n : Nat) : (c.setBa x n).wait = c.wait := by cases x <;> rfl
@[simp] theorem Core.setBa_ob (c : Core) (x : Bool) (n : Nat) : (c.setBa x n).ob = c.ob := by cases x <;> rfl
@[simp] theorem Core.setBa_ct (c : Core) (x : Bool) (n : Nat) : (c.setBa x n).ct = c.ct := by cases x <;> rfl
@[simp] theorem Core.setBa_mq (c : Core) (x : Bool) (n : Nat) : (c.setBa x n).mq = c.mq := by cases x <;> rfl
@[simp] theorem Core.setBa_runq (c : Core) (x : Bool) (n : Nat) : (c.setBa x n).runq = c.runq := by cases x <;> rfl
@[simp] theorem Core.setBa_back (c : Core) (x : Bool) (n : Nat) : (c.setBa x n).back = c.back := by cases x <;> rfl
@[simp] theorem Core.setBa_parked (c : Core) (x : Bool) (n : Nat) : (c.setBa x n).parked = c.parked := by cases x <;> rfl
@[simp] theorem Core.setBa_late (c : Core) (x : Bool) (n : Nat) : (c.setBa x n).late = c.late := by cases x <;> rfl
@[simp] theorem Core.setBa_slab (c : Core) (x : Bool) (n : Nat) : (c.setBa x n).slab = c.slab := by cases x <;> rfl
@[simp] theorem Core.setBa_frames (c : Core) (x : Bool) (n : Nat) : (c.setBa x n).frames = c.frames := by cases x <;> rfl
@[simp] theorem Core.setBa_retain (c : Core) (x : Bool) (n : Nat) : (c.setBa x n).retain = c.retain := by cases x <;> rfl
@[simp] theorem Core.setBa_view (c : Core) (x : Bool) (n : Nat) : (c.setBa x n).view = c.view := by cases x <;> rfl
@[simp] theorem Core.setBa_job (c : Core) (x : Bool) (n : Nat) : (c.setBa x n).job = c.job := by cases x <;> rfl
@[simp] theorem Core.setBa_xnext (c : Core) (x : Bool) (n : Nat) : (c.setBa x n).xnext = c.xnext := by cases x <;> rfl
@[simp] theorem Core.setBa_jnext (c : Core) (x : Bool) (n : Nat) : (c.setBa x n).jnext = c.jnext := by cases x <;> rfl
@[simp] theorem Core.setBa_xout (c : Core) (x : Bool) (n : Nat) : (c.setBa x n).xout = c.xout := by cases x <;> rfl
@[simp] theorem Core.setBa_jout (c : Core) (x : Bool) (n : Nat) : (c.setBa x n).jout = c.jout := by cases x <;> rfl
@[simp] theorem Core.setBa_counts (c : Core) (x : Bool) (n : Nat) : (c.setBa x n).counts = c.counts := by cases x <;> rfl
@[simp] theorem Core.setBa_hold (c : Core) (x : Bool) (n : Nat) : (c.setBa x n).hold = c.hold := by cases x <;> rfl
@[simp] theorem Core.setBa_report (c : Core) (x : Bool) (n : Nat) : (c.setBa x n).report = c.report := by cases x <;> rfl
@[simp] theorem Core.setBa_returned (c : Core) (x : Bool) (n : Nat) : (c.setBa x n).returned = c.returned := by cases x <;> rfl
@[simp] theorem Core.setBa_ord (c : Core) (x : Bool) (n : Nat) : (c.setBa x n).ord = c.ord := by cases x <;> rfl
@[simp] theorem Core.setBa_ready (c : Core) (x : Bool) (n : Nat) : (c.setBa x n).ready = c.ready := by cases x <;> rfl
@[simp] theorem Core.setBa_msgBank (c : Core) (x : Bool) (n : Nat) : (c.setBa x n).msgBank = c.msgBank := by cases x <;> rfl

/-! Acquire, and the vector and mask registers. -/

@[simp] theorem Core.acquire_cid (c : Core) (sc : Scope) : (c.acquire sc).cid = c.cid := by cases sc <;> rfl
@[simp] theorem Core.acquire_g (c : Core) (sc : Scope) : (c.acquire sc).g = c.g := by cases sc <;> rfl
@[simp] theorem Core.acquire_obj (c : Core) (sc : Scope) : (c.acquire sc).obj = c.obj := by cases sc <;> rfl
@[simp] theorem Core.acquire_off (c : Core) (sc : Scope) : (c.acquire sc).off = c.off := by cases sc <;> rfl
@[simp] theorem Core.acquire_st (c : Core) (sc : Scope) : (c.acquire sc).st = c.st := by cases sc <;> rfl
@[simp] theorem Core.acquire_wid (c : Core) (sc : Scope) : (c.acquire sc).wid = c.wid := by cases sc <;> rfl
@[simp] theorem Core.acquire_htop (c : Core) (sc : Scope) : (c.acquire sc).htop = c.htop := by cases sc <;> rfl
@[simp] theorem Core.acquire_v (c : Core) (sc : Scope) : (c.acquire sc).v = c.v := by cases sc <;> rfl
@[simp] theorem Core.acquire_k (c : Core) (sc : Scope) : (c.acquire sc).k = c.k := by cases sc <;> rfl
@[simp] theorem Core.acquire_budget (c : Core) (sc : Scope) : (c.acquire sc).budget = c.budget := by cases sc <;> rfl
@[simp] theorem Core.acquire_lmret (c : Core) (sc : Scope) : (c.acquire sc).lmret = c.lmret := by cases sc <;> rfl
@[simp] theorem Core.acquire_ba0 (c : Core) (sc : Scope) : (c.acquire sc).ba0 = c.ba0 := by cases sc <;> rfl
@[simp] theorem Core.acquire_ba1 (c : Core) (sc : Scope) : (c.acquire sc).ba1 = c.ba1 := by cases sc <;> rfl
@[simp] theorem Core.acquire_cyc (c : Core) (sc : Scope) : (c.acquire sc).cyc = c.cyc := by cases sc <;> rfl
@[simp] theorem Core.acquire_xfid (c : Core) (sc : Scope) : (c.acquire sc).xfid = c.xfid := by cases sc <;> rfl
@[simp] theorem Core.acquire_jobid (c : Core) (sc : Scope) : (c.acquire sc).jobid = c.jobid := by cases sc <;> rfl
@[simp] theorem Core.acquire_cpsrc (c : Core) (sc : Scope) : (c.acquire sc).cpsrc = c.cpsrc := by cases sc <;> rfl
@[simp] theorem Core.acquire_cpdst (c : Core) (sc : Scope) : (c.acquire sc).cpdst = c.cpdst := by cases sc <;> rfl
@[simp] theorem Core.acquire_cplen (c : Core) (sc : Scope) : (c.acquire sc).cplen = c.cplen := by cases sc <;> rfl
@[simp] theorem Core.acquire_cpstrs (c : Core) (sc : Scope) : (c.acquire sc).cpstrs = c.cpstrs := by cases sc <;> rfl
@[simp] theorem Core.acquire_cpstrd (c : Core) (sc : Scope) : (c.acquire sc).cpstrd = c.cpstrd := by cases sc <;> rfl
@[simp] theorem Core.acquire_cpcnt (c : Core) (sc : Scope) : (c.acquire sc).cpcnt = c.cpcnt := by cases sc <;> rfl
@[simp] theorem Core.acquire_cphdl (c : Core) (sc : Scope) : (c.acquire sc).cphdl = c.cphdl := by cases sc <;> rfl
@[simp] theorem Core.acquire_clg (c : Core) (sc : Scope) : (c.acquire sc).clg = c.clg := by cases sc <;> rfl
@[simp] theorem Core.acquire_q (c : Core) (sc : Scope) : (c.acquire sc).q = c.q := by cases sc <;> rfl
@[simp] theorem Core.acquire_lm (c : Core) (sc : Scope) : (c.acquire sc).lm = c.lm := by cases sc <;> rfl
@[simp] theorem Core.acquire_lmErr (c : Core) (sc : Scope) : (c.acquire sc).lmErr = c.lmErr := by cases sc <;> rfl
@[simp] theorem Core.acquire_bankOff (c : Core) (sc : Scope) : (c.acquire sc).bankOff = c.bankOff := by cases sc <;> rfl
@[simp] theorem Core.acquire_stint (c : Core) (sc : Scope) : (c.acquire sc).stint = c.stint := by cases sc <;> rfl
@[simp] theorem Core.acquire_wait (c : Core) (sc : Scope) : (c.acquire sc).wait = c.wait := by cases sc <;> rfl
@[simp] theorem Core.acquire_ob (c : Core) (sc : Scope) : (c.acquire sc).ob = c.ob := by cases sc <;> rfl
@[simp] theorem Core.acquire_ct (c : Core) (sc : Scope) : (c.acquire sc).ct = c.ct := by cases sc <;> rfl
@[simp] theorem Core.acquire_mq (c : Core) (sc : Scope) : (c.acquire sc).mq = c.mq := by cases sc <;> rfl
@[simp] theorem Core.acquire_runq (c : Core) (sc : Scope) : (c.acquire sc).runq = c.runq := by cases sc <;> rfl
@[simp] theorem Core.acquire_back (c : Core) (sc : Scope) : (c.acquire sc).back = c.back := by cases sc <;> rfl
@[simp] theorem Core.acquire_parked (c : Core) (sc : Scope) : (c.acquire sc).parked = c.parked := by cases sc <;> rfl
@[simp] theorem Core.acquire_late (c : Core) (sc : Scope) : (c.acquire sc).late = c.late := by cases sc <;> rfl
@[simp] theorem Core.acquire_slab (c : Core) (sc : Scope) : (c.acquire sc).slab = c.slab := by cases sc <;> rfl
@[simp] theorem Core.acquire_frames (c : Core) (sc : Scope) : (c.acquire sc).frames = c.frames := by cases sc <;> rfl
@[simp] theorem Core.acquire_retain (c : Core) (sc : Scope) : (c.acquire sc).retain = c.retain := by cases sc <;> rfl
@[simp] theorem Core.acquire_job (c : Core) (sc : Scope) : (c.acquire sc).job = c.job := by cases sc <;> rfl
@[simp] theorem Core.acquire_xnext (c : Core) (sc : Scope) : (c.acquire sc).xnext = c.xnext := by cases sc <;> rfl
@[simp] theorem Core.acquire_jnext (c : Core) (sc : Scope) : (c.acquire sc).jnext = c.jnext := by cases sc <;> rfl
@[simp] theorem Core.acquire_xout (c : Core) (sc : Scope) : (c.acquire sc).xout = c.xout := by cases sc <;> rfl
@[simp] theorem Core.acquire_jout (c : Core) (sc : Scope) : (c.acquire sc).jout = c.jout := by cases sc <;> rfl
@[simp] theorem Core.acquire_counts (c : Core) (sc : Scope) : (c.acquire sc).counts = c.counts := by cases sc <;> rfl
@[simp] theorem Core.acquire_hold (c : Core) (sc : Scope) : (c.acquire sc).hold = c.hold := by cases sc <;> rfl
@[simp] theorem Core.acquire_report (c : Core) (sc : Scope) : (c.acquire sc).report = c.report := by cases sc <;> rfl
@[simp] theorem Core.acquire_returned (c : Core) (sc : Scope) : (c.acquire sc).returned = c.returned := by cases sc <;> rfl
@[simp] theorem Core.acquire_ord (c : Core) (sc : Scope) : (c.acquire sc).ord = c.ord := by cases sc <;> rfl
@[simp] theorem Core.acquire_ready (c : Core) (sc : Scope) : (c.acquire sc).ready = c.ready := by cases sc <;> rfl
@[simp] theorem Core.acquire_msgBank (c : Core) (sc : Scope) : (c.acquire sc).msgBank = c.msgBank := by cases sc <;> rfl
@[simp] theorem Core.setV_v (c : Core) (d : VReg) (x : BitVec 512) : (c.setV d x).v = c.v.set d x := rfl
@[simp] theorem Core.setV_st (c : Core) (d : VReg) (x : BitVec 512) : (c.setV d x).st = setFld c.st 32 1 1 := rfl
@[simp] theorem Core.setV_cid (c : Core) (d : VReg) (x : BitVec 512) : (c.setV d x).cid = c.cid := rfl
@[simp] theorem Core.setV_g (c : Core) (d : VReg) (x : BitVec 512) : (c.setV d x).g = c.g := rfl
@[simp] theorem Core.setV_obj (c : Core) (d : VReg) (x : BitVec 512) : (c.setV d x).obj = c.obj := rfl
@[simp] theorem Core.setV_off (c : Core) (d : VReg) (x : BitVec 512) : (c.setV d x).off = c.off := rfl
@[simp] theorem Core.setV_wid (c : Core) (d : VReg) (x : BitVec 512) : (c.setV d x).wid = c.wid := rfl
@[simp] theorem Core.setV_htop (c : Core) (d : VReg) (x : BitVec 512) : (c.setV d x).htop = c.htop := rfl
@[simp] theorem Core.setV_k (c : Core) (d : VReg) (x : BitVec 512) : (c.setV d x).k = c.k := rfl
@[simp] theorem Core.setV_budget (c : Core) (d : VReg) (x : BitVec 512) : (c.setV d x).budget = c.budget := rfl
@[simp] theorem Core.setV_lmret (c : Core) (d : VReg) (x : BitVec 512) : (c.setV d x).lmret = c.lmret := rfl
@[simp] theorem Core.setV_ba0 (c : Core) (d : VReg) (x : BitVec 512) : (c.setV d x).ba0 = c.ba0 := rfl
@[simp] theorem Core.setV_ba1 (c : Core) (d : VReg) (x : BitVec 512) : (c.setV d x).ba1 = c.ba1 := rfl
@[simp] theorem Core.setV_cyc (c : Core) (d : VReg) (x : BitVec 512) : (c.setV d x).cyc = c.cyc := rfl
@[simp] theorem Core.setV_xfid (c : Core) (d : VReg) (x : BitVec 512) : (c.setV d x).xfid = c.xfid := rfl
@[simp] theorem Core.setV_jobid (c : Core) (d : VReg) (x : BitVec 512) : (c.setV d x).jobid = c.jobid := rfl
@[simp] theorem Core.setV_cpsrc (c : Core) (d : VReg) (x : BitVec 512) : (c.setV d x).cpsrc = c.cpsrc := rfl
@[simp] theorem Core.setV_cpdst (c : Core) (d : VReg) (x : BitVec 512) : (c.setV d x).cpdst = c.cpdst := rfl
@[simp] theorem Core.setV_cplen (c : Core) (d : VReg) (x : BitVec 512) : (c.setV d x).cplen = c.cplen := rfl
@[simp] theorem Core.setV_cpstrs (c : Core) (d : VReg) (x : BitVec 512) : (c.setV d x).cpstrs = c.cpstrs := rfl
@[simp] theorem Core.setV_cpstrd (c : Core) (d : VReg) (x : BitVec 512) : (c.setV d x).cpstrd = c.cpstrd := rfl
@[simp] theorem Core.setV_cpcnt (c : Core) (d : VReg) (x : BitVec 512) : (c.setV d x).cpcnt = c.cpcnt := rfl
@[simp] theorem Core.setV_cphdl (c : Core) (d : VReg) (x : BitVec 512) : (c.setV d x).cphdl = c.cphdl := rfl
@[simp] theorem Core.setV_clg (c : Core) (d : VReg) (x : BitVec 512) : (c.setV d x).clg = c.clg := rfl
@[simp] theorem Core.setV_q (c : Core) (d : VReg) (x : BitVec 512) : (c.setV d x).q = c.q := rfl
@[simp] theorem Core.setV_lm (c : Core) (d : VReg) (x : BitVec 512) : (c.setV d x).lm = c.lm := rfl
@[simp] theorem Core.setV_lmErr (c : Core) (d : VReg) (x : BitVec 512) : (c.setV d x).lmErr = c.lmErr := rfl
@[simp] theorem Core.setV_bankOff (c : Core) (d : VReg) (x : BitVec 512) : (c.setV d x).bankOff = c.bankOff := rfl
@[simp] theorem Core.setV_stint (c : Core) (d : VReg) (x : BitVec 512) : (c.setV d x).stint = c.stint := rfl
@[simp] theorem Core.setV_wait (c : Core) (d : VReg) (x : BitVec 512) : (c.setV d x).wait = c.wait := rfl
@[simp] theorem Core.setV_ob (c : Core) (d : VReg) (x : BitVec 512) : (c.setV d x).ob = c.ob := rfl
@[simp] theorem Core.setV_ct (c : Core) (d : VReg) (x : BitVec 512) : (c.setV d x).ct = c.ct := rfl
@[simp] theorem Core.setV_mq (c : Core) (d : VReg) (x : BitVec 512) : (c.setV d x).mq = c.mq := rfl
@[simp] theorem Core.setV_runq (c : Core) (d : VReg) (x : BitVec 512) : (c.setV d x).runq = c.runq := rfl
@[simp] theorem Core.setV_back (c : Core) (d : VReg) (x : BitVec 512) : (c.setV d x).back = c.back := rfl
@[simp] theorem Core.setV_parked (c : Core) (d : VReg) (x : BitVec 512) : (c.setV d x).parked = c.parked := rfl
@[simp] theorem Core.setV_late (c : Core) (d : VReg) (x : BitVec 512) : (c.setV d x).late = c.late := rfl
@[simp] theorem Core.setV_slab (c : Core) (d : VReg) (x : BitVec 512) : (c.setV d x).slab = c.slab := rfl
@[simp] theorem Core.setV_frames (c : Core) (d : VReg) (x : BitVec 512) : (c.setV d x).frames = c.frames := rfl
@[simp] theorem Core.setV_retain (c : Core) (d : VReg) (x : BitVec 512) : (c.setV d x).retain = c.retain := rfl
@[simp] theorem Core.setV_view (c : Core) (d : VReg) (x : BitVec 512) : (c.setV d x).view = c.view := rfl
@[simp] theorem Core.setV_job (c : Core) (d : VReg) (x : BitVec 512) : (c.setV d x).job = c.job := rfl
@[simp] theorem Core.setV_xnext (c : Core) (d : VReg) (x : BitVec 512) : (c.setV d x).xnext = c.xnext := rfl
@[simp] theorem Core.setV_jnext (c : Core) (d : VReg) (x : BitVec 512) : (c.setV d x).jnext = c.jnext := rfl
@[simp] theorem Core.setV_xout (c : Core) (d : VReg) (x : BitVec 512) : (c.setV d x).xout = c.xout := rfl
@[simp] theorem Core.setV_jout (c : Core) (d : VReg) (x : BitVec 512) : (c.setV d x).jout = c.jout := rfl
@[simp] theorem Core.setV_counts (c : Core) (d : VReg) (x : BitVec 512) : (c.setV d x).counts = c.counts := rfl
@[simp] theorem Core.setV_hold (c : Core) (d : VReg) (x : BitVec 512) : (c.setV d x).hold = c.hold := rfl
@[simp] theorem Core.setV_report (c : Core) (d : VReg) (x : BitVec 512) : (c.setV d x).report = c.report := rfl
@[simp] theorem Core.setV_returned (c : Core) (d : VReg) (x : BitVec 512) : (c.setV d x).returned = c.returned := rfl
@[simp] theorem Core.setV_ord (c : Core) (d : VReg) (x : BitVec 512) : (c.setV d x).ord = c.ord := rfl
@[simp] theorem Core.setV_ready (c : Core) (d : VReg) (x : BitVec 512) : (c.setV d x).ready = c.ready := rfl
@[simp] theorem Core.setV_msgBank (c : Core) (d : VReg) (x : BitVec 512) : (c.setV d x).msgBank = c.msgBank := rfl
@[simp] theorem Core.setK_cid (c : Core) (d : KReg) (x : Word) : (c.setK d x).cid = c.cid := by unfold Core.setK; split <;> rfl
@[simp] theorem Core.setK_g (c : Core) (d : KReg) (x : Word) : (c.setK d x).g = c.g := by unfold Core.setK; split <;> rfl
@[simp] theorem Core.setK_obj (c : Core) (d : KReg) (x : Word) : (c.setK d x).obj = c.obj := by unfold Core.setK; split <;> rfl
@[simp] theorem Core.setK_off (c : Core) (d : KReg) (x : Word) : (c.setK d x).off = c.off := by unfold Core.setK; split <;> rfl
@[simp] theorem Core.setK_wid (c : Core) (d : KReg) (x : Word) : (c.setK d x).wid = c.wid := by unfold Core.setK; split <;> rfl
@[simp] theorem Core.setK_htop (c : Core) (d : KReg) (x : Word) : (c.setK d x).htop = c.htop := by unfold Core.setK; split <;> rfl
@[simp] theorem Core.setK_v (c : Core) (d : KReg) (x : Word) : (c.setK d x).v = c.v := by unfold Core.setK; split <;> rfl
@[simp] theorem Core.setK_budget (c : Core) (d : KReg) (x : Word) : (c.setK d x).budget = c.budget := by unfold Core.setK; split <;> rfl
@[simp] theorem Core.setK_lmret (c : Core) (d : KReg) (x : Word) : (c.setK d x).lmret = c.lmret := by unfold Core.setK; split <;> rfl
@[simp] theorem Core.setK_ba0 (c : Core) (d : KReg) (x : Word) : (c.setK d x).ba0 = c.ba0 := by unfold Core.setK; split <;> rfl
@[simp] theorem Core.setK_ba1 (c : Core) (d : KReg) (x : Word) : (c.setK d x).ba1 = c.ba1 := by unfold Core.setK; split <;> rfl
@[simp] theorem Core.setK_cyc (c : Core) (d : KReg) (x : Word) : (c.setK d x).cyc = c.cyc := by unfold Core.setK; split <;> rfl
@[simp] theorem Core.setK_xfid (c : Core) (d : KReg) (x : Word) : (c.setK d x).xfid = c.xfid := by unfold Core.setK; split <;> rfl
@[simp] theorem Core.setK_jobid (c : Core) (d : KReg) (x : Word) : (c.setK d x).jobid = c.jobid := by unfold Core.setK; split <;> rfl
@[simp] theorem Core.setK_cpsrc (c : Core) (d : KReg) (x : Word) : (c.setK d x).cpsrc = c.cpsrc := by unfold Core.setK; split <;> rfl
@[simp] theorem Core.setK_cpdst (c : Core) (d : KReg) (x : Word) : (c.setK d x).cpdst = c.cpdst := by unfold Core.setK; split <;> rfl
@[simp] theorem Core.setK_cplen (c : Core) (d : KReg) (x : Word) : (c.setK d x).cplen = c.cplen := by unfold Core.setK; split <;> rfl
@[simp] theorem Core.setK_cpstrs (c : Core) (d : KReg) (x : Word) : (c.setK d x).cpstrs = c.cpstrs := by unfold Core.setK; split <;> rfl
@[simp] theorem Core.setK_cpstrd (c : Core) (d : KReg) (x : Word) : (c.setK d x).cpstrd = c.cpstrd := by unfold Core.setK; split <;> rfl
@[simp] theorem Core.setK_cpcnt (c : Core) (d : KReg) (x : Word) : (c.setK d x).cpcnt = c.cpcnt := by unfold Core.setK; split <;> rfl
@[simp] theorem Core.setK_cphdl (c : Core) (d : KReg) (x : Word) : (c.setK d x).cphdl = c.cphdl := by unfold Core.setK; split <;> rfl
@[simp] theorem Core.setK_clg (c : Core) (d : KReg) (x : Word) : (c.setK d x).clg = c.clg := by unfold Core.setK; split <;> rfl
@[simp] theorem Core.setK_q (c : Core) (d : KReg) (x : Word) : (c.setK d x).q = c.q := by unfold Core.setK; split <;> rfl
@[simp] theorem Core.setK_lm (c : Core) (d : KReg) (x : Word) : (c.setK d x).lm = c.lm := by unfold Core.setK; split <;> rfl
@[simp] theorem Core.setK_lmErr (c : Core) (d : KReg) (x : Word) : (c.setK d x).lmErr = c.lmErr := by unfold Core.setK; split <;> rfl
@[simp] theorem Core.setK_bankOff (c : Core) (d : KReg) (x : Word) : (c.setK d x).bankOff = c.bankOff := by unfold Core.setK; split <;> rfl
@[simp] theorem Core.setK_stint (c : Core) (d : KReg) (x : Word) : (c.setK d x).stint = c.stint := by unfold Core.setK; split <;> rfl
@[simp] theorem Core.setK_wait (c : Core) (d : KReg) (x : Word) : (c.setK d x).wait = c.wait := by unfold Core.setK; split <;> rfl
@[simp] theorem Core.setK_ob (c : Core) (d : KReg) (x : Word) : (c.setK d x).ob = c.ob := by unfold Core.setK; split <;> rfl
@[simp] theorem Core.setK_ct (c : Core) (d : KReg) (x : Word) : (c.setK d x).ct = c.ct := by unfold Core.setK; split <;> rfl
@[simp] theorem Core.setK_mq (c : Core) (d : KReg) (x : Word) : (c.setK d x).mq = c.mq := by unfold Core.setK; split <;> rfl
@[simp] theorem Core.setK_runq (c : Core) (d : KReg) (x : Word) : (c.setK d x).runq = c.runq := by unfold Core.setK; split <;> rfl
@[simp] theorem Core.setK_back (c : Core) (d : KReg) (x : Word) : (c.setK d x).back = c.back := by unfold Core.setK; split <;> rfl
@[simp] theorem Core.setK_parked (c : Core) (d : KReg) (x : Word) : (c.setK d x).parked = c.parked := by unfold Core.setK; split <;> rfl
@[simp] theorem Core.setK_late (c : Core) (d : KReg) (x : Word) : (c.setK d x).late = c.late := by unfold Core.setK; split <;> rfl
@[simp] theorem Core.setK_slab (c : Core) (d : KReg) (x : Word) : (c.setK d x).slab = c.slab := by unfold Core.setK; split <;> rfl
@[simp] theorem Core.setK_frames (c : Core) (d : KReg) (x : Word) : (c.setK d x).frames = c.frames := by unfold Core.setK; split <;> rfl
@[simp] theorem Core.setK_retain (c : Core) (d : KReg) (x : Word) : (c.setK d x).retain = c.retain := by unfold Core.setK; split <;> rfl
@[simp] theorem Core.setK_view (c : Core) (d : KReg) (x : Word) : (c.setK d x).view = c.view := by unfold Core.setK; split <;> rfl
@[simp] theorem Core.setK_job (c : Core) (d : KReg) (x : Word) : (c.setK d x).job = c.job := by unfold Core.setK; split <;> rfl
@[simp] theorem Core.setK_xnext (c : Core) (d : KReg) (x : Word) : (c.setK d x).xnext = c.xnext := by unfold Core.setK; split <;> rfl
@[simp] theorem Core.setK_jnext (c : Core) (d : KReg) (x : Word) : (c.setK d x).jnext = c.jnext := by unfold Core.setK; split <;> rfl
@[simp] theorem Core.setK_xout (c : Core) (d : KReg) (x : Word) : (c.setK d x).xout = c.xout := by unfold Core.setK; split <;> rfl
@[simp] theorem Core.setK_jout (c : Core) (d : KReg) (x : Word) : (c.setK d x).jout = c.jout := by unfold Core.setK; split <;> rfl
@[simp] theorem Core.setK_counts (c : Core) (d : KReg) (x : Word) : (c.setK d x).counts = c.counts := by unfold Core.setK; split <;> rfl
@[simp] theorem Core.setK_hold (c : Core) (d : KReg) (x : Word) : (c.setK d x).hold = c.hold := by unfold Core.setK; split <;> rfl
@[simp] theorem Core.setK_report (c : Core) (d : KReg) (x : Word) : (c.setK d x).report = c.report := by unfold Core.setK; split <;> rfl
@[simp] theorem Core.setK_returned (c : Core) (d : KReg) (x : Word) : (c.setK d x).returned = c.returned := by unfold Core.setK; split <;> rfl
@[simp] theorem Core.setK_ord (c : Core) (d : KReg) (x : Word) : (c.setK d x).ord = c.ord := by unfold Core.setK; split <;> rfl
@[simp] theorem Core.setK_ready (c : Core) (d : KReg) (x : Word) : (c.setK d x).ready = c.ready := by unfold Core.setK; split <;> rfl
@[simp] theorem Core.setK_msgBank (c : Core) (d : KReg) (x : Word) : (c.setK d x).msgBank = c.msgBank := by unfold Core.setK; split <;> rfl

/-! Charging, retiring, jumping, stalling (R31, R64, R83). -/

@[simp] theorem Core.charge_cid (c : Core) (n pj : Nat) : (c.charge n pj).cid = c.cid := by unfold Core.charge; dsimp only; split <;> rfl
@[simp] theorem Core.charge_g (c : Core) (n pj : Nat) : (c.charge n pj).g = c.g := by unfold Core.charge; dsimp only; split <;> rfl
@[simp] theorem Core.charge_obj (c : Core) (n pj : Nat) : (c.charge n pj).obj = c.obj := by unfold Core.charge; dsimp only; split <;> rfl
@[simp] theorem Core.charge_off (c : Core) (n pj : Nat) : (c.charge n pj).off = c.off := by unfold Core.charge; dsimp only; split <;> rfl
@[simp] theorem Core.charge_st (c : Core) (n pj : Nat) : (c.charge n pj).st = c.st := by unfold Core.charge; dsimp only; split <;> rfl
@[simp] theorem Core.charge_wid (c : Core) (n pj : Nat) : (c.charge n pj).wid = c.wid := by unfold Core.charge; dsimp only; split <;> rfl
@[simp] theorem Core.charge_htop (c : Core) (n pj : Nat) : (c.charge n pj).htop = c.htop := by unfold Core.charge; dsimp only; split <;> rfl
@[simp] theorem Core.charge_v (c : Core) (n pj : Nat) : (c.charge n pj).v = c.v := by unfold Core.charge; dsimp only; split <;> rfl
@[simp] theorem Core.charge_k (c : Core) (n pj : Nat) : (c.charge n pj).k = c.k := by unfold Core.charge; dsimp only; split <;> rfl
@[simp] theorem Core.charge_lmret (c : Core) (n pj : Nat) : (c.charge n pj).lmret = c.lmret := by unfold Core.charge; dsimp only; split <;> rfl
@[simp] theorem Core.charge_ba0 (c : Core) (n pj : Nat) : (c.charge n pj).ba0 = c.ba0 := by unfold Core.charge; dsimp only; split <;> rfl
@[simp] theorem Core.charge_ba1 (c : Core) (n pj : Nat) : (c.charge n pj).ba1 = c.ba1 := by unfold Core.charge; dsimp only; split <;> rfl
@[simp] theorem Core.charge_xfid (c : Core) (n pj : Nat) : (c.charge n pj).xfid = c.xfid := by unfold Core.charge; dsimp only; split <;> rfl
@[simp] theorem Core.charge_jobid (c : Core) (n pj : Nat) : (c.charge n pj).jobid = c.jobid := by unfold Core.charge; dsimp only; split <;> rfl
@[simp] theorem Core.charge_cpsrc (c : Core) (n pj : Nat) : (c.charge n pj).cpsrc = c.cpsrc := by unfold Core.charge; dsimp only; split <;> rfl
@[simp] theorem Core.charge_cpdst (c : Core) (n pj : Nat) : (c.charge n pj).cpdst = c.cpdst := by unfold Core.charge; dsimp only; split <;> rfl
@[simp] theorem Core.charge_cplen (c : Core) (n pj : Nat) : (c.charge n pj).cplen = c.cplen := by unfold Core.charge; dsimp only; split <;> rfl
@[simp] theorem Core.charge_cpstrs (c : Core) (n pj : Nat) : (c.charge n pj).cpstrs = c.cpstrs := by unfold Core.charge; dsimp only; split <;> rfl
@[simp] theorem Core.charge_cpstrd (c : Core) (n pj : Nat) : (c.charge n pj).cpstrd = c.cpstrd := by unfold Core.charge; dsimp only; split <;> rfl
@[simp] theorem Core.charge_cpcnt (c : Core) (n pj : Nat) : (c.charge n pj).cpcnt = c.cpcnt := by unfold Core.charge; dsimp only; split <;> rfl
@[simp] theorem Core.charge_cphdl (c : Core) (n pj : Nat) : (c.charge n pj).cphdl = c.cphdl := by unfold Core.charge; dsimp only; split <;> rfl
@[simp] theorem Core.charge_clg (c : Core) (n pj : Nat) : (c.charge n pj).clg = c.clg := by unfold Core.charge; dsimp only; split <;> rfl
@[simp] theorem Core.charge_q (c : Core) (n pj : Nat) : (c.charge n pj).q = c.q := by unfold Core.charge; dsimp only; split <;> rfl
@[simp] theorem Core.charge_lm (c : Core) (n pj : Nat) : (c.charge n pj).lm = c.lm := by unfold Core.charge; dsimp only; split <;> rfl
@[simp] theorem Core.charge_lmErr (c : Core) (n pj : Nat) : (c.charge n pj).lmErr = c.lmErr := by unfold Core.charge; dsimp only; split <;> rfl
@[simp] theorem Core.charge_bankOff (c : Core) (n pj : Nat) : (c.charge n pj).bankOff = c.bankOff := by unfold Core.charge; dsimp only; split <;> rfl
@[simp] theorem Core.charge_stint (c : Core) (n pj : Nat) : (c.charge n pj).stint = c.stint := by unfold Core.charge; dsimp only; split <;> rfl
@[simp] theorem Core.charge_wait (c : Core) (n pj : Nat) : (c.charge n pj).wait = c.wait := by unfold Core.charge; dsimp only; split <;> rfl
@[simp] theorem Core.charge_ob (c : Core) (n pj : Nat) : (c.charge n pj).ob = c.ob := by unfold Core.charge; dsimp only; split <;> rfl
@[simp] theorem Core.charge_ct (c : Core) (n pj : Nat) : (c.charge n pj).ct = c.ct := by unfold Core.charge; dsimp only; split <;> rfl
@[simp] theorem Core.charge_mq (c : Core) (n pj : Nat) : (c.charge n pj).mq = c.mq := by unfold Core.charge; dsimp only; split <;> rfl
@[simp] theorem Core.charge_runq (c : Core) (n pj : Nat) : (c.charge n pj).runq = c.runq := by unfold Core.charge; dsimp only; split <;> rfl
@[simp] theorem Core.charge_back (c : Core) (n pj : Nat) : (c.charge n pj).back = c.back := by unfold Core.charge; dsimp only; split <;> rfl
@[simp] theorem Core.charge_parked (c : Core) (n pj : Nat) : (c.charge n pj).parked = c.parked := by unfold Core.charge; dsimp only; split <;> rfl
@[simp] theorem Core.charge_late (c : Core) (n pj : Nat) : (c.charge n pj).late = c.late := by unfold Core.charge; dsimp only; split <;> rfl
@[simp] theorem Core.charge_slab (c : Core) (n pj : Nat) : (c.charge n pj).slab = c.slab := by unfold Core.charge; dsimp only; split <;> rfl
@[simp] theorem Core.charge_frames (c : Core) (n pj : Nat) : (c.charge n pj).frames = c.frames := by unfold Core.charge; dsimp only; split <;> rfl
@[simp] theorem Core.charge_retain (c : Core) (n pj : Nat) : (c.charge n pj).retain = c.retain := by unfold Core.charge; dsimp only; split <;> rfl
@[simp] theorem Core.charge_view (c : Core) (n pj : Nat) : (c.charge n pj).view = c.view := by unfold Core.charge; dsimp only; split <;> rfl
@[simp] theorem Core.charge_job (c : Core) (n pj : Nat) : (c.charge n pj).job = c.job := by unfold Core.charge; dsimp only; split <;> rfl
@[simp] theorem Core.charge_xnext (c : Core) (n pj : Nat) : (c.charge n pj).xnext = c.xnext := by unfold Core.charge; dsimp only; split <;> rfl
@[simp] theorem Core.charge_jnext (c : Core) (n pj : Nat) : (c.charge n pj).jnext = c.jnext := by unfold Core.charge; dsimp only; split <;> rfl
@[simp] theorem Core.charge_xout (c : Core) (n pj : Nat) : (c.charge n pj).xout = c.xout := by unfold Core.charge; dsimp only; split <;> rfl
@[simp] theorem Core.charge_jout (c : Core) (n pj : Nat) : (c.charge n pj).jout = c.jout := by unfold Core.charge; dsimp only; split <;> rfl
@[simp] theorem Core.charge_hold (c : Core) (n pj : Nat) : (c.charge n pj).hold = c.hold := by unfold Core.charge; dsimp only; split <;> rfl
@[simp] theorem Core.charge_report (c : Core) (n pj : Nat) : (c.charge n pj).report = c.report := by unfold Core.charge; dsimp only; split <;> rfl
@[simp] theorem Core.charge_returned (c : Core) (n pj : Nat) : (c.charge n pj).returned = c.returned := by unfold Core.charge; dsimp only; split <;> rfl
@[simp] theorem Core.charge_ord (c : Core) (n pj : Nat) : (c.charge n pj).ord = c.ord := by unfold Core.charge; dsimp only; split <;> rfl
@[simp] theorem Core.charge_ready (c : Core) (n pj : Nat) : (c.charge n pj).ready = c.ready := by unfold Core.charge; dsimp only; split <;> rfl
@[simp] theorem Core.charge_msgBank (c : Core) (n pj : Nat) : (c.charge n pj).msgBank = c.msgBank := by unfold Core.charge; dsimp only; split <;> rfl
@[simp] theorem Core.charge_cyc (c : Core) (n pj : Nat) : (c.charge n pj).cyc = c.cyc + BitVec.ofNat 64 n := by
  unfold Core.charge; dsimp only; split <;> rfl
@[simp] theorem Core.stall_cid (c : Core) : (c.stall).cid = c.cid := by unfold Core.stall; simp
@[simp] theorem Core.stall_g (c : Core) : (c.stall).g = c.g := by unfold Core.stall; simp
@[simp] theorem Core.stall_obj (c : Core) : (c.stall).obj = c.obj := by unfold Core.stall; simp
@[simp] theorem Core.stall_off (c : Core) : (c.stall).off = c.off := by unfold Core.stall; simp
@[simp] theorem Core.stall_st (c : Core) : (c.stall).st = c.st := by unfold Core.stall; simp
@[simp] theorem Core.stall_wid (c : Core) : (c.stall).wid = c.wid := by unfold Core.stall; simp
@[simp] theorem Core.stall_htop (c : Core) : (c.stall).htop = c.htop := by unfold Core.stall; simp
@[simp] theorem Core.stall_v (c : Core) : (c.stall).v = c.v := by unfold Core.stall; simp
@[simp] theorem Core.stall_k (c : Core) : (c.stall).k = c.k := by unfold Core.stall; simp
@[simp] theorem Core.stall_lmret (c : Core) : (c.stall).lmret = c.lmret := by unfold Core.stall; simp
@[simp] theorem Core.stall_ba0 (c : Core) : (c.stall).ba0 = c.ba0 := by unfold Core.stall; simp
@[simp] theorem Core.stall_ba1 (c : Core) : (c.stall).ba1 = c.ba1 := by unfold Core.stall; simp
@[simp] theorem Core.stall_xfid (c : Core) : (c.stall).xfid = c.xfid := by unfold Core.stall; simp
@[simp] theorem Core.stall_jobid (c : Core) : (c.stall).jobid = c.jobid := by unfold Core.stall; simp
@[simp] theorem Core.stall_cpsrc (c : Core) : (c.stall).cpsrc = c.cpsrc := by unfold Core.stall; simp
@[simp] theorem Core.stall_cpdst (c : Core) : (c.stall).cpdst = c.cpdst := by unfold Core.stall; simp
@[simp] theorem Core.stall_cplen (c : Core) : (c.stall).cplen = c.cplen := by unfold Core.stall; simp
@[simp] theorem Core.stall_cpstrs (c : Core) : (c.stall).cpstrs = c.cpstrs := by unfold Core.stall; simp
@[simp] theorem Core.stall_cpstrd (c : Core) : (c.stall).cpstrd = c.cpstrd := by unfold Core.stall; simp
@[simp] theorem Core.stall_cpcnt (c : Core) : (c.stall).cpcnt = c.cpcnt := by unfold Core.stall; simp
@[simp] theorem Core.stall_cphdl (c : Core) : (c.stall).cphdl = c.cphdl := by unfold Core.stall; simp
@[simp] theorem Core.stall_clg (c : Core) : (c.stall).clg = c.clg := by unfold Core.stall; simp
@[simp] theorem Core.stall_q (c : Core) : (c.stall).q = c.q := by unfold Core.stall; simp
@[simp] theorem Core.stall_lm (c : Core) : (c.stall).lm = c.lm := by unfold Core.stall; simp
@[simp] theorem Core.stall_lmErr (c : Core) : (c.stall).lmErr = c.lmErr := by unfold Core.stall; simp
@[simp] theorem Core.stall_bankOff (c : Core) : (c.stall).bankOff = c.bankOff := by unfold Core.stall; simp
@[simp] theorem Core.stall_stint (c : Core) : (c.stall).stint = c.stint := by unfold Core.stall; simp
@[simp] theorem Core.stall_wait (c : Core) : (c.stall).wait = c.wait := by unfold Core.stall; simp
@[simp] theorem Core.stall_ob (c : Core) : (c.stall).ob = c.ob := by unfold Core.stall; simp
@[simp] theorem Core.stall_ct (c : Core) : (c.stall).ct = c.ct := by unfold Core.stall; simp
@[simp] theorem Core.stall_mq (c : Core) : (c.stall).mq = c.mq := by unfold Core.stall; simp
@[simp] theorem Core.stall_runq (c : Core) : (c.stall).runq = c.runq := by unfold Core.stall; simp
@[simp] theorem Core.stall_back (c : Core) : (c.stall).back = c.back := by unfold Core.stall; simp
@[simp] theorem Core.stall_parked (c : Core) : (c.stall).parked = c.parked := by unfold Core.stall; simp
@[simp] theorem Core.stall_late (c : Core) : (c.stall).late = c.late := by unfold Core.stall; simp
@[simp] theorem Core.stall_slab (c : Core) : (c.stall).slab = c.slab := by unfold Core.stall; simp
@[simp] theorem Core.stall_frames (c : Core) : (c.stall).frames = c.frames := by unfold Core.stall; simp
@[simp] theorem Core.stall_retain (c : Core) : (c.stall).retain = c.retain := by unfold Core.stall; simp
@[simp] theorem Core.stall_view (c : Core) : (c.stall).view = c.view := by unfold Core.stall; simp
@[simp] theorem Core.stall_job (c : Core) : (c.stall).job = c.job := by unfold Core.stall; simp
@[simp] theorem Core.stall_xnext (c : Core) : (c.stall).xnext = c.xnext := by unfold Core.stall; simp
@[simp] theorem Core.stall_jnext (c : Core) : (c.stall).jnext = c.jnext := by unfold Core.stall; simp
@[simp] theorem Core.stall_xout (c : Core) : (c.stall).xout = c.xout := by unfold Core.stall; simp
@[simp] theorem Core.stall_jout (c : Core) : (c.stall).jout = c.jout := by unfold Core.stall; simp
@[simp] theorem Core.stall_hold (c : Core) : (c.stall).hold = c.hold := by unfold Core.stall; simp
@[simp] theorem Core.stall_report (c : Core) : (c.stall).report = c.report := by unfold Core.stall; simp
@[simp] theorem Core.stall_returned (c : Core) : (c.stall).returned = c.returned := by unfold Core.stall; simp
@[simp] theorem Core.stall_ord (c : Core) : (c.stall).ord = c.ord := by unfold Core.stall; simp
@[simp] theorem Core.stall_ready (c : Core) : (c.stall).ready = c.ready := by unfold Core.stall; simp
@[simp] theorem Core.stall_msgBank (c : Core) : (c.stall).msgBank = c.msgBank := by unfold Core.stall; simp
@[simp] theorem Core.retire_cid (c : Core) (len n pj : Nat) : (c.retire len n pj).cid = c.cid := by unfold Core.retire; dsimp only; split <;> simp
@[simp] theorem Core.retire_g (c : Core) (len n pj : Nat) : (c.retire len n pj).g = c.g := by unfold Core.retire; dsimp only; split <;> simp
@[simp] theorem Core.retire_obj (c : Core) (len n pj : Nat) : (c.retire len n pj).obj = c.obj := by unfold Core.retire; dsimp only; split <;> simp
@[simp] theorem Core.retire_wid (c : Core) (len n pj : Nat) : (c.retire len n pj).wid = c.wid := by unfold Core.retire; dsimp only; split <;> simp
@[simp] theorem Core.retire_htop (c : Core) (len n pj : Nat) : (c.retire len n pj).htop = c.htop := by unfold Core.retire; dsimp only; split <;> simp
@[simp] theorem Core.retire_v (c : Core) (len n pj : Nat) : (c.retire len n pj).v = c.v := by unfold Core.retire; dsimp only; split <;> simp
@[simp] theorem Core.retire_k (c : Core) (len n pj : Nat) : (c.retire len n pj).k = c.k := by unfold Core.retire; dsimp only; split <;> simp
@[simp] theorem Core.retire_lmret (c : Core) (len n pj : Nat) : (c.retire len n pj).lmret = c.lmret := by unfold Core.retire; dsimp only; split <;> simp
@[simp] theorem Core.retire_ba0 (c : Core) (len n pj : Nat) : (c.retire len n pj).ba0 = c.ba0 := by unfold Core.retire; dsimp only; split <;> simp
@[simp] theorem Core.retire_ba1 (c : Core) (len n pj : Nat) : (c.retire len n pj).ba1 = c.ba1 := by unfold Core.retire; dsimp only; split <;> simp
@[simp] theorem Core.retire_xfid (c : Core) (len n pj : Nat) : (c.retire len n pj).xfid = c.xfid := by unfold Core.retire; dsimp only; split <;> simp
@[simp] theorem Core.retire_jobid (c : Core) (len n pj : Nat) : (c.retire len n pj).jobid = c.jobid := by unfold Core.retire; dsimp only; split <;> simp
@[simp] theorem Core.retire_cpsrc (c : Core) (len n pj : Nat) : (c.retire len n pj).cpsrc = c.cpsrc := by unfold Core.retire; dsimp only; split <;> simp
@[simp] theorem Core.retire_cpdst (c : Core) (len n pj : Nat) : (c.retire len n pj).cpdst = c.cpdst := by unfold Core.retire; dsimp only; split <;> simp
@[simp] theorem Core.retire_cplen (c : Core) (len n pj : Nat) : (c.retire len n pj).cplen = c.cplen := by unfold Core.retire; dsimp only; split <;> simp
@[simp] theorem Core.retire_cpstrs (c : Core) (len n pj : Nat) : (c.retire len n pj).cpstrs = c.cpstrs := by unfold Core.retire; dsimp only; split <;> simp
@[simp] theorem Core.retire_cpstrd (c : Core) (len n pj : Nat) : (c.retire len n pj).cpstrd = c.cpstrd := by unfold Core.retire; dsimp only; split <;> simp
@[simp] theorem Core.retire_cpcnt (c : Core) (len n pj : Nat) : (c.retire len n pj).cpcnt = c.cpcnt := by unfold Core.retire; dsimp only; split <;> simp
@[simp] theorem Core.retire_cphdl (c : Core) (len n pj : Nat) : (c.retire len n pj).cphdl = c.cphdl := by unfold Core.retire; dsimp only; split <;> simp
@[simp] theorem Core.retire_clg (c : Core) (len n pj : Nat) : (c.retire len n pj).clg = c.clg := by unfold Core.retire; dsimp only; split <;> simp
@[simp] theorem Core.retire_q (c : Core) (len n pj : Nat) : (c.retire len n pj).q = c.q := by unfold Core.retire; dsimp only; split <;> simp
@[simp] theorem Core.retire_lm (c : Core) (len n pj : Nat) : (c.retire len n pj).lm = c.lm := by unfold Core.retire; dsimp only; split <;> simp
@[simp] theorem Core.retire_lmErr (c : Core) (len n pj : Nat) : (c.retire len n pj).lmErr = c.lmErr := by unfold Core.retire; dsimp only; split <;> simp
@[simp] theorem Core.retire_bankOff (c : Core) (len n pj : Nat) : (c.retire len n pj).bankOff = c.bankOff := by unfold Core.retire; dsimp only; split <;> simp
@[simp] theorem Core.retire_ob (c : Core) (len n pj : Nat) : (c.retire len n pj).ob = c.ob := by unfold Core.retire; dsimp only; split <;> simp
@[simp] theorem Core.retire_ct (c : Core) (len n pj : Nat) : (c.retire len n pj).ct = c.ct := by unfold Core.retire; dsimp only; split <;> simp
@[simp] theorem Core.retire_mq (c : Core) (len n pj : Nat) : (c.retire len n pj).mq = c.mq := by unfold Core.retire; dsimp only; split <;> simp
@[simp] theorem Core.retire_runq (c : Core) (len n pj : Nat) : (c.retire len n pj).runq = c.runq := by unfold Core.retire; dsimp only; split <;> simp
@[simp] theorem Core.retire_back (c : Core) (len n pj : Nat) : (c.retire len n pj).back = c.back := by unfold Core.retire; dsimp only; split <;> simp
@[simp] theorem Core.retire_parked (c : Core) (len n pj : Nat) : (c.retire len n pj).parked = c.parked := by unfold Core.retire; dsimp only; split <;> simp
@[simp] theorem Core.retire_late (c : Core) (len n pj : Nat) : (c.retire len n pj).late = c.late := by unfold Core.retire; dsimp only; split <;> simp
@[simp] theorem Core.retire_slab (c : Core) (len n pj : Nat) : (c.retire len n pj).slab = c.slab := by unfold Core.retire; dsimp only; split <;> simp
@[simp] theorem Core.retire_frames (c : Core) (len n pj : Nat) : (c.retire len n pj).frames = c.frames := by unfold Core.retire; dsimp only; split <;> simp
@[simp] theorem Core.retire_retain (c : Core) (len n pj : Nat) : (c.retire len n pj).retain = c.retain := by unfold Core.retire; dsimp only; split <;> simp
@[simp] theorem Core.retire_view (c : Core) (len n pj : Nat) : (c.retire len n pj).view = c.view := by unfold Core.retire; dsimp only; split <;> simp
@[simp] theorem Core.retire_job (c : Core) (len n pj : Nat) : (c.retire len n pj).job = c.job := by unfold Core.retire; dsimp only; split <;> simp
@[simp] theorem Core.retire_xnext (c : Core) (len n pj : Nat) : (c.retire len n pj).xnext = c.xnext := by unfold Core.retire; dsimp only; split <;> simp
@[simp] theorem Core.retire_jnext (c : Core) (len n pj : Nat) : (c.retire len n pj).jnext = c.jnext := by unfold Core.retire; dsimp only; split <;> simp
@[simp] theorem Core.retire_xout (c : Core) (len n pj : Nat) : (c.retire len n pj).xout = c.xout := by unfold Core.retire; dsimp only; split <;> simp
@[simp] theorem Core.retire_jout (c : Core) (len n pj : Nat) : (c.retire len n pj).jout = c.jout := by unfold Core.retire; dsimp only; split <;> simp
@[simp] theorem Core.retire_hold (c : Core) (len n pj : Nat) : (c.retire len n pj).hold = c.hold := by unfold Core.retire; dsimp only; split <;> simp
@[simp] theorem Core.retire_report (c : Core) (len n pj : Nat) : (c.retire len n pj).report = c.report := by unfold Core.retire; dsimp only; split <;> simp
@[simp] theorem Core.retire_returned (c : Core) (len n pj : Nat) : (c.retire len n pj).returned = c.returned := by unfold Core.retire; dsimp only; split <;> simp
@[simp] theorem Core.retire_ord (c : Core) (len n pj : Nat) : (c.retire len n pj).ord = c.ord := by unfold Core.retire; dsimp only; split <;> simp
@[simp] theorem Core.retire_ready (c : Core) (len n pj : Nat) : (c.retire len n pj).ready = c.ready := by unfold Core.retire; dsimp only; split <;> simp
@[simp] theorem Core.retire_msgBank (c : Core) (len n pj : Nat) : (c.retire len n pj).msgBank = c.msgBank := by unfold Core.retire; dsimp only; split <;> simp
@[simp] theorem Core.jump_cid (c : Core) (t : BitVec 32) (n : Nat) : (c.jump t n).cid = c.cid := by simp [Core.jump]
@[simp] theorem Core.jump_g (c : Core) (t : BitVec 32) (n : Nat) : (c.jump t n).g = c.g := by simp [Core.jump]
@[simp] theorem Core.jump_obj (c : Core) (t : BitVec 32) (n : Nat) : (c.jump t n).obj = c.obj := by simp [Core.jump]
@[simp] theorem Core.jump_wid (c : Core) (t : BitVec 32) (n : Nat) : (c.jump t n).wid = c.wid := by simp [Core.jump]
@[simp] theorem Core.jump_htop (c : Core) (t : BitVec 32) (n : Nat) : (c.jump t n).htop = c.htop := by simp [Core.jump]
@[simp] theorem Core.jump_v (c : Core) (t : BitVec 32) (n : Nat) : (c.jump t n).v = c.v := by simp [Core.jump]
@[simp] theorem Core.jump_k (c : Core) (t : BitVec 32) (n : Nat) : (c.jump t n).k = c.k := by simp [Core.jump]
@[simp] theorem Core.jump_lmret (c : Core) (t : BitVec 32) (n : Nat) : (c.jump t n).lmret = c.lmret := by simp [Core.jump]
@[simp] theorem Core.jump_ba0 (c : Core) (t : BitVec 32) (n : Nat) : (c.jump t n).ba0 = c.ba0 := by simp [Core.jump]
@[simp] theorem Core.jump_ba1 (c : Core) (t : BitVec 32) (n : Nat) : (c.jump t n).ba1 = c.ba1 := by simp [Core.jump]
@[simp] theorem Core.jump_xfid (c : Core) (t : BitVec 32) (n : Nat) : (c.jump t n).xfid = c.xfid := by simp [Core.jump]
@[simp] theorem Core.jump_jobid (c : Core) (t : BitVec 32) (n : Nat) : (c.jump t n).jobid = c.jobid := by simp [Core.jump]
@[simp] theorem Core.jump_cpsrc (c : Core) (t : BitVec 32) (n : Nat) : (c.jump t n).cpsrc = c.cpsrc := by simp [Core.jump]
@[simp] theorem Core.jump_cpdst (c : Core) (t : BitVec 32) (n : Nat) : (c.jump t n).cpdst = c.cpdst := by simp [Core.jump]
@[simp] theorem Core.jump_cplen (c : Core) (t : BitVec 32) (n : Nat) : (c.jump t n).cplen = c.cplen := by simp [Core.jump]
@[simp] theorem Core.jump_cpstrs (c : Core) (t : BitVec 32) (n : Nat) : (c.jump t n).cpstrs = c.cpstrs := by simp [Core.jump]
@[simp] theorem Core.jump_cpstrd (c : Core) (t : BitVec 32) (n : Nat) : (c.jump t n).cpstrd = c.cpstrd := by simp [Core.jump]
@[simp] theorem Core.jump_cpcnt (c : Core) (t : BitVec 32) (n : Nat) : (c.jump t n).cpcnt = c.cpcnt := by simp [Core.jump]
@[simp] theorem Core.jump_cphdl (c : Core) (t : BitVec 32) (n : Nat) : (c.jump t n).cphdl = c.cphdl := by simp [Core.jump]
@[simp] theorem Core.jump_clg (c : Core) (t : BitVec 32) (n : Nat) : (c.jump t n).clg = c.clg := by simp [Core.jump]
@[simp] theorem Core.jump_q (c : Core) (t : BitVec 32) (n : Nat) : (c.jump t n).q = c.q := by simp [Core.jump]
@[simp] theorem Core.jump_lm (c : Core) (t : BitVec 32) (n : Nat) : (c.jump t n).lm = c.lm := by simp [Core.jump]
@[simp] theorem Core.jump_lmErr (c : Core) (t : BitVec 32) (n : Nat) : (c.jump t n).lmErr = c.lmErr := by simp [Core.jump]
@[simp] theorem Core.jump_bankOff (c : Core) (t : BitVec 32) (n : Nat) : (c.jump t n).bankOff = c.bankOff := by simp [Core.jump]
@[simp] theorem Core.jump_ob (c : Core) (t : BitVec 32) (n : Nat) : (c.jump t n).ob = c.ob := by simp [Core.jump]
@[simp] theorem Core.jump_ct (c : Core) (t : BitVec 32) (n : Nat) : (c.jump t n).ct = c.ct := by simp [Core.jump]
@[simp] theorem Core.jump_mq (c : Core) (t : BitVec 32) (n : Nat) : (c.jump t n).mq = c.mq := by simp [Core.jump]
@[simp] theorem Core.jump_runq (c : Core) (t : BitVec 32) (n : Nat) : (c.jump t n).runq = c.runq := by simp [Core.jump]
@[simp] theorem Core.jump_back (c : Core) (t : BitVec 32) (n : Nat) : (c.jump t n).back = c.back := by simp [Core.jump]
@[simp] theorem Core.jump_parked (c : Core) (t : BitVec 32) (n : Nat) : (c.jump t n).parked = c.parked := by simp [Core.jump]
@[simp] theorem Core.jump_late (c : Core) (t : BitVec 32) (n : Nat) : (c.jump t n).late = c.late := by simp [Core.jump]
@[simp] theorem Core.jump_slab (c : Core) (t : BitVec 32) (n : Nat) : (c.jump t n).slab = c.slab := by simp [Core.jump]
@[simp] theorem Core.jump_frames (c : Core) (t : BitVec 32) (n : Nat) : (c.jump t n).frames = c.frames := by simp [Core.jump]
@[simp] theorem Core.jump_retain (c : Core) (t : BitVec 32) (n : Nat) : (c.jump t n).retain = c.retain := by simp [Core.jump]
@[simp] theorem Core.jump_view (c : Core) (t : BitVec 32) (n : Nat) : (c.jump t n).view = c.view := by simp [Core.jump]
@[simp] theorem Core.jump_job (c : Core) (t : BitVec 32) (n : Nat) : (c.jump t n).job = c.job := by simp [Core.jump]
@[simp] theorem Core.jump_xnext (c : Core) (t : BitVec 32) (n : Nat) : (c.jump t n).xnext = c.xnext := by simp [Core.jump]
@[simp] theorem Core.jump_jnext (c : Core) (t : BitVec 32) (n : Nat) : (c.jump t n).jnext = c.jnext := by simp [Core.jump]
@[simp] theorem Core.jump_xout (c : Core) (t : BitVec 32) (n : Nat) : (c.jump t n).xout = c.xout := by simp [Core.jump]
@[simp] theorem Core.jump_jout (c : Core) (t : BitVec 32) (n : Nat) : (c.jump t n).jout = c.jout := by simp [Core.jump]
@[simp] theorem Core.jump_hold (c : Core) (t : BitVec 32) (n : Nat) : (c.jump t n).hold = c.hold := by simp [Core.jump]
@[simp] theorem Core.jump_report (c : Core) (t : BitVec 32) (n : Nat) : (c.jump t n).report = c.report := by simp [Core.jump]
@[simp] theorem Core.jump_returned (c : Core) (t : BitVec 32) (n : Nat) : (c.jump t n).returned = c.returned := by simp [Core.jump]
@[simp] theorem Core.jump_ord (c : Core) (t : BitVec 32) (n : Nat) : (c.jump t n).ord = c.ord := by simp [Core.jump]
@[simp] theorem Core.jump_ready (c : Core) (t : BitVec 32) (n : Nat) : (c.jump t n).ready = c.ready := by simp [Core.jump]
@[simp] theorem Core.jump_msgBank (c : Core) (t : BitVec 32) (n : Nat) : (c.jump t n).msgBank = c.msgBank := by simp [Core.jump]
@[simp] theorem Core.jump_off (c : Core) (t : BitVec 32) (n : Nat) : (c.jump t n).off = t := rfl
@[simp] theorem Core.retire_wait (c : Core) (len n pj : Nat) : (c.retire len n pj).wait = .none := by
  unfold Core.retire; dsimp only; split <;> simp
@[simp] theorem Core.retire_stint (c : Core) (len n pj : Nat) : (c.retire len n pj).stint = c.stint.map Stint.tick := by
  unfold Core.retire; dsimp only; split <;> simp
@[simp] theorem Core.retire_cyc (c : Core) (len n pj : Nat) : (c.retire len n pj).cyc = c.cyc + BitVec.ofNat 64 n := by
  unfold Core.retire; dsimp only; split <;> simp

/-! The outbound buffer (R24, R26). -/

/-- A fold over entries whose steps keep a field keeps it. -/
theorem Core.foldl_keeps {α β : Type} (f : Core → α → Core) (p : Core → β) (h : ∀ c x, p (f c x) = p c) (xs : List α) (c : Core) :
    p (xs.foldl f c) = p c := by
  induction xs generalizing c with
  | nil => rfl
  | cons x xs ih => rw [List.foldl_cons, ih, h]
@[simp] theorem Core.commit_cid (c : Core) : (c.commit).cid = c.cid := by
  unfold Core.commit; dsimp only; refine Core.foldl_keeps _ (·.cid) (fun c e => ?_) _ _; split <;> rfl
@[simp] theorem Core.commit_g (c : Core) : (c.commit).g = c.g := by
  unfold Core.commit; dsimp only; refine Core.foldl_keeps _ (·.g) (fun c e => ?_) _ _; split <;> rfl
@[simp] theorem Core.commit_obj (c : Core) : (c.commit).obj = c.obj := by
  unfold Core.commit; dsimp only; refine Core.foldl_keeps _ (·.obj) (fun c e => ?_) _ _; split <;> rfl
@[simp] theorem Core.commit_off (c : Core) : (c.commit).off = c.off := by
  unfold Core.commit; dsimp only; refine Core.foldl_keeps _ (·.off) (fun c e => ?_) _ _; split <;> rfl
@[simp] theorem Core.commit_st (c : Core) : (c.commit).st = c.st := by
  unfold Core.commit; dsimp only; refine Core.foldl_keeps _ (·.st) (fun c e => ?_) _ _; split <;> rfl
@[simp] theorem Core.commit_wid (c : Core) : (c.commit).wid = c.wid := by
  unfold Core.commit; dsimp only; refine Core.foldl_keeps _ (·.wid) (fun c e => ?_) _ _; split <;> rfl
@[simp] theorem Core.commit_htop (c : Core) : (c.commit).htop = c.htop := by
  unfold Core.commit; dsimp only; refine Core.foldl_keeps _ (·.htop) (fun c e => ?_) _ _; split <;> rfl
@[simp] theorem Core.commit_v (c : Core) : (c.commit).v = c.v := by
  unfold Core.commit; dsimp only; refine Core.foldl_keeps _ (·.v) (fun c e => ?_) _ _; split <;> rfl
@[simp] theorem Core.commit_k (c : Core) : (c.commit).k = c.k := by
  unfold Core.commit; dsimp only; refine Core.foldl_keeps _ (·.k) (fun c e => ?_) _ _; split <;> rfl
@[simp] theorem Core.commit_budget (c : Core) : (c.commit).budget = c.budget := by
  unfold Core.commit; dsimp only; refine Core.foldl_keeps _ (·.budget) (fun c e => ?_) _ _; split <;> rfl
@[simp] theorem Core.commit_lmret (c : Core) : (c.commit).lmret = c.lmret := by
  unfold Core.commit; dsimp only; refine Core.foldl_keeps _ (·.lmret) (fun c e => ?_) _ _; split <;> rfl
@[simp] theorem Core.commit_ba0 (c : Core) : (c.commit).ba0 = c.ba0 := by
  unfold Core.commit; dsimp only; refine Core.foldl_keeps _ (·.ba0) (fun c e => ?_) _ _; split <;> rfl
@[simp] theorem Core.commit_ba1 (c : Core) : (c.commit).ba1 = c.ba1 := by
  unfold Core.commit; dsimp only; refine Core.foldl_keeps _ (·.ba1) (fun c e => ?_) _ _; split <;> rfl
@[simp] theorem Core.commit_cyc (c : Core) : (c.commit).cyc = c.cyc := by
  unfold Core.commit; dsimp only; refine Core.foldl_keeps _ (·.cyc) (fun c e => ?_) _ _; split <;> rfl
@[simp] theorem Core.commit_xfid (c : Core) : (c.commit).xfid = c.xfid := by
  unfold Core.commit; dsimp only; refine Core.foldl_keeps _ (·.xfid) (fun c e => ?_) _ _; split <;> rfl
@[simp] theorem Core.commit_jobid (c : Core) : (c.commit).jobid = c.jobid := by
  unfold Core.commit; dsimp only; refine Core.foldl_keeps _ (·.jobid) (fun c e => ?_) _ _; split <;> rfl
@[simp] theorem Core.commit_cpsrc (c : Core) : (c.commit).cpsrc = c.cpsrc := by
  unfold Core.commit; dsimp only; refine Core.foldl_keeps _ (·.cpsrc) (fun c e => ?_) _ _; split <;> rfl
@[simp] theorem Core.commit_cpdst (c : Core) : (c.commit).cpdst = c.cpdst := by
  unfold Core.commit; dsimp only; refine Core.foldl_keeps _ (·.cpdst) (fun c e => ?_) _ _; split <;> rfl
@[simp] theorem Core.commit_cplen (c : Core) : (c.commit).cplen = c.cplen := by
  unfold Core.commit; dsimp only; refine Core.foldl_keeps _ (·.cplen) (fun c e => ?_) _ _; split <;> rfl
@[simp] theorem Core.commit_cpstrs (c : Core) : (c.commit).cpstrs = c.cpstrs := by
  unfold Core.commit; dsimp only; refine Core.foldl_keeps _ (·.cpstrs) (fun c e => ?_) _ _; split <;> rfl
@[simp] theorem Core.commit_cpstrd (c : Core) : (c.commit).cpstrd = c.cpstrd := by
  unfold Core.commit; dsimp only; refine Core.foldl_keeps _ (·.cpstrd) (fun c e => ?_) _ _; split <;> rfl
@[simp] theorem Core.commit_cpcnt (c : Core) : (c.commit).cpcnt = c.cpcnt := by
  unfold Core.commit; dsimp only; refine Core.foldl_keeps _ (·.cpcnt) (fun c e => ?_) _ _; split <;> rfl
@[simp] theorem Core.commit_cphdl (c : Core) : (c.commit).cphdl = c.cphdl := by
  unfold Core.commit; dsimp only; refine Core.foldl_keeps _ (·.cphdl) (fun c e => ?_) _ _; split <;> rfl
@[simp] theorem Core.commit_clg (c : Core) : (c.commit).clg = c.clg := by
  unfold Core.commit; dsimp only; refine Core.foldl_keeps _ (·.clg) (fun c e => ?_) _ _; split <;> rfl
@[simp] theorem Core.commit_q (c : Core) : (c.commit).q = c.q := by
  unfold Core.commit; dsimp only; refine Core.foldl_keeps _ (·.q) (fun c e => ?_) _ _; split <;> rfl
@[simp] theorem Core.commit_lm (c : Core) : (c.commit).lm = c.lm := by
  unfold Core.commit; dsimp only; refine Core.foldl_keeps _ (·.lm) (fun c e => ?_) _ _; split <;> rfl
@[simp] theorem Core.commit_lmErr (c : Core) : (c.commit).lmErr = c.lmErr := by
  unfold Core.commit; dsimp only; refine Core.foldl_keeps _ (·.lmErr) (fun c e => ?_) _ _; split <;> rfl
@[simp] theorem Core.commit_bankOff (c : Core) : (c.commit).bankOff = c.bankOff := by
  unfold Core.commit; dsimp only; refine Core.foldl_keeps _ (·.bankOff) (fun c e => ?_) _ _; split <;> rfl
@[simp] theorem Core.commit_wait (c : Core) : (c.commit).wait = c.wait := by
  unfold Core.commit; dsimp only; refine Core.foldl_keeps _ (·.wait) (fun c e => ?_) _ _; split <;> rfl
@[simp] theorem Core.commit_mq (c : Core) : (c.commit).mq = c.mq := by
  unfold Core.commit; dsimp only; refine Core.foldl_keeps _ (·.mq) (fun c e => ?_) _ _; split <;> rfl
@[simp] theorem Core.commit_runq (c : Core) : (c.commit).runq = c.runq := by
  unfold Core.commit; dsimp only; refine Core.foldl_keeps _ (·.runq) (fun c e => ?_) _ _; split <;> rfl
@[simp] theorem Core.commit_back (c : Core) : (c.commit).back = c.back := by
  unfold Core.commit; dsimp only; refine Core.foldl_keeps _ (·.back) (fun c e => ?_) _ _; split <;> rfl
@[simp] theorem Core.commit_parked (c : Core) : (c.commit).parked = c.parked := by
  unfold Core.commit; dsimp only; refine Core.foldl_keeps _ (·.parked) (fun c e => ?_) _ _; split <;> rfl
@[simp] theorem Core.commit_late (c : Core) : (c.commit).late = c.late := by
  unfold Core.commit; dsimp only; refine Core.foldl_keeps _ (·.late) (fun c e => ?_) _ _; split <;> rfl
@[simp] theorem Core.commit_slab (c : Core) : (c.commit).slab = c.slab := by
  unfold Core.commit; dsimp only; refine Core.foldl_keeps _ (·.slab) (fun c e => ?_) _ _; split <;> rfl
@[simp] theorem Core.commit_frames (c : Core) : (c.commit).frames = c.frames := by
  unfold Core.commit; dsimp only; refine Core.foldl_keeps _ (·.frames) (fun c e => ?_) _ _; split <;> rfl
@[simp] theorem Core.commit_retain (c : Core) : (c.commit).retain = c.retain := by
  unfold Core.commit; dsimp only; refine Core.foldl_keeps _ (·.retain) (fun c e => ?_) _ _; split <;> rfl
@[simp] theorem Core.commit_view (c : Core) : (c.commit).view = c.view := by
  unfold Core.commit; dsimp only; refine Core.foldl_keeps _ (·.view) (fun c e => ?_) _ _; split <;> rfl
@[simp] theorem Core.commit_job (c : Core) : (c.commit).job = c.job := by
  unfold Core.commit; dsimp only; refine Core.foldl_keeps _ (·.job) (fun c e => ?_) _ _; split <;> rfl
@[simp] theorem Core.commit_xnext (c : Core) : (c.commit).xnext = c.xnext := by
  unfold Core.commit; dsimp only; refine Core.foldl_keeps _ (·.xnext) (fun c e => ?_) _ _; split <;> rfl
@[simp] theorem Core.commit_jnext (c : Core) : (c.commit).jnext = c.jnext := by
  unfold Core.commit; dsimp only; refine Core.foldl_keeps _ (·.jnext) (fun c e => ?_) _ _; split <;> rfl
@[simp] theorem Core.commit_xout (c : Core) : (c.commit).xout = c.xout := by
  unfold Core.commit; dsimp only; refine Core.foldl_keeps _ (·.xout) (fun c e => ?_) _ _; split <;> rfl
@[simp] theorem Core.commit_jout (c : Core) : (c.commit).jout = c.jout := by
  unfold Core.commit; dsimp only; refine Core.foldl_keeps _ (·.jout) (fun c e => ?_) _ _; split <;> rfl
@[simp] theorem Core.commit_hold (c : Core) : (c.commit).hold = c.hold := by
  unfold Core.commit; dsimp only; refine Core.foldl_keeps _ (·.hold) (fun c e => ?_) _ _; split <;> rfl
@[simp] theorem Core.commit_report (c : Core) : (c.commit).report = c.report := by
  unfold Core.commit; dsimp only; refine Core.foldl_keeps _ (·.report) (fun c e => ?_) _ _; split <;> rfl
@[simp] theorem Core.commit_returned (c : Core) : (c.commit).returned = c.returned := by
  unfold Core.commit; dsimp only; refine Core.foldl_keeps _ (·.returned) (fun c e => ?_) _ _; split <;> rfl
@[simp] theorem Core.commit_ord (c : Core) : (c.commit).ord = c.ord := by
  unfold Core.commit; dsimp only; refine Core.foldl_keeps _ (·.ord) (fun c e => ?_) _ _; split <;> rfl
@[simp] theorem Core.commit_ready (c : Core) : (c.commit).ready = c.ready := by
  unfold Core.commit; dsimp only; refine Core.foldl_keeps _ (·.ready) (fun c e => ?_) _ _; split <;> rfl
@[simp] theorem Core.commit_msgBank (c : Core) : (c.commit).msgBank = c.msgBank := by
  unfold Core.commit; dsimp only; refine Core.foldl_keeps _ (·.msgBank) (fun c e => ?_) _ _; split <;> rfl
@[simp] theorem Core.commit_ob (c : Core) : c.commit.ob = [] := rfl
@[simp] theorem Core.commit_ct (c : Core) : c.commit.ct = c.ct ++ c.ob := by
  unfold Core.commit; dsimp only; congr 1
  · refine Core.foldl_keeps _ (·.ct) (fun c e => ?_) _ _; split <;> rfl
  · refine Core.foldl_keeps _ (·.ob) (fun c e => ?_) _ _; split <;> rfl
@[simp] theorem Core.commit_stint (c : Core) : c.commit.stint = c.stint.map Stint.mark1 := by
  unfold Core.commit; dsimp only; congr 1; refine Core.foldl_keeps _ (·.stint) (fun c e => ?_) _ _; split <;> rfl
@[simp] theorem Core.enter_cid (c : Core) (b : EBody) (r : Option Scope) (n : Nat) : (c.enter b r n).cid = c.cid := by
  unfold Core.enter; dsimp only; split <;> simp
@[simp] theorem Core.enter_g (c : Core) (b : EBody) (r : Option Scope) (n : Nat) : (c.enter b r n).g = c.g := by
  unfold Core.enter; dsimp only; split <;> simp
@[simp] theorem Core.enter_obj (c : Core) (b : EBody) (r : Option Scope) (n : Nat) : (c.enter b r n).obj = c.obj := by
  unfold Core.enter; dsimp only; split <;> simp
@[simp] theorem Core.enter_off (c : Core) (b : EBody) (r : Option Scope) (n : Nat) : (c.enter b r n).off = c.off := by
  unfold Core.enter; dsimp only; split <;> simp
@[simp] theorem Core.enter_st (c : Core) (b : EBody) (r : Option Scope) (n : Nat) : (c.enter b r n).st = c.st := by
  unfold Core.enter; dsimp only; split <;> simp
@[simp] theorem Core.enter_wid (c : Core) (b : EBody) (r : Option Scope) (n : Nat) : (c.enter b r n).wid = c.wid := by
  unfold Core.enter; dsimp only; split <;> simp
@[simp] theorem Core.enter_htop (c : Core) (b : EBody) (r : Option Scope) (n : Nat) : (c.enter b r n).htop = c.htop := by
  unfold Core.enter; dsimp only; split <;> simp
@[simp] theorem Core.enter_v (c : Core) (b : EBody) (r : Option Scope) (n : Nat) : (c.enter b r n).v = c.v := by
  unfold Core.enter; dsimp only; split <;> simp
@[simp] theorem Core.enter_k (c : Core) (b : EBody) (r : Option Scope) (n : Nat) : (c.enter b r n).k = c.k := by
  unfold Core.enter; dsimp only; split <;> simp
@[simp] theorem Core.enter_budget (c : Core) (b : EBody) (r : Option Scope) (n : Nat) : (c.enter b r n).budget = c.budget := by
  unfold Core.enter; dsimp only; split <;> simp
@[simp] theorem Core.enter_lmret (c : Core) (b : EBody) (r : Option Scope) (n : Nat) : (c.enter b r n).lmret = c.lmret := by
  unfold Core.enter; dsimp only; split <;> simp
@[simp] theorem Core.enter_ba0 (c : Core) (b : EBody) (r : Option Scope) (n : Nat) : (c.enter b r n).ba0 = c.ba0 := by
  unfold Core.enter; dsimp only; split <;> simp
@[simp] theorem Core.enter_ba1 (c : Core) (b : EBody) (r : Option Scope) (n : Nat) : (c.enter b r n).ba1 = c.ba1 := by
  unfold Core.enter; dsimp only; split <;> simp
@[simp] theorem Core.enter_cyc (c : Core) (b : EBody) (r : Option Scope) (n : Nat) : (c.enter b r n).cyc = c.cyc := by
  unfold Core.enter; dsimp only; split <;> simp
@[simp] theorem Core.enter_xfid (c : Core) (b : EBody) (r : Option Scope) (n : Nat) : (c.enter b r n).xfid = c.xfid := by
  unfold Core.enter; dsimp only; split <;> simp
@[simp] theorem Core.enter_jobid (c : Core) (b : EBody) (r : Option Scope) (n : Nat) : (c.enter b r n).jobid = c.jobid := by
  unfold Core.enter; dsimp only; split <;> simp
@[simp] theorem Core.enter_cpsrc (c : Core) (b : EBody) (r : Option Scope) (n : Nat) : (c.enter b r n).cpsrc = c.cpsrc := by
  unfold Core.enter; dsimp only; split <;> simp
@[simp] theorem Core.enter_cpdst (c : Core) (b : EBody) (r : Option Scope) (n : Nat) : (c.enter b r n).cpdst = c.cpdst := by
  unfold Core.enter; dsimp only; split <;> simp
@[simp] theorem Core.enter_cplen (c : Core) (b : EBody) (r : Option Scope) (n : Nat) : (c.enter b r n).cplen = c.cplen := by
  unfold Core.enter; dsimp only; split <;> simp
@[simp] theorem Core.enter_cpstrs (c : Core) (b : EBody) (r : Option Scope) (n : Nat) : (c.enter b r n).cpstrs = c.cpstrs := by
  unfold Core.enter; dsimp only; split <;> simp
@[simp] theorem Core.enter_cpstrd (c : Core) (b : EBody) (r : Option Scope) (n : Nat) : (c.enter b r n).cpstrd = c.cpstrd := by
  unfold Core.enter; dsimp only; split <;> simp
@[simp] theorem Core.enter_cpcnt (c : Core) (b : EBody) (r : Option Scope) (n : Nat) : (c.enter b r n).cpcnt = c.cpcnt := by
  unfold Core.enter; dsimp only; split <;> simp
@[simp] theorem Core.enter_cphdl (c : Core) (b : EBody) (r : Option Scope) (n : Nat) : (c.enter b r n).cphdl = c.cphdl := by
  unfold Core.enter; dsimp only; split <;> simp
@[simp] theorem Core.enter_clg (c : Core) (b : EBody) (r : Option Scope) (n : Nat) : (c.enter b r n).clg = c.clg := by
  unfold Core.enter; dsimp only; split <;> simp
@[simp] theorem Core.enter_q (c : Core) (b : EBody) (r : Option Scope) (n : Nat) : (c.enter b r n).q = c.q := by
  unfold Core.enter; dsimp only; split <;> simp
@[simp] theorem Core.enter_lm (c : Core) (b : EBody) (r : Option Scope) (n : Nat) : (c.enter b r n).lm = c.lm := by
  unfold Core.enter; dsimp only; split <;> simp
@[simp] theorem Core.enter_lmErr (c : Core) (b : EBody) (r : Option Scope) (n : Nat) : (c.enter b r n).lmErr = c.lmErr := by
  unfold Core.enter; dsimp only; split <;> simp
@[simp] theorem Core.enter_bankOff (c : Core) (b : EBody) (r : Option Scope) (n : Nat) : (c.enter b r n).bankOff = c.bankOff := by
  unfold Core.enter; dsimp only; split <;> simp
@[simp] theorem Core.enter_wait (c : Core) (b : EBody) (r : Option Scope) (n : Nat) : (c.enter b r n).wait = c.wait := by
  unfold Core.enter; dsimp only; split <;> simp
@[simp] theorem Core.enter_mq (c : Core) (b : EBody) (r : Option Scope) (n : Nat) : (c.enter b r n).mq = c.mq := by
  unfold Core.enter; dsimp only; split <;> simp
@[simp] theorem Core.enter_runq (c : Core) (b : EBody) (r : Option Scope) (n : Nat) : (c.enter b r n).runq = c.runq := by
  unfold Core.enter; dsimp only; split <;> simp
@[simp] theorem Core.enter_back (c : Core) (b : EBody) (r : Option Scope) (n : Nat) : (c.enter b r n).back = c.back := by
  unfold Core.enter; dsimp only; split <;> simp
@[simp] theorem Core.enter_parked (c : Core) (b : EBody) (r : Option Scope) (n : Nat) : (c.enter b r n).parked = c.parked := by
  unfold Core.enter; dsimp only; split <;> simp
@[simp] theorem Core.enter_late (c : Core) (b : EBody) (r : Option Scope) (n : Nat) : (c.enter b r n).late = c.late := by
  unfold Core.enter; dsimp only; split <;> simp
@[simp] theorem Core.enter_slab (c : Core) (b : EBody) (r : Option Scope) (n : Nat) : (c.enter b r n).slab = c.slab := by
  unfold Core.enter; dsimp only; split <;> simp
@[simp] theorem Core.enter_frames (c : Core) (b : EBody) (r : Option Scope) (n : Nat) : (c.enter b r n).frames = c.frames := by
  unfold Core.enter; dsimp only; split <;> simp
@[simp] theorem Core.enter_retain (c : Core) (b : EBody) (r : Option Scope) (n : Nat) : (c.enter b r n).retain = c.retain := by
  unfold Core.enter; dsimp only; split <;> simp
@[simp] theorem Core.enter_view (c : Core) (b : EBody) (r : Option Scope) (n : Nat) : (c.enter b r n).view = c.view := by
  unfold Core.enter; dsimp only; split <;> simp
@[simp] theorem Core.enter_job (c : Core) (b : EBody) (r : Option Scope) (n : Nat) : (c.enter b r n).job = c.job := by
  unfold Core.enter; dsimp only; split <;> simp
@[simp] theorem Core.enter_xnext (c : Core) (b : EBody) (r : Option Scope) (n : Nat) : (c.enter b r n).xnext = c.xnext := by
  unfold Core.enter; dsimp only; split <;> simp
@[simp] theorem Core.enter_jnext (c : Core) (b : EBody) (r : Option Scope) (n : Nat) : (c.enter b r n).jnext = c.jnext := by
  unfold Core.enter; dsimp only; split <;> simp
@[simp] theorem Core.enter_xout (c : Core) (b : EBody) (r : Option Scope) (n : Nat) : (c.enter b r n).xout = c.xout := by
  unfold Core.enter; dsimp only; split <;> simp
@[simp] theorem Core.enter_jout (c : Core) (b : EBody) (r : Option Scope) (n : Nat) : (c.enter b r n).jout = c.jout := by
  unfold Core.enter; dsimp only; split <;> simp
@[simp] theorem Core.enter_hold (c : Core) (b : EBody) (r : Option Scope) (n : Nat) : (c.enter b r n).hold = c.hold := by
  unfold Core.enter; dsimp only; split <;> simp
@[simp] theorem Core.enter_report (c : Core) (b : EBody) (r : Option Scope) (n : Nat) : (c.enter b r n).report = c.report := by
  unfold Core.enter; dsimp only; split <;> simp
@[simp] theorem Core.enter_returned (c : Core) (b : EBody) (r : Option Scope) (n : Nat) : (c.enter b r n).returned = c.returned := by
  unfold Core.enter; dsimp only; split <;> simp
@[simp] theorem Core.enterRet_cid (c : Core) (b : EBody) : (c.enterRet b).cid = c.cid := by simp [Core.enterRet]
@[simp] theorem Core.enterRet_g (c : Core) (b : EBody) : (c.enterRet b).g = c.g := by simp [Core.enterRet]
@[simp] theorem Core.enterRet_obj (c : Core) (b : EBody) : (c.enterRet b).obj = c.obj := by simp [Core.enterRet]
@[simp] theorem Core.enterRet_off (c : Core) (b : EBody) : (c.enterRet b).off = c.off := by simp [Core.enterRet]
@[simp] theorem Core.enterRet_st (c : Core) (b : EBody) : (c.enterRet b).st = c.st := by simp [Core.enterRet]
@[simp] theorem Core.enterRet_wid (c : Core) (b : EBody) : (c.enterRet b).wid = c.wid := by simp [Core.enterRet]
@[simp] theorem Core.enterRet_htop (c : Core) (b : EBody) : (c.enterRet b).htop = c.htop := by simp [Core.enterRet]
@[simp] theorem Core.enterRet_v (c : Core) (b : EBody) : (c.enterRet b).v = c.v := by simp [Core.enterRet]
@[simp] theorem Core.enterRet_k (c : Core) (b : EBody) : (c.enterRet b).k = c.k := by simp [Core.enterRet]
@[simp] theorem Core.enterRet_budget (c : Core) (b : EBody) : (c.enterRet b).budget = c.budget := by simp [Core.enterRet]
@[simp] theorem Core.enterRet_lmret (c : Core) (b : EBody) : (c.enterRet b).lmret = c.lmret := by simp [Core.enterRet]
@[simp] theorem Core.enterRet_ba0 (c : Core) (b : EBody) : (c.enterRet b).ba0 = c.ba0 := by simp [Core.enterRet]
@[simp] theorem Core.enterRet_ba1 (c : Core) (b : EBody) : (c.enterRet b).ba1 = c.ba1 := by simp [Core.enterRet]
@[simp] theorem Core.enterRet_cyc (c : Core) (b : EBody) : (c.enterRet b).cyc = c.cyc := by simp [Core.enterRet]
@[simp] theorem Core.enterRet_xfid (c : Core) (b : EBody) : (c.enterRet b).xfid = c.xfid := by simp [Core.enterRet]
@[simp] theorem Core.enterRet_jobid (c : Core) (b : EBody) : (c.enterRet b).jobid = c.jobid := by simp [Core.enterRet]
@[simp] theorem Core.enterRet_cpsrc (c : Core) (b : EBody) : (c.enterRet b).cpsrc = c.cpsrc := by simp [Core.enterRet]
@[simp] theorem Core.enterRet_cpdst (c : Core) (b : EBody) : (c.enterRet b).cpdst = c.cpdst := by simp [Core.enterRet]
@[simp] theorem Core.enterRet_cplen (c : Core) (b : EBody) : (c.enterRet b).cplen = c.cplen := by simp [Core.enterRet]
@[simp] theorem Core.enterRet_cpstrs (c : Core) (b : EBody) : (c.enterRet b).cpstrs = c.cpstrs := by simp [Core.enterRet]
@[simp] theorem Core.enterRet_cpstrd (c : Core) (b : EBody) : (c.enterRet b).cpstrd = c.cpstrd := by simp [Core.enterRet]
@[simp] theorem Core.enterRet_cpcnt (c : Core) (b : EBody) : (c.enterRet b).cpcnt = c.cpcnt := by simp [Core.enterRet]
@[simp] theorem Core.enterRet_cphdl (c : Core) (b : EBody) : (c.enterRet b).cphdl = c.cphdl := by simp [Core.enterRet]
@[simp] theorem Core.enterRet_clg (c : Core) (b : EBody) : (c.enterRet b).clg = c.clg := by simp [Core.enterRet]
@[simp] theorem Core.enterRet_q (c : Core) (b : EBody) : (c.enterRet b).q = c.q := by simp [Core.enterRet]
@[simp] theorem Core.enterRet_lm (c : Core) (b : EBody) : (c.enterRet b).lm = c.lm := by simp [Core.enterRet]
@[simp] theorem Core.enterRet_lmErr (c : Core) (b : EBody) : (c.enterRet b).lmErr = c.lmErr := by simp [Core.enterRet]
@[simp] theorem Core.enterRet_bankOff (c : Core) (b : EBody) : (c.enterRet b).bankOff = c.bankOff := by simp [Core.enterRet]
@[simp] theorem Core.enterRet_wait (c : Core) (b : EBody) : (c.enterRet b).wait = c.wait := by simp [Core.enterRet]
@[simp] theorem Core.enterRet_mq (c : Core) (b : EBody) : (c.enterRet b).mq = c.mq := by simp [Core.enterRet]
@[simp] theorem Core.enterRet_runq (c : Core) (b : EBody) : (c.enterRet b).runq = c.runq := by simp [Core.enterRet]
@[simp] theorem Core.enterRet_back (c : Core) (b : EBody) : (c.enterRet b).back = c.back := by simp [Core.enterRet]
@[simp] theorem Core.enterRet_parked (c : Core) (b : EBody) : (c.enterRet b).parked = c.parked := by simp [Core.enterRet]
@[simp] theorem Core.enterRet_late (c : Core) (b : EBody) : (c.enterRet b).late = c.late := by simp [Core.enterRet]
@[simp] theorem Core.enterRet_slab (c : Core) (b : EBody) : (c.enterRet b).slab = c.slab := by simp [Core.enterRet]
@[simp] theorem Core.enterRet_frames (c : Core) (b : EBody) : (c.enterRet b).frames = c.frames := by simp [Core.enterRet]
@[simp] theorem Core.enterRet_retain (c : Core) (b : EBody) : (c.enterRet b).retain = c.retain := by simp [Core.enterRet]
@[simp] theorem Core.enterRet_view (c : Core) (b : EBody) : (c.enterRet b).view = c.view := by simp [Core.enterRet]
@[simp] theorem Core.enterRet_job (c : Core) (b : EBody) : (c.enterRet b).job = c.job := by simp [Core.enterRet]
@[simp] theorem Core.enterRet_xnext (c : Core) (b : EBody) : (c.enterRet b).xnext = c.xnext := by simp [Core.enterRet]
@[simp] theorem Core.enterRet_jnext (c : Core) (b : EBody) : (c.enterRet b).jnext = c.jnext := by simp [Core.enterRet]
@[simp] theorem Core.enterRet_xout (c : Core) (b : EBody) : (c.enterRet b).xout = c.xout := by simp [Core.enterRet]
@[simp] theorem Core.enterRet_jout (c : Core) (b : EBody) : (c.enterRet b).jout = c.jout := by simp [Core.enterRet]
@[simp] theorem Core.enterRet_hold (c : Core) (b : EBody) : (c.enterRet b).hold = c.hold := by simp [Core.enterRet]
@[simp] theorem Core.enterRet_report (c : Core) (b : EBody) : (c.enterRet b).report = c.report := by simp [Core.enterRet]
@[simp] theorem Core.enterRet_returned (c : Core) (b : EBody) : (c.enterRet b).returned = c.returned := by simp [Core.enterRet]
@[simp] theorem Core.enterRet_ob (c : Core) (b : EBody) : (c.enterRet b).ob = [] := rfl
@[simp] theorem Core.enterRet_ct (c : Core) (b : EBody) : (c.enterRet b).ct = c.ct ++ (c.ob ++ [{ tag := c.tag, body := b }]) := by
  simp [Core.enterRet]
@[simp] theorem Core.enterRet_stint (c : Core) (b : EBody) : (c.enterRet b).stint = c.stint.map Stint.mark1 := by simp [Core.enterRet]
@[simp] theorem Core.enterRet_ord (c : Core) (b : EBody) : (c.enterRet b).ord = c.ord + 1 := by simp [Core.enterRet]
@[simp] theorem Core.enterRet_ready (c : Core) (b : EBody) : (c.enterRet b).ready = c.ready := by simp [Core.enterRet]
@[simp] theorem Core.enterRet_msgBank (c : Core) (b : EBody) : (c.enterRet b).msgBank = c.msgBank := by simp [Core.enterRet]
@[simp] theorem Core.readFrames_cid (c : Core) (n : Nat) : (c.readFrames n).cid = c.cid := by unfold Core.readFrames; split <;> rfl
@[simp] theorem Core.readFrames_g (c : Core) (n : Nat) : (c.readFrames n).g = c.g := by unfold Core.readFrames; split <;> rfl
@[simp] theorem Core.readFrames_obj (c : Core) (n : Nat) : (c.readFrames n).obj = c.obj := by unfold Core.readFrames; split <;> rfl
@[simp] theorem Core.readFrames_off (c : Core) (n : Nat) : (c.readFrames n).off = c.off := by unfold Core.readFrames; split <;> rfl
@[simp] theorem Core.readFrames_st (c : Core) (n : Nat) : (c.readFrames n).st = c.st := by unfold Core.readFrames; split <;> rfl
@[simp] theorem Core.readFrames_wid (c : Core) (n : Nat) : (c.readFrames n).wid = c.wid := by unfold Core.readFrames; split <;> rfl
@[simp] theorem Core.readFrames_htop (c : Core) (n : Nat) : (c.readFrames n).htop = c.htop := by unfold Core.readFrames; split <;> rfl
@[simp] theorem Core.readFrames_v (c : Core) (n : Nat) : (c.readFrames n).v = c.v := by unfold Core.readFrames; split <;> rfl
@[simp] theorem Core.readFrames_k (c : Core) (n : Nat) : (c.readFrames n).k = c.k := by unfold Core.readFrames; split <;> rfl
@[simp] theorem Core.readFrames_budget (c : Core) (n : Nat) : (c.readFrames n).budget = c.budget := by unfold Core.readFrames; split <;> rfl
@[simp] theorem Core.readFrames_lmret (c : Core) (n : Nat) : (c.readFrames n).lmret = c.lmret := by unfold Core.readFrames; split <;> rfl
@[simp] theorem Core.readFrames_ba0 (c : Core) (n : Nat) : (c.readFrames n).ba0 = c.ba0 := by unfold Core.readFrames; split <;> rfl
@[simp] theorem Core.readFrames_ba1 (c : Core) (n : Nat) : (c.readFrames n).ba1 = c.ba1 := by unfold Core.readFrames; split <;> rfl
@[simp] theorem Core.readFrames_cyc (c : Core) (n : Nat) : (c.readFrames n).cyc = c.cyc := by unfold Core.readFrames; split <;> rfl
@[simp] theorem Core.readFrames_xfid (c : Core) (n : Nat) : (c.readFrames n).xfid = c.xfid := by unfold Core.readFrames; split <;> rfl
@[simp] theorem Core.readFrames_jobid (c : Core) (n : Nat) : (c.readFrames n).jobid = c.jobid := by unfold Core.readFrames; split <;> rfl
@[simp] theorem Core.readFrames_cpsrc (c : Core) (n : Nat) : (c.readFrames n).cpsrc = c.cpsrc := by unfold Core.readFrames; split <;> rfl
@[simp] theorem Core.readFrames_cpdst (c : Core) (n : Nat) : (c.readFrames n).cpdst = c.cpdst := by unfold Core.readFrames; split <;> rfl
@[simp] theorem Core.readFrames_cplen (c : Core) (n : Nat) : (c.readFrames n).cplen = c.cplen := by unfold Core.readFrames; split <;> rfl
@[simp] theorem Core.readFrames_cpstrs (c : Core) (n : Nat) : (c.readFrames n).cpstrs = c.cpstrs := by unfold Core.readFrames; split <;> rfl
@[simp] theorem Core.readFrames_cpstrd (c : Core) (n : Nat) : (c.readFrames n).cpstrd = c.cpstrd := by unfold Core.readFrames; split <;> rfl
@[simp] theorem Core.readFrames_cpcnt (c : Core) (n : Nat) : (c.readFrames n).cpcnt = c.cpcnt := by unfold Core.readFrames; split <;> rfl
@[simp] theorem Core.readFrames_cphdl (c : Core) (n : Nat) : (c.readFrames n).cphdl = c.cphdl := by unfold Core.readFrames; split <;> rfl
@[simp] theorem Core.readFrames_clg (c : Core) (n : Nat) : (c.readFrames n).clg = c.clg := by unfold Core.readFrames; split <;> rfl
@[simp] theorem Core.readFrames_q (c : Core) (n : Nat) : (c.readFrames n).q = c.q := by unfold Core.readFrames; split <;> rfl
@[simp] theorem Core.readFrames_lm (c : Core) (n : Nat) : (c.readFrames n).lm = c.lm := by unfold Core.readFrames; split <;> rfl
@[simp] theorem Core.readFrames_lmErr (c : Core) (n : Nat) : (c.readFrames n).lmErr = c.lmErr := by unfold Core.readFrames; split <;> rfl
@[simp] theorem Core.readFrames_bankOff (c : Core) (n : Nat) : (c.readFrames n).bankOff = c.bankOff := by unfold Core.readFrames; split <;> rfl
@[simp] theorem Core.readFrames_stint (c : Core) (n : Nat) : (c.readFrames n).stint = c.stint := by unfold Core.readFrames; split <;> rfl
@[simp] theorem Core.readFrames_wait (c : Core) (n : Nat) : (c.readFrames n).wait = c.wait := by unfold Core.readFrames; split <;> rfl
@[simp] theorem Core.readFrames_ob (c : Core) (n : Nat) : (c.readFrames n).ob = c.ob := by unfold Core.readFrames; split <;> rfl
@[simp] theorem Core.readFrames_ct (c : Core) (n : Nat) : (c.readFrames n).ct = c.ct := by unfold Core.readFrames; split <;> rfl
@[simp] theorem Core.readFrames_mq (c : Core) (n : Nat) : (c.readFrames n).mq = c.mq := by unfold Core.readFrames; split <;> rfl
@[simp] theorem Core.readFrames_runq (c : Core) (n : Nat) : (c.readFrames n).runq = c.runq := by unfold Core.readFrames; split <;> rfl
@[simp] theorem Core.readFrames_back (c : Core) (n : Nat) : (c.readFrames n).back = c.back := by unfold Core.readFrames; split <;> rfl
@[simp] theorem Core.readFrames_parked (c : Core) (n : Nat) : (c.readFrames n).parked = c.parked := by unfold Core.readFrames; split <;> rfl
@[simp] theorem Core.readFrames_late (c : Core) (n : Nat) : (c.readFrames n).late = c.late := by unfold Core.readFrames; split <;> rfl
@[simp] theorem Core.readFrames_slab (c : Core) (n : Nat) : (c.readFrames n).slab = c.slab := by unfold Core.readFrames; split <;> rfl
@[simp] theorem Core.readFrames_frames (c : Core) (n : Nat) : (c.readFrames n).frames = c.frames := by unfold Core.readFrames; split <;> rfl
@[simp] theorem Core.readFrames_retain (c : Core) (n : Nat) : (c.readFrames n).retain = c.retain := by unfold Core.readFrames; split <;> rfl
@[simp] theorem Core.readFrames_view (c : Core) (n : Nat) : (c.readFrames n).view = c.view := by unfold Core.readFrames; split <;> rfl
@[simp] theorem Core.readFrames_job (c : Core) (n : Nat) : (c.readFrames n).job = c.job := by unfold Core.readFrames; split <;> rfl
@[simp] theorem Core.readFrames_xnext (c : Core) (n : Nat) : (c.readFrames n).xnext = c.xnext := by unfold Core.readFrames; split <;> rfl
@[simp] theorem Core.readFrames_jnext (c : Core) (n : Nat) : (c.readFrames n).jnext = c.jnext := by unfold Core.readFrames; split <;> rfl
@[simp] theorem Core.readFrames_xout (c : Core) (n : Nat) : (c.readFrames n).xout = c.xout := by unfold Core.readFrames; split <;> rfl
@[simp] theorem Core.readFrames_jout (c : Core) (n : Nat) : (c.readFrames n).jout = c.jout := by unfold Core.readFrames; split <;> rfl
@[simp] theorem Core.readFrames_hold (c : Core) (n : Nat) : (c.readFrames n).hold = c.hold := by unfold Core.readFrames; split <;> rfl
@[simp] theorem Core.readFrames_report (c : Core) (n : Nat) : (c.readFrames n).report = c.report := by unfold Core.readFrames; split <;> rfl
@[simp] theorem Core.readFrames_returned (c : Core) (n : Nat) : (c.readFrames n).returned = c.returned := by unfold Core.readFrames; split <;> rfl
@[simp] theorem Core.readFrames_ord (c : Core) (n : Nat) : (c.readFrames n).ord = c.ord := by unfold Core.readFrames; split <;> rfl
@[simp] theorem Core.readFrames_ready (c : Core) (n : Nat) : (c.readFrames n).ready = c.ready := by unfold Core.readFrames; split <;> rfl
@[simp] theorem Core.readFrames_msgBank (c : Core) (n : Nat) : (c.readFrames n).msgBank = c.msgBank := by unfold Core.readFrames; split <;> rfl

/-! LM words that a party other than a stint reads or writes (R47). -/

@[simp] theorem Core.words_cid (c : Core) (l : Lid) (n : Nat) : (c.words l n).cid = c.cid := by unfold Core.words; split <;> rfl
@[simp] theorem Core.words_g (c : Core) (l : Lid) (n : Nat) : (c.words l n).g = c.g := by unfold Core.words; split <;> rfl
@[simp] theorem Core.words_obj (c : Core) (l : Lid) (n : Nat) : (c.words l n).obj = c.obj := by unfold Core.words; split <;> rfl
@[simp] theorem Core.words_off (c : Core) (l : Lid) (n : Nat) : (c.words l n).off = c.off := by unfold Core.words; split <;> rfl
@[simp] theorem Core.words_st (c : Core) (l : Lid) (n : Nat) : (c.words l n).st = c.st := by unfold Core.words; split <;> rfl
@[simp] theorem Core.words_wid (c : Core) (l : Lid) (n : Nat) : (c.words l n).wid = c.wid := by unfold Core.words; split <;> rfl
@[simp] theorem Core.words_htop (c : Core) (l : Lid) (n : Nat) : (c.words l n).htop = c.htop := by unfold Core.words; split <;> rfl
@[simp] theorem Core.words_v (c : Core) (l : Lid) (n : Nat) : (c.words l n).v = c.v := by unfold Core.words; split <;> rfl
@[simp] theorem Core.words_k (c : Core) (l : Lid) (n : Nat) : (c.words l n).k = c.k := by unfold Core.words; split <;> rfl
@[simp] theorem Core.words_budget (c : Core) (l : Lid) (n : Nat) : (c.words l n).budget = c.budget := by unfold Core.words; split <;> rfl
@[simp] theorem Core.words_lmret (c : Core) (l : Lid) (n : Nat) : (c.words l n).lmret = c.lmret := by unfold Core.words; split <;> rfl
@[simp] theorem Core.words_ba0 (c : Core) (l : Lid) (n : Nat) : (c.words l n).ba0 = c.ba0 := by unfold Core.words; split <;> rfl
@[simp] theorem Core.words_ba1 (c : Core) (l : Lid) (n : Nat) : (c.words l n).ba1 = c.ba1 := by unfold Core.words; split <;> rfl
@[simp] theorem Core.words_cyc (c : Core) (l : Lid) (n : Nat) : (c.words l n).cyc = c.cyc := by unfold Core.words; split <;> rfl
@[simp] theorem Core.words_xfid (c : Core) (l : Lid) (n : Nat) : (c.words l n).xfid = c.xfid := by unfold Core.words; split <;> rfl
@[simp] theorem Core.words_jobid (c : Core) (l : Lid) (n : Nat) : (c.words l n).jobid = c.jobid := by unfold Core.words; split <;> rfl
@[simp] theorem Core.words_cpsrc (c : Core) (l : Lid) (n : Nat) : (c.words l n).cpsrc = c.cpsrc := by unfold Core.words; split <;> rfl
@[simp] theorem Core.words_cpdst (c : Core) (l : Lid) (n : Nat) : (c.words l n).cpdst = c.cpdst := by unfold Core.words; split <;> rfl
@[simp] theorem Core.words_cplen (c : Core) (l : Lid) (n : Nat) : (c.words l n).cplen = c.cplen := by unfold Core.words; split <;> rfl
@[simp] theorem Core.words_cpstrs (c : Core) (l : Lid) (n : Nat) : (c.words l n).cpstrs = c.cpstrs := by unfold Core.words; split <;> rfl
@[simp] theorem Core.words_cpstrd (c : Core) (l : Lid) (n : Nat) : (c.words l n).cpstrd = c.cpstrd := by unfold Core.words; split <;> rfl
@[simp] theorem Core.words_cpcnt (c : Core) (l : Lid) (n : Nat) : (c.words l n).cpcnt = c.cpcnt := by unfold Core.words; split <;> rfl
@[simp] theorem Core.words_cphdl (c : Core) (l : Lid) (n : Nat) : (c.words l n).cphdl = c.cphdl := by unfold Core.words; split <;> rfl
@[simp] theorem Core.words_clg (c : Core) (l : Lid) (n : Nat) : (c.words l n).clg = c.clg := by unfold Core.words; split <;> rfl
@[simp] theorem Core.words_q (c : Core) (l : Lid) (n : Nat) : (c.words l n).q = c.q := by unfold Core.words; split <;> rfl
@[simp] theorem Core.words_lm (c : Core) (l : Lid) (n : Nat) : (c.words l n).lm = c.lm := by unfold Core.words; split <;> rfl
@[simp] theorem Core.words_lmErr (c : Core) (l : Lid) (n : Nat) : (c.words l n).lmErr = c.lmErr := by unfold Core.words; split <;> rfl
@[simp] theorem Core.words_bankOff (c : Core) (l : Lid) (n : Nat) : (c.words l n).bankOff = c.bankOff := by unfold Core.words; split <;> rfl
@[simp] theorem Core.words_stint (c : Core) (l : Lid) (n : Nat) : (c.words l n).stint = c.stint := by unfold Core.words; split <;> rfl
@[simp] theorem Core.words_wait (c : Core) (l : Lid) (n : Nat) : (c.words l n).wait = c.wait := by unfold Core.words; split <;> rfl
@[simp] theorem Core.words_ob (c : Core) (l : Lid) (n : Nat) : (c.words l n).ob = c.ob := by unfold Core.words; split <;> rfl
@[simp] theorem Core.words_ct (c : Core) (l : Lid) (n : Nat) : (c.words l n).ct = c.ct := by unfold Core.words; split <;> rfl
@[simp] theorem Core.words_mq (c : Core) (l : Lid) (n : Nat) : (c.words l n).mq = c.mq := by unfold Core.words; split <;> rfl
@[simp] theorem Core.words_runq (c : Core) (l : Lid) (n : Nat) : (c.words l n).runq = c.runq := by unfold Core.words; split <;> rfl
@[simp] theorem Core.words_back (c : Core) (l : Lid) (n : Nat) : (c.words l n).back = c.back := by unfold Core.words; split <;> rfl
@[simp] theorem Core.words_parked (c : Core) (l : Lid) (n : Nat) : (c.words l n).parked = c.parked := by unfold Core.words; split <;> rfl
@[simp] theorem Core.words_late (c : Core) (l : Lid) (n : Nat) : (c.words l n).late = c.late := by unfold Core.words; split <;> rfl
@[simp] theorem Core.words_slab (c : Core) (l : Lid) (n : Nat) : (c.words l n).slab = c.slab := by unfold Core.words; split <;> rfl
@[simp] theorem Core.words_frames (c : Core) (l : Lid) (n : Nat) : (c.words l n).frames = c.frames := by unfold Core.words; split <;> rfl
@[simp] theorem Core.words_retain (c : Core) (l : Lid) (n : Nat) : (c.words l n).retain = c.retain := by unfold Core.words; split <;> rfl
@[simp] theorem Core.words_view (c : Core) (l : Lid) (n : Nat) : (c.words l n).view = c.view := by unfold Core.words; split <;> rfl
@[simp] theorem Core.words_job (c : Core) (l : Lid) (n : Nat) : (c.words l n).job = c.job := by unfold Core.words; split <;> rfl
@[simp] theorem Core.words_xnext (c : Core) (l : Lid) (n : Nat) : (c.words l n).xnext = c.xnext := by unfold Core.words; split <;> rfl
@[simp] theorem Core.words_jnext (c : Core) (l : Lid) (n : Nat) : (c.words l n).jnext = c.jnext := by unfold Core.words; split <;> rfl
@[simp] theorem Core.words_xout (c : Core) (l : Lid) (n : Nat) : (c.words l n).xout = c.xout := by unfold Core.words; split <;> rfl
@[simp] theorem Core.words_jout (c : Core) (l : Lid) (n : Nat) : (c.words l n).jout = c.jout := by unfold Core.words; split <;> rfl
@[simp] theorem Core.words_hold (c : Core) (l : Lid) (n : Nat) : (c.words l n).hold = c.hold := by unfold Core.words; split <;> rfl
@[simp] theorem Core.words_report (c : Core) (l : Lid) (n : Nat) : (c.words l n).report = c.report := by unfold Core.words; split <;> rfl
@[simp] theorem Core.words_returned (c : Core) (l : Lid) (n : Nat) : (c.words l n).returned = c.returned := by unfold Core.words; split <;> rfl
@[simp] theorem Core.words_ord (c : Core) (l : Lid) (n : Nat) : (c.words l n).ord = c.ord := by unfold Core.words; split <;> rfl
@[simp] theorem Core.words_ready (c : Core) (l : Lid) (n : Nat) : (c.words l n).ready = c.ready := by unfold Core.words; split <;> rfl
@[simp] theorem Core.words_msgBank (c : Core) (l : Lid) (n : Nat) : (c.words l n).msgBank = c.msgBank := by unfold Core.words; split <;> rfl
/-- What the counting of LM words leaves, the looks at the conditions of sleepers leave. -/
theorem Core.looked_keeps {α : Type} (f : Core → α) (h : ∀ c l n, f (Core.words c l n) = f c) (c : Core) (off n : Nat) : f (c.looked off n) = f c := by
  unfold Core.looked; refine Core.foldl_keeps _ f (fun c x => ?_) _ _
  split
  · split
    · exact h _ _ _
    · rfl
  · rfl
@[simp] theorem Core.looked_cid (c : Core) (off n : Nat) : (c.looked off n).cid = c.cid := Core.looked_keeps (·.cid) (by simp) c off n
@[simp] theorem Core.looked_g (c : Core) (off n : Nat) : (c.looked off n).g = c.g := Core.looked_keeps (·.g) (by simp) c off n
@[simp] theorem Core.looked_obj (c : Core) (off n : Nat) : (c.looked off n).obj = c.obj := Core.looked_keeps (·.obj) (by simp) c off n
@[simp] theorem Core.looked_off (c : Core) (off n : Nat) : (c.looked off n).off = c.off := Core.looked_keeps (·.off) (by simp) c off n
@[simp] theorem Core.looked_st (c : Core) (off n : Nat) : (c.looked off n).st = c.st := Core.looked_keeps (·.st) (by simp) c off n
@[simp] theorem Core.looked_wid (c : Core) (off n : Nat) : (c.looked off n).wid = c.wid := Core.looked_keeps (·.wid) (by simp) c off n
@[simp] theorem Core.looked_htop (c : Core) (off n : Nat) : (c.looked off n).htop = c.htop := Core.looked_keeps (·.htop) (by simp) c off n
@[simp] theorem Core.looked_v (c : Core) (off n : Nat) : (c.looked off n).v = c.v := Core.looked_keeps (·.v) (by simp) c off n
@[simp] theorem Core.looked_k (c : Core) (off n : Nat) : (c.looked off n).k = c.k := Core.looked_keeps (·.k) (by simp) c off n
@[simp] theorem Core.looked_budget (c : Core) (off n : Nat) : (c.looked off n).budget = c.budget := Core.looked_keeps (·.budget) (by simp) c off n
@[simp] theorem Core.looked_lmret (c : Core) (off n : Nat) : (c.looked off n).lmret = c.lmret := Core.looked_keeps (·.lmret) (by simp) c off n
@[simp] theorem Core.looked_ba0 (c : Core) (off n : Nat) : (c.looked off n).ba0 = c.ba0 := Core.looked_keeps (·.ba0) (by simp) c off n
@[simp] theorem Core.looked_ba1 (c : Core) (off n : Nat) : (c.looked off n).ba1 = c.ba1 := Core.looked_keeps (·.ba1) (by simp) c off n
@[simp] theorem Core.looked_cyc (c : Core) (off n : Nat) : (c.looked off n).cyc = c.cyc := Core.looked_keeps (·.cyc) (by simp) c off n
@[simp] theorem Core.looked_xfid (c : Core) (off n : Nat) : (c.looked off n).xfid = c.xfid := Core.looked_keeps (·.xfid) (by simp) c off n
@[simp] theorem Core.looked_jobid (c : Core) (off n : Nat) : (c.looked off n).jobid = c.jobid := Core.looked_keeps (·.jobid) (by simp) c off n
@[simp] theorem Core.looked_cpsrc (c : Core) (off n : Nat) : (c.looked off n).cpsrc = c.cpsrc := Core.looked_keeps (·.cpsrc) (by simp) c off n
@[simp] theorem Core.looked_cpdst (c : Core) (off n : Nat) : (c.looked off n).cpdst = c.cpdst := Core.looked_keeps (·.cpdst) (by simp) c off n
@[simp] theorem Core.looked_cplen (c : Core) (off n : Nat) : (c.looked off n).cplen = c.cplen := Core.looked_keeps (·.cplen) (by simp) c off n
@[simp] theorem Core.looked_cpstrs (c : Core) (off n : Nat) : (c.looked off n).cpstrs = c.cpstrs := Core.looked_keeps (·.cpstrs) (by simp) c off n
@[simp] theorem Core.looked_cpstrd (c : Core) (off n : Nat) : (c.looked off n).cpstrd = c.cpstrd := Core.looked_keeps (·.cpstrd) (by simp) c off n
@[simp] theorem Core.looked_cpcnt (c : Core) (off n : Nat) : (c.looked off n).cpcnt = c.cpcnt := Core.looked_keeps (·.cpcnt) (by simp) c off n
@[simp] theorem Core.looked_cphdl (c : Core) (off n : Nat) : (c.looked off n).cphdl = c.cphdl := Core.looked_keeps (·.cphdl) (by simp) c off n
@[simp] theorem Core.looked_clg (c : Core) (off n : Nat) : (c.looked off n).clg = c.clg := Core.looked_keeps (·.clg) (by simp) c off n
@[simp] theorem Core.looked_q (c : Core) (off n : Nat) : (c.looked off n).q = c.q := Core.looked_keeps (·.q) (by simp) c off n
@[simp] theorem Core.looked_lm (c : Core) (off n : Nat) : (c.looked off n).lm = c.lm := Core.looked_keeps (·.lm) (by simp) c off n
@[simp] theorem Core.looked_lmErr (c : Core) (off n : Nat) : (c.looked off n).lmErr = c.lmErr := Core.looked_keeps (·.lmErr) (by simp) c off n
@[simp] theorem Core.looked_bankOff (c : Core) (off n : Nat) : (c.looked off n).bankOff = c.bankOff := Core.looked_keeps (·.bankOff) (by simp) c off n
@[simp] theorem Core.looked_stint (c : Core) (off n : Nat) : (c.looked off n).stint = c.stint := Core.looked_keeps (·.stint) (by simp) c off n
@[simp] theorem Core.looked_wait (c : Core) (off n : Nat) : (c.looked off n).wait = c.wait := Core.looked_keeps (·.wait) (by simp) c off n
@[simp] theorem Core.looked_ob (c : Core) (off n : Nat) : (c.looked off n).ob = c.ob := Core.looked_keeps (·.ob) (by simp) c off n
@[simp] theorem Core.looked_ct (c : Core) (off n : Nat) : (c.looked off n).ct = c.ct := Core.looked_keeps (·.ct) (by simp) c off n
@[simp] theorem Core.looked_mq (c : Core) (off n : Nat) : (c.looked off n).mq = c.mq := Core.looked_keeps (·.mq) (by simp) c off n
@[simp] theorem Core.looked_runq (c : Core) (off n : Nat) : (c.looked off n).runq = c.runq := Core.looked_keeps (·.runq) (by simp) c off n
@[simp] theorem Core.looked_back (c : Core) (off n : Nat) : (c.looked off n).back = c.back := Core.looked_keeps (·.back) (by simp) c off n
@[simp] theorem Core.looked_parked (c : Core) (off n : Nat) : (c.looked off n).parked = c.parked := Core.looked_keeps (·.parked) (by simp) c off n
@[simp] theorem Core.looked_late (c : Core) (off n : Nat) : (c.looked off n).late = c.late := Core.looked_keeps (·.late) (by simp) c off n
@[simp] theorem Core.looked_slab (c : Core) (off n : Nat) : (c.looked off n).slab = c.slab := Core.looked_keeps (·.slab) (by simp) c off n
@[simp] theorem Core.looked_frames (c : Core) (off n : Nat) : (c.looked off n).frames = c.frames := Core.looked_keeps (·.frames) (by simp) c off n
@[simp] theorem Core.looked_retain (c : Core) (off n : Nat) : (c.looked off n).retain = c.retain := Core.looked_keeps (·.retain) (by simp) c off n
@[simp] theorem Core.looked_view (c : Core) (off n : Nat) : (c.looked off n).view = c.view := Core.looked_keeps (·.view) (by simp) c off n
@[simp] theorem Core.looked_job (c : Core) (off n : Nat) : (c.looked off n).job = c.job := Core.looked_keeps (·.job) (by simp) c off n
@[simp] theorem Core.looked_xnext (c : Core) (off n : Nat) : (c.looked off n).xnext = c.xnext := Core.looked_keeps (·.xnext) (by simp) c off n
@[simp] theorem Core.looked_jnext (c : Core) (off n : Nat) : (c.looked off n).jnext = c.jnext := Core.looked_keeps (·.jnext) (by simp) c off n
@[simp] theorem Core.looked_xout (c : Core) (off n : Nat) : (c.looked off n).xout = c.xout := Core.looked_keeps (·.xout) (by simp) c off n
@[simp] theorem Core.looked_jout (c : Core) (off n : Nat) : (c.looked off n).jout = c.jout := Core.looked_keeps (·.jout) (by simp) c off n
@[simp] theorem Core.looked_hold (c : Core) (off n : Nat) : (c.looked off n).hold = c.hold := Core.looked_keeps (·.hold) (by simp) c off n
@[simp] theorem Core.looked_report (c : Core) (off n : Nat) : (c.looked off n).report = c.report := Core.looked_keeps (·.report) (by simp) c off n
@[simp] theorem Core.looked_returned (c : Core) (off n : Nat) : (c.looked off n).returned = c.returned := Core.looked_keeps (·.returned) (by simp) c off n
@[simp] theorem Core.looked_ord (c : Core) (off n : Nat) : (c.looked off n).ord = c.ord := Core.looked_keeps (·.ord) (by simp) c off n
@[simp] theorem Core.looked_ready (c : Core) (off n : Nat) : (c.looked off n).ready = c.ready := Core.looked_keeps (·.ready) (by simp) c off n
@[simp] theorem Core.looked_msgBank (c : Core) (off n : Nat) : (c.looked off n).msgBank = c.msgBank := Core.looked_keeps (·.msgBank) (by simp) c off n

/-! Waits that end (R133). -/

@[simp] theorem Core.takeMsg_cid (c : Core) (now no : Nat) (m : Msg) : (c.takeMsg now no m).cid = c.cid := by
  unfold Core.takeMsg; split <;> rfl
@[simp] theorem Core.takeMsg_g (c : Core) (now no : Nat) (m : Msg) : (c.takeMsg now no m).g = c.g := by
  unfold Core.takeMsg; split <;> rfl
@[simp] theorem Core.takeMsg_obj (c : Core) (now no : Nat) (m : Msg) : (c.takeMsg now no m).obj = c.obj := by
  unfold Core.takeMsg; split <;> rfl
@[simp] theorem Core.takeMsg_off (c : Core) (now no : Nat) (m : Msg) : (c.takeMsg now no m).off = c.off := by
  unfold Core.takeMsg; split <;> rfl
@[simp] theorem Core.takeMsg_st (c : Core) (now no : Nat) (m : Msg) : (c.takeMsg now no m).st = c.st := by
  unfold Core.takeMsg; split <;> rfl
@[simp] theorem Core.takeMsg_wid (c : Core) (now no : Nat) (m : Msg) : (c.takeMsg now no m).wid = c.wid := by
  unfold Core.takeMsg; split <;> rfl
@[simp] theorem Core.takeMsg_htop (c : Core) (now no : Nat) (m : Msg) : (c.takeMsg now no m).htop = c.htop := by
  unfold Core.takeMsg; split <;> rfl
@[simp] theorem Core.takeMsg_v (c : Core) (now no : Nat) (m : Msg) : (c.takeMsg now no m).v = c.v := by
  unfold Core.takeMsg; split <;> rfl
@[simp] theorem Core.takeMsg_k (c : Core) (now no : Nat) (m : Msg) : (c.takeMsg now no m).k = c.k := by
  unfold Core.takeMsg; split <;> rfl
@[simp] theorem Core.takeMsg_budget (c : Core) (now no : Nat) (m : Msg) : (c.takeMsg now no m).budget = c.budget := by
  unfold Core.takeMsg; split <;> rfl
@[simp] theorem Core.takeMsg_lmret (c : Core) (now no : Nat) (m : Msg) : (c.takeMsg now no m).lmret = c.lmret := by
  unfold Core.takeMsg; split <;> rfl
@[simp] theorem Core.takeMsg_ba0 (c : Core) (now no : Nat) (m : Msg) : (c.takeMsg now no m).ba0 = c.ba0 := by
  unfold Core.takeMsg; split <;> rfl
@[simp] theorem Core.takeMsg_ba1 (c : Core) (now no : Nat) (m : Msg) : (c.takeMsg now no m).ba1 = c.ba1 := by
  unfold Core.takeMsg; split <;> rfl
@[simp] theorem Core.takeMsg_cyc (c : Core) (now no : Nat) (m : Msg) : (c.takeMsg now no m).cyc = c.cyc := by
  unfold Core.takeMsg; split <;> rfl
@[simp] theorem Core.takeMsg_xfid (c : Core) (now no : Nat) (m : Msg) : (c.takeMsg now no m).xfid = c.xfid := by
  unfold Core.takeMsg; split <;> rfl
@[simp] theorem Core.takeMsg_jobid (c : Core) (now no : Nat) (m : Msg) : (c.takeMsg now no m).jobid = c.jobid := by
  unfold Core.takeMsg; split <;> rfl
@[simp] theorem Core.takeMsg_cpsrc (c : Core) (now no : Nat) (m : Msg) : (c.takeMsg now no m).cpsrc = c.cpsrc := by
  unfold Core.takeMsg; split <;> rfl
@[simp] theorem Core.takeMsg_cpdst (c : Core) (now no : Nat) (m : Msg) : (c.takeMsg now no m).cpdst = c.cpdst := by
  unfold Core.takeMsg; split <;> rfl
@[simp] theorem Core.takeMsg_cplen (c : Core) (now no : Nat) (m : Msg) : (c.takeMsg now no m).cplen = c.cplen := by
  unfold Core.takeMsg; split <;> rfl
@[simp] theorem Core.takeMsg_cpstrs (c : Core) (now no : Nat) (m : Msg) : (c.takeMsg now no m).cpstrs = c.cpstrs := by
  unfold Core.takeMsg; split <;> rfl
@[simp] theorem Core.takeMsg_cpstrd (c : Core) (now no : Nat) (m : Msg) : (c.takeMsg now no m).cpstrd = c.cpstrd := by
  unfold Core.takeMsg; split <;> rfl
@[simp] theorem Core.takeMsg_cpcnt (c : Core) (now no : Nat) (m : Msg) : (c.takeMsg now no m).cpcnt = c.cpcnt := by
  unfold Core.takeMsg; split <;> rfl
@[simp] theorem Core.takeMsg_cphdl (c : Core) (now no : Nat) (m : Msg) : (c.takeMsg now no m).cphdl = c.cphdl := by
  unfold Core.takeMsg; split <;> rfl
@[simp] theorem Core.takeMsg_clg (c : Core) (now no : Nat) (m : Msg) : (c.takeMsg now no m).clg = c.clg := by
  unfold Core.takeMsg; split <;> rfl
@[simp] theorem Core.takeMsg_q (c : Core) (now no : Nat) (m : Msg) : (c.takeMsg now no m).q = c.q := by
  unfold Core.takeMsg; split <;> rfl
@[simp] theorem Core.takeMsg_lm (c : Core) (now no : Nat) (m : Msg) : (c.takeMsg now no m).lm = c.lm := by
  unfold Core.takeMsg; split <;> rfl
@[simp] theorem Core.takeMsg_lmErr (c : Core) (now no : Nat) (m : Msg) : (c.takeMsg now no m).lmErr = c.lmErr := by
  unfold Core.takeMsg; split <;> rfl
@[simp] theorem Core.takeMsg_bankOff (c : Core) (now no : Nat) (m : Msg) : (c.takeMsg now no m).bankOff = c.bankOff := by
  unfold Core.takeMsg; split <;> rfl
@[simp] theorem Core.takeMsg_stint (c : Core) (now no : Nat) (m : Msg) : (c.takeMsg now no m).stint = c.stint := by
  unfold Core.takeMsg; split <;> rfl
@[simp] theorem Core.takeMsg_wait (c : Core) (now no : Nat) (m : Msg) : (c.takeMsg now no m).wait = c.wait := by
  unfold Core.takeMsg; split <;> rfl
@[simp] theorem Core.takeMsg_ob (c : Core) (now no : Nat) (m : Msg) : (c.takeMsg now no m).ob = c.ob := by
  unfold Core.takeMsg; split <;> rfl
@[simp] theorem Core.takeMsg_ct (c : Core) (now no : Nat) (m : Msg) : (c.takeMsg now no m).ct = c.ct := by
  unfold Core.takeMsg; split <;> rfl
@[simp] theorem Core.takeMsg_mq (c : Core) (now no : Nat) (m : Msg) : (c.takeMsg now no m).mq = c.mq := by
  unfold Core.takeMsg; split <;> rfl
@[simp] theorem Core.takeMsg_back (c : Core) (now no : Nat) (m : Msg) : (c.takeMsg now no m).back = c.back := by
  unfold Core.takeMsg; split <;> rfl
@[simp] theorem Core.takeMsg_parked (c : Core) (now no : Nat) (m : Msg) : (c.takeMsg now no m).parked = c.parked := by
  unfold Core.takeMsg; split <;> rfl
@[simp] theorem Core.takeMsg_slab (c : Core) (now no : Nat) (m : Msg) : (c.takeMsg now no m).slab = c.slab := by
  unfold Core.takeMsg; split <;> rfl
@[simp] theorem Core.takeMsg_frames (c : Core) (now no : Nat) (m : Msg) : (c.takeMsg now no m).frames = c.frames := by
  unfold Core.takeMsg; split <;> rfl
@[simp] theorem Core.takeMsg_retain (c : Core) (now no : Nat) (m : Msg) : (c.takeMsg now no m).retain = c.retain := by
  unfold Core.takeMsg; split <;> rfl
@[simp] theorem Core.takeMsg_view (c : Core) (now no : Nat) (m : Msg) : (c.takeMsg now no m).view = c.view := by
  unfold Core.takeMsg; split <;> rfl
@[simp] theorem Core.takeMsg_job (c : Core) (now no : Nat) (m : Msg) : (c.takeMsg now no m).job = c.job := by
  unfold Core.takeMsg; split <;> rfl
@[simp] theorem Core.takeMsg_xnext (c : Core) (now no : Nat) (m : Msg) : (c.takeMsg now no m).xnext = c.xnext := by
  unfold Core.takeMsg; split <;> rfl
@[simp] theorem Core.takeMsg_jnext (c : Core) (now no : Nat) (m : Msg) : (c.takeMsg now no m).jnext = c.jnext := by
  unfold Core.takeMsg; split <;> rfl
@[simp] theorem Core.takeMsg_xout (c : Core) (now no : Nat) (m : Msg) : (c.takeMsg now no m).xout = c.xout := by
  unfold Core.takeMsg; split <;> rfl
@[simp] theorem Core.takeMsg_jout (c : Core) (now no : Nat) (m : Msg) : (c.takeMsg now no m).jout = c.jout := by
  unfold Core.takeMsg; split <;> rfl
@[simp] theorem Core.takeMsg_hold (c : Core) (now no : Nat) (m : Msg) : (c.takeMsg now no m).hold = c.hold := by
  unfold Core.takeMsg; split <;> rfl
@[simp] theorem Core.takeMsg_report (c : Core) (now no : Nat) (m : Msg) : (c.takeMsg now no m).report = c.report := by
  unfold Core.takeMsg; split <;> rfl
@[simp] theorem Core.takeMsg_returned (c : Core) (now no : Nat) (m : Msg) : (c.takeMsg now no m).returned = c.returned := by
  unfold Core.takeMsg; split <;> rfl
@[simp] theorem Core.takeMsg_ord (c : Core) (now no : Nat) (m : Msg) : (c.takeMsg now no m).ord = c.ord := by
  unfold Core.takeMsg; split <;> rfl
@[simp] theorem Core.takeMsg_ready (c : Core) (now no : Nat) (m : Msg) : (c.takeMsg now no m).ready = c.ready := by
  unfold Core.takeMsg; split <;> rfl
@[simp] theorem Core.takeMsg_msgBank (c : Core) (now no : Nat) (m : Msg) : (c.takeMsg now no m).msgBank = c.msgBank := by
  unfold Core.takeMsg; split <;> rfl
@[simp] theorem Core.wake_cid (c : Core) (no : Nat) (h : Core → Sleep → Bool) : (c.wake no h).cid = c.cid := by
  unfold Core.wake; refine Core.foldl_keeps _ (·.cid) (fun c i => ?_) _ _; split <;> try rfl
  split <;> try rfl
  split
  · exact Core.takeMsg_cid _ _ _ _
  · rfl
@[simp] theorem Core.wake_g (c : Core) (no : Nat) (h : Core → Sleep → Bool) : (c.wake no h).g = c.g := by
  unfold Core.wake; refine Core.foldl_keeps _ (·.g) (fun c i => ?_) _ _; split <;> try rfl
  split <;> try rfl
  split
  · exact Core.takeMsg_g _ _ _ _
  · rfl
@[simp] theorem Core.wake_obj (c : Core) (no : Nat) (h : Core → Sleep → Bool) : (c.wake no h).obj = c.obj := by
  unfold Core.wake; refine Core.foldl_keeps _ (·.obj) (fun c i => ?_) _ _; split <;> try rfl
  split <;> try rfl
  split
  · exact Core.takeMsg_obj _ _ _ _
  · rfl
@[simp] theorem Core.wake_off (c : Core) (no : Nat) (h : Core → Sleep → Bool) : (c.wake no h).off = c.off := by
  unfold Core.wake; refine Core.foldl_keeps _ (·.off) (fun c i => ?_) _ _; split <;> try rfl
  split <;> try rfl
  split
  · exact Core.takeMsg_off _ _ _ _
  · rfl
@[simp] theorem Core.wake_st (c : Core) (no : Nat) (h : Core → Sleep → Bool) : (c.wake no h).st = c.st := by
  unfold Core.wake; refine Core.foldl_keeps _ (·.st) (fun c i => ?_) _ _; split <;> try rfl
  split <;> try rfl
  split
  · exact Core.takeMsg_st _ _ _ _
  · rfl
@[simp] theorem Core.wake_wid (c : Core) (no : Nat) (h : Core → Sleep → Bool) : (c.wake no h).wid = c.wid := by
  unfold Core.wake; refine Core.foldl_keeps _ (·.wid) (fun c i => ?_) _ _; split <;> try rfl
  split <;> try rfl
  split
  · exact Core.takeMsg_wid _ _ _ _
  · rfl
@[simp] theorem Core.wake_htop (c : Core) (no : Nat) (h : Core → Sleep → Bool) : (c.wake no h).htop = c.htop := by
  unfold Core.wake; refine Core.foldl_keeps _ (·.htop) (fun c i => ?_) _ _; split <;> try rfl
  split <;> try rfl
  split
  · exact Core.takeMsg_htop _ _ _ _
  · rfl
@[simp] theorem Core.wake_v (c : Core) (no : Nat) (h : Core → Sleep → Bool) : (c.wake no h).v = c.v := by
  unfold Core.wake; refine Core.foldl_keeps _ (·.v) (fun c i => ?_) _ _; split <;> try rfl
  split <;> try rfl
  split
  · exact Core.takeMsg_v _ _ _ _
  · rfl
@[simp] theorem Core.wake_k (c : Core) (no : Nat) (h : Core → Sleep → Bool) : (c.wake no h).k = c.k := by
  unfold Core.wake; refine Core.foldl_keeps _ (·.k) (fun c i => ?_) _ _; split <;> try rfl
  split <;> try rfl
  split
  · exact Core.takeMsg_k _ _ _ _
  · rfl
@[simp] theorem Core.wake_budget (c : Core) (no : Nat) (h : Core → Sleep → Bool) : (c.wake no h).budget = c.budget := by
  unfold Core.wake; refine Core.foldl_keeps _ (·.budget) (fun c i => ?_) _ _; split <;> try rfl
  split <;> try rfl
  split
  · exact Core.takeMsg_budget _ _ _ _
  · rfl
@[simp] theorem Core.wake_lmret (c : Core) (no : Nat) (h : Core → Sleep → Bool) : (c.wake no h).lmret = c.lmret := by
  unfold Core.wake; refine Core.foldl_keeps _ (·.lmret) (fun c i => ?_) _ _; split <;> try rfl
  split <;> try rfl
  split
  · exact Core.takeMsg_lmret _ _ _ _
  · rfl
@[simp] theorem Core.wake_ba0 (c : Core) (no : Nat) (h : Core → Sleep → Bool) : (c.wake no h).ba0 = c.ba0 := by
  unfold Core.wake; refine Core.foldl_keeps _ (·.ba0) (fun c i => ?_) _ _; split <;> try rfl
  split <;> try rfl
  split
  · exact Core.takeMsg_ba0 _ _ _ _
  · rfl
@[simp] theorem Core.wake_ba1 (c : Core) (no : Nat) (h : Core → Sleep → Bool) : (c.wake no h).ba1 = c.ba1 := by
  unfold Core.wake; refine Core.foldl_keeps _ (·.ba1) (fun c i => ?_) _ _; split <;> try rfl
  split <;> try rfl
  split
  · exact Core.takeMsg_ba1 _ _ _ _
  · rfl
@[simp] theorem Core.wake_cyc (c : Core) (no : Nat) (h : Core → Sleep → Bool) : (c.wake no h).cyc = c.cyc := by
  unfold Core.wake; refine Core.foldl_keeps _ (·.cyc) (fun c i => ?_) _ _; split <;> try rfl
  split <;> try rfl
  split
  · exact Core.takeMsg_cyc _ _ _ _
  · rfl
@[simp] theorem Core.wake_xfid (c : Core) (no : Nat) (h : Core → Sleep → Bool) : (c.wake no h).xfid = c.xfid := by
  unfold Core.wake; refine Core.foldl_keeps _ (·.xfid) (fun c i => ?_) _ _; split <;> try rfl
  split <;> try rfl
  split
  · exact Core.takeMsg_xfid _ _ _ _
  · rfl
@[simp] theorem Core.wake_jobid (c : Core) (no : Nat) (h : Core → Sleep → Bool) : (c.wake no h).jobid = c.jobid := by
  unfold Core.wake; refine Core.foldl_keeps _ (·.jobid) (fun c i => ?_) _ _; split <;> try rfl
  split <;> try rfl
  split
  · exact Core.takeMsg_jobid _ _ _ _
  · rfl
@[simp] theorem Core.wake_cpsrc (c : Core) (no : Nat) (h : Core → Sleep → Bool) : (c.wake no h).cpsrc = c.cpsrc := by
  unfold Core.wake; refine Core.foldl_keeps _ (·.cpsrc) (fun c i => ?_) _ _; split <;> try rfl
  split <;> try rfl
  split
  · exact Core.takeMsg_cpsrc _ _ _ _
  · rfl
@[simp] theorem Core.wake_cpdst (c : Core) (no : Nat) (h : Core → Sleep → Bool) : (c.wake no h).cpdst = c.cpdst := by
  unfold Core.wake; refine Core.foldl_keeps _ (·.cpdst) (fun c i => ?_) _ _; split <;> try rfl
  split <;> try rfl
  split
  · exact Core.takeMsg_cpdst _ _ _ _
  · rfl
@[simp] theorem Core.wake_cplen (c : Core) (no : Nat) (h : Core → Sleep → Bool) : (c.wake no h).cplen = c.cplen := by
  unfold Core.wake; refine Core.foldl_keeps _ (·.cplen) (fun c i => ?_) _ _; split <;> try rfl
  split <;> try rfl
  split
  · exact Core.takeMsg_cplen _ _ _ _
  · rfl
@[simp] theorem Core.wake_cpstrs (c : Core) (no : Nat) (h : Core → Sleep → Bool) : (c.wake no h).cpstrs = c.cpstrs := by
  unfold Core.wake; refine Core.foldl_keeps _ (·.cpstrs) (fun c i => ?_) _ _; split <;> try rfl
  split <;> try rfl
  split
  · exact Core.takeMsg_cpstrs _ _ _ _
  · rfl
@[simp] theorem Core.wake_cpstrd (c : Core) (no : Nat) (h : Core → Sleep → Bool) : (c.wake no h).cpstrd = c.cpstrd := by
  unfold Core.wake; refine Core.foldl_keeps _ (·.cpstrd) (fun c i => ?_) _ _; split <;> try rfl
  split <;> try rfl
  split
  · exact Core.takeMsg_cpstrd _ _ _ _
  · rfl
@[simp] theorem Core.wake_cpcnt (c : Core) (no : Nat) (h : Core → Sleep → Bool) : (c.wake no h).cpcnt = c.cpcnt := by
  unfold Core.wake; refine Core.foldl_keeps _ (·.cpcnt) (fun c i => ?_) _ _; split <;> try rfl
  split <;> try rfl
  split
  · exact Core.takeMsg_cpcnt _ _ _ _
  · rfl
@[simp] theorem Core.wake_cphdl (c : Core) (no : Nat) (h : Core → Sleep → Bool) : (c.wake no h).cphdl = c.cphdl := by
  unfold Core.wake; refine Core.foldl_keeps _ (·.cphdl) (fun c i => ?_) _ _; split <;> try rfl
  split <;> try rfl
  split
  · exact Core.takeMsg_cphdl _ _ _ _
  · rfl
@[simp] theorem Core.wake_clg (c : Core) (no : Nat) (h : Core → Sleep → Bool) : (c.wake no h).clg = c.clg := by
  unfold Core.wake; refine Core.foldl_keeps _ (·.clg) (fun c i => ?_) _ _; split <;> try rfl
  split <;> try rfl
  split
  · exact Core.takeMsg_clg _ _ _ _
  · rfl
@[simp] theorem Core.wake_q (c : Core) (no : Nat) (h : Core → Sleep → Bool) : (c.wake no h).q = c.q := by
  unfold Core.wake; refine Core.foldl_keeps _ (·.q) (fun c i => ?_) _ _; split <;> try rfl
  split <;> try rfl
  split
  · exact Core.takeMsg_q _ _ _ _
  · rfl
@[simp] theorem Core.wake_lm (c : Core) (no : Nat) (h : Core → Sleep → Bool) : (c.wake no h).lm = c.lm := by
  unfold Core.wake; refine Core.foldl_keeps _ (·.lm) (fun c i => ?_) _ _; split <;> try rfl
  split <;> try rfl
  split
  · exact Core.takeMsg_lm _ _ _ _
  · rfl
@[simp] theorem Core.wake_lmErr (c : Core) (no : Nat) (h : Core → Sleep → Bool) : (c.wake no h).lmErr = c.lmErr := by
  unfold Core.wake; refine Core.foldl_keeps _ (·.lmErr) (fun c i => ?_) _ _; split <;> try rfl
  split <;> try rfl
  split
  · exact Core.takeMsg_lmErr _ _ _ _
  · rfl
@[simp] theorem Core.wake_bankOff (c : Core) (no : Nat) (h : Core → Sleep → Bool) : (c.wake no h).bankOff = c.bankOff := by
  unfold Core.wake; refine Core.foldl_keeps _ (·.bankOff) (fun c i => ?_) _ _; split <;> try rfl
  split <;> try rfl
  split
  · exact Core.takeMsg_bankOff _ _ _ _
  · rfl
@[simp] theorem Core.wake_stint (c : Core) (no : Nat) (h : Core → Sleep → Bool) : (c.wake no h).stint = c.stint := by
  unfold Core.wake; refine Core.foldl_keeps _ (·.stint) (fun c i => ?_) _ _; split <;> try rfl
  split <;> try rfl
  split
  · exact Core.takeMsg_stint _ _ _ _
  · rfl
@[simp] theorem Core.wake_wait (c : Core) (no : Nat) (h : Core → Sleep → Bool) : (c.wake no h).wait = c.wait := by
  unfold Core.wake; refine Core.foldl_keeps _ (·.wait) (fun c i => ?_) _ _; split <;> try rfl
  split <;> try rfl
  split
  · exact Core.takeMsg_wait _ _ _ _
  · rfl
@[simp] theorem Core.wake_ob (c : Core) (no : Nat) (h : Core → Sleep → Bool) : (c.wake no h).ob = c.ob := by
  unfold Core.wake; refine Core.foldl_keeps _ (·.ob) (fun c i => ?_) _ _; split <;> try rfl
  split <;> try rfl
  split
  · exact Core.takeMsg_ob _ _ _ _
  · rfl
@[simp] theorem Core.wake_ct (c : Core) (no : Nat) (h : Core → Sleep → Bool) : (c.wake no h).ct = c.ct := by
  unfold Core.wake; refine Core.foldl_keeps _ (·.ct) (fun c i => ?_) _ _; split <;> try rfl
  split <;> try rfl
  split
  · exact Core.takeMsg_ct _ _ _ _
  · rfl
@[simp] theorem Core.wake_mq (c : Core) (no : Nat) (h : Core → Sleep → Bool) : (c.wake no h).mq = c.mq := by
  unfold Core.wake; refine Core.foldl_keeps _ (·.mq) (fun c i => ?_) _ _; split <;> try rfl
  split <;> try rfl
  split
  · exact Core.takeMsg_mq _ _ _ _
  · rfl
@[simp] theorem Core.wake_back (c : Core) (no : Nat) (h : Core → Sleep → Bool) : (c.wake no h).back = c.back := by
  unfold Core.wake; refine Core.foldl_keeps _ (·.back) (fun c i => ?_) _ _; split <;> try rfl
  split <;> try rfl
  split
  · exact Core.takeMsg_back _ _ _ _
  · rfl
@[simp] theorem Core.wake_parked (c : Core) (no : Nat) (h : Core → Sleep → Bool) : (c.wake no h).parked = c.parked := by
  unfold Core.wake; refine Core.foldl_keeps _ (·.parked) (fun c i => ?_) _ _; split <;> try rfl
  split <;> try rfl
  split
  · exact Core.takeMsg_parked _ _ _ _
  · rfl
@[simp] theorem Core.wake_frames (c : Core) (no : Nat) (h : Core → Sleep → Bool) : (c.wake no h).frames = c.frames := by
  unfold Core.wake; refine Core.foldl_keeps _ (·.frames) (fun c i => ?_) _ _; split <;> try rfl
  split <;> try rfl
  split
  · exact Core.takeMsg_frames _ _ _ _
  · rfl
@[simp] theorem Core.wake_retain (c : Core) (no : Nat) (h : Core → Sleep → Bool) : (c.wake no h).retain = c.retain := by
  unfold Core.wake; refine Core.foldl_keeps _ (·.retain) (fun c i => ?_) _ _; split <;> try rfl
  split <;> try rfl
  split
  · exact Core.takeMsg_retain _ _ _ _
  · rfl
@[simp] theorem Core.wake_view (c : Core) (no : Nat) (h : Core → Sleep → Bool) : (c.wake no h).view = c.view := by
  unfold Core.wake; refine Core.foldl_keeps _ (·.view) (fun c i => ?_) _ _; split <;> try rfl
  split <;> try rfl
  split
  · exact Core.takeMsg_view _ _ _ _
  · rfl
@[simp] theorem Core.wake_job (c : Core) (no : Nat) (h : Core → Sleep → Bool) : (c.wake no h).job = c.job := by
  unfold Core.wake; refine Core.foldl_keeps _ (·.job) (fun c i => ?_) _ _; split <;> try rfl
  split <;> try rfl
  split
  · exact Core.takeMsg_job _ _ _ _
  · rfl
@[simp] theorem Core.wake_xnext (c : Core) (no : Nat) (h : Core → Sleep → Bool) : (c.wake no h).xnext = c.xnext := by
  unfold Core.wake; refine Core.foldl_keeps _ (·.xnext) (fun c i => ?_) _ _; split <;> try rfl
  split <;> try rfl
  split
  · exact Core.takeMsg_xnext _ _ _ _
  · rfl
@[simp] theorem Core.wake_jnext (c : Core) (no : Nat) (h : Core → Sleep → Bool) : (c.wake no h).jnext = c.jnext := by
  unfold Core.wake; refine Core.foldl_keeps _ (·.jnext) (fun c i => ?_) _ _; split <;> try rfl
  split <;> try rfl
  split
  · exact Core.takeMsg_jnext _ _ _ _
  · rfl
@[simp] theorem Core.wake_xout (c : Core) (no : Nat) (h : Core → Sleep → Bool) : (c.wake no h).xout = c.xout := by
  unfold Core.wake; refine Core.foldl_keeps _ (·.xout) (fun c i => ?_) _ _; split <;> try rfl
  split <;> try rfl
  split
  · exact Core.takeMsg_xout _ _ _ _
  · rfl
@[simp] theorem Core.wake_jout (c : Core) (no : Nat) (h : Core → Sleep → Bool) : (c.wake no h).jout = c.jout := by
  unfold Core.wake; refine Core.foldl_keeps _ (·.jout) (fun c i => ?_) _ _; split <;> try rfl
  split <;> try rfl
  split
  · exact Core.takeMsg_jout _ _ _ _
  · rfl
@[simp] theorem Core.wake_hold (c : Core) (no : Nat) (h : Core → Sleep → Bool) : (c.wake no h).hold = c.hold := by
  unfold Core.wake; refine Core.foldl_keeps _ (·.hold) (fun c i => ?_) _ _; split <;> try rfl
  split <;> try rfl
  split
  · exact Core.takeMsg_hold _ _ _ _
  · rfl
@[simp] theorem Core.wake_report (c : Core) (no : Nat) (h : Core → Sleep → Bool) : (c.wake no h).report = c.report := by
  unfold Core.wake; refine Core.foldl_keeps _ (·.report) (fun c i => ?_) _ _; split <;> try rfl
  split <;> try rfl
  split
  · exact Core.takeMsg_report _ _ _ _
  · rfl
@[simp] theorem Core.wake_returned (c : Core) (no : Nat) (h : Core → Sleep → Bool) : (c.wake no h).returned = c.returned := by
  unfold Core.wake; refine Core.foldl_keeps _ (·.returned) (fun c i => ?_) _ _; split <;> try rfl
  split <;> try rfl
  split
  · exact Core.takeMsg_returned _ _ _ _
  · rfl
@[simp] theorem Core.wake_ord (c : Core) (no : Nat) (h : Core → Sleep → Bool) : (c.wake no h).ord = c.ord := by
  unfold Core.wake; refine Core.foldl_keeps _ (·.ord) (fun c i => ?_) _ _; split <;> try rfl
  split <;> try rfl
  split
  · exact Core.takeMsg_ord _ _ _ _
  · rfl
@[simp] theorem Core.wake_ready (c : Core) (no : Nat) (h : Core → Sleep → Bool) : (c.wake no h).ready = c.ready := by
  unfold Core.wake; refine Core.foldl_keeps _ (·.ready) (fun c i => ?_) _ _; split <;> try rfl
  split <;> try rfl
  split
  · exact Core.takeMsg_ready _ _ _ _
  · rfl
@[simp] theorem Core.wake_msgBank (c : Core) (no : Nat) (h : Core → Sleep → Bool) : (c.wake no h).msgBank = c.msgBank := by
  unfold Core.wake; refine Core.foldl_keeps _ (·.msgBank) (fun c i => ?_) _ _; split <;> try rfl
  split <;> try rfl
  split
  · exact Core.takeMsg_msgBank _ _ _ _
  · rfl
@[simp] theorem Core.store_cid (c : Core) (off : Nat) (bs : List Byte) : (c.store off bs).cid = c.cid := by
  unfold Core.store wakeLm; simp
@[simp] theorem Core.store_g (c : Core) (off : Nat) (bs : List Byte) : (c.store off bs).g = c.g := by
  unfold Core.store wakeLm; simp
@[simp] theorem Core.store_obj (c : Core) (off : Nat) (bs : List Byte) : (c.store off bs).obj = c.obj := by
  unfold Core.store wakeLm; simp
@[simp] theorem Core.store_off (c : Core) (off : Nat) (bs : List Byte) : (c.store off bs).off = c.off := by
  unfold Core.store wakeLm; simp
@[simp] theorem Core.store_st (c : Core) (off : Nat) (bs : List Byte) : (c.store off bs).st = c.st := by
  unfold Core.store wakeLm; simp
@[simp] theorem Core.store_wid (c : Core) (off : Nat) (bs : List Byte) : (c.store off bs).wid = c.wid := by
  unfold Core.store wakeLm; simp
@[simp] theorem Core.store_htop (c : Core) (off : Nat) (bs : List Byte) : (c.store off bs).htop = c.htop := by
  unfold Core.store wakeLm; simp
@[simp] theorem Core.store_v (c : Core) (off : Nat) (bs : List Byte) : (c.store off bs).v = c.v := by
  unfold Core.store wakeLm; simp
@[simp] theorem Core.store_k (c : Core) (off : Nat) (bs : List Byte) : (c.store off bs).k = c.k := by
  unfold Core.store wakeLm; simp
@[simp] theorem Core.store_budget (c : Core) (off : Nat) (bs : List Byte) : (c.store off bs).budget = c.budget := by
  unfold Core.store wakeLm; simp
@[simp] theorem Core.store_lmret (c : Core) (off : Nat) (bs : List Byte) : (c.store off bs).lmret = c.lmret := by
  unfold Core.store wakeLm; simp
@[simp] theorem Core.store_ba0 (c : Core) (off : Nat) (bs : List Byte) : (c.store off bs).ba0 = c.ba0 := by
  unfold Core.store wakeLm; simp
@[simp] theorem Core.store_ba1 (c : Core) (off : Nat) (bs : List Byte) : (c.store off bs).ba1 = c.ba1 := by
  unfold Core.store wakeLm; simp
@[simp] theorem Core.store_cyc (c : Core) (off : Nat) (bs : List Byte) : (c.store off bs).cyc = c.cyc := by
  unfold Core.store wakeLm; simp
@[simp] theorem Core.store_xfid (c : Core) (off : Nat) (bs : List Byte) : (c.store off bs).xfid = c.xfid := by
  unfold Core.store wakeLm; simp
@[simp] theorem Core.store_jobid (c : Core) (off : Nat) (bs : List Byte) : (c.store off bs).jobid = c.jobid := by
  unfold Core.store wakeLm; simp
@[simp] theorem Core.store_cpsrc (c : Core) (off : Nat) (bs : List Byte) : (c.store off bs).cpsrc = c.cpsrc := by
  unfold Core.store wakeLm; simp
@[simp] theorem Core.store_cpdst (c : Core) (off : Nat) (bs : List Byte) : (c.store off bs).cpdst = c.cpdst := by
  unfold Core.store wakeLm; simp
@[simp] theorem Core.store_cplen (c : Core) (off : Nat) (bs : List Byte) : (c.store off bs).cplen = c.cplen := by
  unfold Core.store wakeLm; simp
@[simp] theorem Core.store_cpstrs (c : Core) (off : Nat) (bs : List Byte) : (c.store off bs).cpstrs = c.cpstrs := by
  unfold Core.store wakeLm; simp
@[simp] theorem Core.store_cpstrd (c : Core) (off : Nat) (bs : List Byte) : (c.store off bs).cpstrd = c.cpstrd := by
  unfold Core.store wakeLm; simp
@[simp] theorem Core.store_cpcnt (c : Core) (off : Nat) (bs : List Byte) : (c.store off bs).cpcnt = c.cpcnt := by
  unfold Core.store wakeLm; simp
@[simp] theorem Core.store_cphdl (c : Core) (off : Nat) (bs : List Byte) : (c.store off bs).cphdl = c.cphdl := by
  unfold Core.store wakeLm; simp
@[simp] theorem Core.store_clg (c : Core) (off : Nat) (bs : List Byte) : (c.store off bs).clg = c.clg := by
  unfold Core.store wakeLm; simp
@[simp] theorem Core.store_q (c : Core) (off : Nat) (bs : List Byte) : (c.store off bs).q = c.q := by
  unfold Core.store wakeLm; simp
@[simp] theorem Core.store_bankOff (c : Core) (off : Nat) (bs : List Byte) : (c.store off bs).bankOff = c.bankOff := by
  unfold Core.store wakeLm; simp
@[simp] theorem Core.store_stint (c : Core) (off : Nat) (bs : List Byte) : (c.store off bs).stint = c.stint := by
  unfold Core.store wakeLm; simp
@[simp] theorem Core.store_wait (c : Core) (off : Nat) (bs : List Byte) : (c.store off bs).wait = c.wait := by
  unfold Core.store wakeLm; simp
@[simp] theorem Core.store_ob (c : Core) (off : Nat) (bs : List Byte) : (c.store off bs).ob = c.ob := by
  unfold Core.store wakeLm; simp
@[simp] theorem Core.store_ct (c : Core) (off : Nat) (bs : List Byte) : (c.store off bs).ct = c.ct := by
  unfold Core.store wakeLm; simp
@[simp] theorem Core.store_mq (c : Core) (off : Nat) (bs : List Byte) : (c.store off bs).mq = c.mq := by
  unfold Core.store wakeLm; simp
@[simp] theorem Core.store_back (c : Core) (off : Nat) (bs : List Byte) : (c.store off bs).back = c.back := by
  unfold Core.store wakeLm; simp
@[simp] theorem Core.store_parked (c : Core) (off : Nat) (bs : List Byte) : (c.store off bs).parked = c.parked := by
  unfold Core.store wakeLm; simp
@[simp] theorem Core.store_frames (c : Core) (off : Nat) (bs : List Byte) : (c.store off bs).frames = c.frames := by
  unfold Core.store wakeLm; simp
@[simp] theorem Core.store_retain (c : Core) (off : Nat) (bs : List Byte) : (c.store off bs).retain = c.retain := by
  unfold Core.store wakeLm; simp
@[simp] theorem Core.store_view (c : Core) (off : Nat) (bs : List Byte) : (c.store off bs).view = c.view := by
  unfold Core.store wakeLm; simp
@[simp] theorem Core.store_job (c : Core) (off : Nat) (bs : List Byte) : (c.store off bs).job = c.job := by
  unfold Core.store wakeLm; simp
@[simp] theorem Core.store_xnext (c : Core) (off : Nat) (bs : List Byte) : (c.store off bs).xnext = c.xnext := by
  unfold Core.store wakeLm; simp
@[simp] theorem Core.store_jnext (c : Core) (off : Nat) (bs : List Byte) : (c.store off bs).jnext = c.jnext := by
  unfold Core.store wakeLm; simp
@[simp] theorem Core.store_xout (c : Core) (off : Nat) (bs : List Byte) : (c.store off bs).xout = c.xout := by
  unfold Core.store wakeLm; simp
@[simp] theorem Core.store_jout (c : Core) (off : Nat) (bs : List Byte) : (c.store off bs).jout = c.jout := by
  unfold Core.store wakeLm; simp
@[simp] theorem Core.store_hold (c : Core) (off : Nat) (bs : List Byte) : (c.store off bs).hold = c.hold := by
  unfold Core.store wakeLm; simp
@[simp] theorem Core.store_report (c : Core) (off : Nat) (bs : List Byte) : (c.store off bs).report = c.report := by
  unfold Core.store wakeLm; simp
@[simp] theorem Core.store_returned (c : Core) (off : Nat) (bs : List Byte) : (c.store off bs).returned = c.returned := by
  unfold Core.store wakeLm; simp
@[simp] theorem Core.store_ord (c : Core) (off : Nat) (bs : List Byte) : (c.store off bs).ord = c.ord := by
  unfold Core.store wakeLm; simp
@[simp] theorem Core.store_ready (c : Core) (off : Nat) (bs : List Byte) : (c.store off bs).ready = c.ready := by
  unfold Core.store wakeLm; simp
@[simp] theorem Core.store_msgBank (c : Core) (off : Nat) (bs : List Byte) : (c.store off bs).msgBank = c.msgBank := by
  unfold Core.store wakeLm; simp
@[simp] theorem Core.store_lm (c : Core) (off : Nat) (bs : List Byte) : (c.store off bs).lm = c.lm.write off bs := by
  unfold Core.store wakeLm; simp
@[simp] theorem Core.store_lmErr (c : Core) (off : Nat) (bs : List Byte) : (c.store off bs).lmErr = clearErr c.lmErr off bs.length := by
  unfold Core.store wakeLm; simp

/-! Going idle, and the end of a stint (R34, R35). -/

@[simp] theorem Core.goIdle_cid (c : Core) : (c.goIdle).cid = c.cid := by unfold Core.goIdle; split <;> rfl
@[simp] theorem Core.goIdle_g (c : Core) : (c.goIdle).g = c.g := by unfold Core.goIdle; split <;> rfl
@[simp] theorem Core.goIdle_obj (c : Core) : (c.goIdle).obj = c.obj := by unfold Core.goIdle; split <;> rfl
@[simp] theorem Core.goIdle_off (c : Core) : (c.goIdle).off = c.off := by unfold Core.goIdle; split <;> rfl
@[simp] theorem Core.goIdle_st (c : Core) : (c.goIdle).st = c.st := by unfold Core.goIdle; split <;> rfl
@[simp] theorem Core.goIdle_wid (c : Core) : (c.goIdle).wid = c.wid := by unfold Core.goIdle; split <;> rfl
@[simp] theorem Core.goIdle_htop (c : Core) : (c.goIdle).htop = c.htop := by unfold Core.goIdle; split <;> rfl
@[simp] theorem Core.goIdle_v (c : Core) : (c.goIdle).v = c.v := by unfold Core.goIdle; split <;> rfl
@[simp] theorem Core.goIdle_k (c : Core) : (c.goIdle).k = c.k := by unfold Core.goIdle; split <;> rfl
@[simp] theorem Core.goIdle_budget (c : Core) : (c.goIdle).budget = c.budget := by unfold Core.goIdle; split <;> rfl
@[simp] theorem Core.goIdle_lmret (c : Core) : (c.goIdle).lmret = c.lmret := by unfold Core.goIdle; split <;> rfl
@[simp] theorem Core.goIdle_ba0 (c : Core) : (c.goIdle).ba0 = c.ba0 := by unfold Core.goIdle; split <;> rfl
@[simp] theorem Core.goIdle_ba1 (c : Core) : (c.goIdle).ba1 = c.ba1 := by unfold Core.goIdle; split <;> rfl
@[simp] theorem Core.goIdle_cyc (c : Core) : (c.goIdle).cyc = c.cyc := by unfold Core.goIdle; split <;> rfl
@[simp] theorem Core.goIdle_xfid (c : Core) : (c.goIdle).xfid = c.xfid := by unfold Core.goIdle; split <;> rfl
@[simp] theorem Core.goIdle_jobid (c : Core) : (c.goIdle).jobid = c.jobid := by unfold Core.goIdle; split <;> rfl
@[simp] theorem Core.goIdle_cpsrc (c : Core) : (c.goIdle).cpsrc = c.cpsrc := by unfold Core.goIdle; split <;> rfl
@[simp] theorem Core.goIdle_cpdst (c : Core) : (c.goIdle).cpdst = c.cpdst := by unfold Core.goIdle; split <;> rfl
@[simp] theorem Core.goIdle_cplen (c : Core) : (c.goIdle).cplen = c.cplen := by unfold Core.goIdle; split <;> rfl
@[simp] theorem Core.goIdle_cpstrs (c : Core) : (c.goIdle).cpstrs = c.cpstrs := by unfold Core.goIdle; split <;> rfl
@[simp] theorem Core.goIdle_cpstrd (c : Core) : (c.goIdle).cpstrd = c.cpstrd := by unfold Core.goIdle; split <;> rfl
@[simp] theorem Core.goIdle_cpcnt (c : Core) : (c.goIdle).cpcnt = c.cpcnt := by unfold Core.goIdle; split <;> rfl
@[simp] theorem Core.goIdle_cphdl (c : Core) : (c.goIdle).cphdl = c.cphdl := by unfold Core.goIdle; split <;> rfl
@[simp] theorem Core.goIdle_clg (c : Core) : (c.goIdle).clg = c.clg := by unfold Core.goIdle; split <;> rfl
@[simp] theorem Core.goIdle_q (c : Core) : (c.goIdle).q = c.q := by unfold Core.goIdle; split <;> rfl
@[simp] theorem Core.goIdle_stint (c : Core) : (c.goIdle).stint = c.stint := by unfold Core.goIdle; split <;> rfl
@[simp] theorem Core.goIdle_wait (c : Core) : (c.goIdle).wait = c.wait := by unfold Core.goIdle; split <;> rfl
@[simp] theorem Core.goIdle_ob (c : Core) : (c.goIdle).ob = c.ob := by unfold Core.goIdle; split <;> rfl
@[simp] theorem Core.goIdle_ct (c : Core) : (c.goIdle).ct = c.ct := by unfold Core.goIdle; split <;> rfl
@[simp] theorem Core.goIdle_mq (c : Core) : (c.goIdle).mq = c.mq := by unfold Core.goIdle; split <;> rfl
@[simp] theorem Core.goIdle_runq (c : Core) : (c.goIdle).runq = c.runq := by unfold Core.goIdle; split <;> rfl
@[simp] theorem Core.goIdle_back (c : Core) : (c.goIdle).back = c.back := by unfold Core.goIdle; split <;> rfl
@[simp] theorem Core.goIdle_parked (c : Core) : (c.goIdle).parked = c.parked := by unfold Core.goIdle; split <;> rfl
@[simp] theorem Core.goIdle_late (c : Core) : (c.goIdle).late = c.late := by unfold Core.goIdle; split <;> rfl
@[simp] theorem Core.goIdle_slab (c : Core) : (c.goIdle).slab = c.slab := by unfold Core.goIdle; split <;> rfl
@[simp] theorem Core.goIdle_frames (c : Core) : (c.goIdle).frames = c.frames := by unfold Core.goIdle; split <;> rfl
@[simp] theorem Core.goIdle_retain (c : Core) : (c.goIdle).retain = c.retain := by unfold Core.goIdle; split <;> rfl
@[simp] theorem Core.goIdle_view (c : Core) : (c.goIdle).view = c.view := by unfold Core.goIdle; split <;> rfl
@[simp] theorem Core.goIdle_job (c : Core) : (c.goIdle).job = c.job := by unfold Core.goIdle; split <;> rfl
@[simp] theorem Core.goIdle_xnext (c : Core) : (c.goIdle).xnext = c.xnext := by unfold Core.goIdle; split <;> rfl
@[simp] theorem Core.goIdle_jnext (c : Core) : (c.goIdle).jnext = c.jnext := by unfold Core.goIdle; split <;> rfl
@[simp] theorem Core.goIdle_xout (c : Core) : (c.goIdle).xout = c.xout := by unfold Core.goIdle; split <;> rfl
@[simp] theorem Core.goIdle_jout (c : Core) : (c.goIdle).jout = c.jout := by unfold Core.goIdle; split <;> rfl
@[simp] theorem Core.goIdle_counts (c : Core) : (c.goIdle).counts = c.counts := by unfold Core.goIdle; split <;> rfl
@[simp] theorem Core.goIdle_hold (c : Core) : (c.goIdle).hold = c.hold := by unfold Core.goIdle; split <;> rfl
@[simp] theorem Core.goIdle_report (c : Core) : (c.goIdle).report = c.report := by unfold Core.goIdle; split <;> rfl
@[simp] theorem Core.goIdle_returned (c : Core) : (c.goIdle).returned = c.returned := by unfold Core.goIdle; split <;> rfl
@[simp] theorem Core.goIdle_ord (c : Core) : (c.goIdle).ord = c.ord := by unfold Core.goIdle; split <;> rfl
@[simp] theorem Core.goIdle_ready (c : Core) : (c.goIdle).ready = c.ready := by unfold Core.goIdle; split <;> rfl
@[simp] theorem Core.goIdle_msgBank (c : Core) : (c.goIdle).msgBank = c.msgBank := by unfold Core.goIdle; split <;> rfl
@[simp] theorem Core.endStint_cid (c : Core) : (c.endStint).cid = c.cid := by simp [Core.endStint]
@[simp] theorem Core.endStint_g (c : Core) : (c.endStint).g = c.g := by simp [Core.endStint]
@[simp] theorem Core.endStint_obj (c : Core) : (c.endStint).obj = c.obj := by simp [Core.endStint]
@[simp] theorem Core.endStint_off (c : Core) : (c.endStint).off = c.off := by simp [Core.endStint]
@[simp] theorem Core.endStint_st (c : Core) : (c.endStint).st = c.st := by simp [Core.endStint]
@[simp] theorem Core.endStint_wid (c : Core) : (c.endStint).wid = c.wid := by simp [Core.endStint]
@[simp] theorem Core.endStint_htop (c : Core) : (c.endStint).htop = c.htop := by simp [Core.endStint]
@[simp] theorem Core.endStint_v (c : Core) : (c.endStint).v = c.v := by simp [Core.endStint]
@[simp] theorem Core.endStint_k (c : Core) : (c.endStint).k = c.k := by simp [Core.endStint]
@[simp] theorem Core.endStint_budget (c : Core) : (c.endStint).budget = c.budget := by simp [Core.endStint]
@[simp] theorem Core.endStint_lmret (c : Core) : (c.endStint).lmret = c.lmret := by simp [Core.endStint]
@[simp] theorem Core.endStint_ba0 (c : Core) : (c.endStint).ba0 = c.ba0 := by simp [Core.endStint]
@[simp] theorem Core.endStint_ba1 (c : Core) : (c.endStint).ba1 = c.ba1 := by simp [Core.endStint]
@[simp] theorem Core.endStint_cyc (c : Core) : (c.endStint).cyc = c.cyc := by simp [Core.endStint]
@[simp] theorem Core.endStint_xfid (c : Core) : (c.endStint).xfid = c.xfid := by simp [Core.endStint]
@[simp] theorem Core.endStint_jobid (c : Core) : (c.endStint).jobid = c.jobid := by simp [Core.endStint]
@[simp] theorem Core.endStint_cpsrc (c : Core) : (c.endStint).cpsrc = c.cpsrc := by simp [Core.endStint]
@[simp] theorem Core.endStint_cpdst (c : Core) : (c.endStint).cpdst = c.cpdst := by simp [Core.endStint]
@[simp] theorem Core.endStint_cplen (c : Core) : (c.endStint).cplen = c.cplen := by simp [Core.endStint]
@[simp] theorem Core.endStint_cpstrs (c : Core) : (c.endStint).cpstrs = c.cpstrs := by simp [Core.endStint]
@[simp] theorem Core.endStint_cpstrd (c : Core) : (c.endStint).cpstrd = c.cpstrd := by simp [Core.endStint]
@[simp] theorem Core.endStint_cpcnt (c : Core) : (c.endStint).cpcnt = c.cpcnt := by simp [Core.endStint]
@[simp] theorem Core.endStint_cphdl (c : Core) : (c.endStint).cphdl = c.cphdl := by simp [Core.endStint]
@[simp] theorem Core.endStint_clg (c : Core) : (c.endStint).clg = c.clg := by simp [Core.endStint]
@[simp] theorem Core.endStint_q (c : Core) : (c.endStint).q = c.q := by simp [Core.endStint]
@[simp] theorem Core.endStint_wait (c : Core) : (c.endStint).wait = c.wait := by simp [Core.endStint]
@[simp] theorem Core.endStint_mq (c : Core) : (c.endStint).mq = c.mq := by simp [Core.endStint]
@[simp] theorem Core.endStint_runq (c : Core) : (c.endStint).runq = c.runq := by simp [Core.endStint]
@[simp] theorem Core.endStint_back (c : Core) : (c.endStint).back = c.back := by simp [Core.endStint]
@[simp] theorem Core.endStint_parked (c : Core) : (c.endStint).parked = c.parked := by simp [Core.endStint]
@[simp] theorem Core.endStint_late (c : Core) : (c.endStint).late = c.late := by simp [Core.endStint]
@[simp] theorem Core.endStint_slab (c : Core) : (c.endStint).slab = c.slab := by simp [Core.endStint]
@[simp] theorem Core.endStint_frames (c : Core) : (c.endStint).frames = c.frames := by simp [Core.endStint]
@[simp] theorem Core.endStint_retain (c : Core) : (c.endStint).retain = c.retain := by simp [Core.endStint]
@[simp] theorem Core.endStint_view (c : Core) : (c.endStint).view = c.view := by simp [Core.endStint]
@[simp] theorem Core.endStint_job (c : Core) : (c.endStint).job = c.job := by simp [Core.endStint]
@[simp] theorem Core.endStint_xnext (c : Core) : (c.endStint).xnext = c.xnext := by simp [Core.endStint]
@[simp] theorem Core.endStint_jnext (c : Core) : (c.endStint).jnext = c.jnext := by simp [Core.endStint]
@[simp] theorem Core.endStint_xout (c : Core) : (c.endStint).xout = c.xout := by simp [Core.endStint]
@[simp] theorem Core.endStint_jout (c : Core) : (c.endStint).jout = c.jout := by simp [Core.endStint]
@[simp] theorem Core.endStint_hold (c : Core) : (c.endStint).hold = c.hold := by simp [Core.endStint]
@[simp] theorem Core.endStint_report (c : Core) : (c.endStint).report = c.report := by simp [Core.endStint]
@[simp] theorem Core.endStint_returned (c : Core) : (c.endStint).returned = c.returned := by simp [Core.endStint]
@[simp] theorem Core.endStint_ord (c : Core) : (c.endStint).ord = c.ord := by simp [Core.endStint]
@[simp] theorem Core.endStint_ready (c : Core) : (c.endStint).ready = c.ready := by simp [Core.endStint]
@[simp] theorem Core.endStint_msgBank (c : Core) : (c.endStint).msgBank = c.msgBank := by simp [Core.endStint]
@[simp] theorem Core.endStint_ct (c : Core) : c.endStint.ct = c.ct ++ c.ob := by simp [Core.endStint]
@[simp] theorem Core.endStint_ob (c : Core) : c.endStint.ob = [] := by simp [Core.endStint]
@[simp] theorem Core.endStint_stint (c : Core) : c.endStint.stint = none := by simp [Core.endStint]

/-! A plot changes in one list. -/

@[simp] theorem Plot.modCore_pid (p : Plot) (i : Nat) (f : Core → Core) : (p.modCore i f).pid = p.pid := rfl
@[simp] theorem Plot.modCore_vf (p : Plot) (i : Nat) (f : Core → Core) : (p.modCore i f).vf = p.vf := rfl
@[simp] theorem Plot.modCore_tiles (p : Plot) (i : Nat) (f : Core → Core) : (p.modCore i f).tiles = p.tiles := rfl
@[simp] theorem Plot.modCore_mxes (p : Plot) (i : Nat) (f : Core → Core) : (p.modCore i f).mxes = p.mxes := rfl
@[simp] theorem Plot.modCore_memsz (p : Plot) (i : Nat) (f : Core → Core) : (p.modCore i f).memsz = p.memsz := rfl
@[simp] theorem Plot.modCore_job (p : Plot) (i : Nat) (f : Core → Core) : (p.modCore i f).job = p.job := rfl
@[simp] theorem Plot.modCore_mem (p : Plot) (i : Nat) (f : Core → Core) : (p.modCore i f).mem = p.mem := rfl
@[simp] theorem Plot.modCore_memErr (p : Plot) (i : Nat) (f : Core → Core) : (p.modCore i f).memErr = p.memErr := rfl
@[simp] theorem Plot.modCore_ptroot (p : Plot) (i : Nat) (f : Core → Core) : (p.modCore i f).ptroot = p.ptroot := rfl
@[simp] theorem Plot.modCore_ptrootEff (p : Plot) (i : Nat) (f : Core → Core) : (p.modCore i f).ptrootEff = p.ptrootEff := rfl
@[simp] theorem Plot.modCore_tlbinv (p : Plot) (i : Nat) (f : Core → Core) : (p.modCore i f).tlbinv = p.tlbinv := rfl
@[simp] theorem Plot.modCore_objs (p : Plot) (i : Nat) (f : Core → Core) : (p.modCore i f).objs = p.objs := rfl
@[simp] theorem Plot.modCore_mailbox (p : Plot) (i : Nat) (f : Core → Core) : (p.modCore i f).mailbox = p.mailbox := rfl
@[simp] theorem Plot.modCore_launches (p : Plot) (i : Nat) (f : Core → Core) : (p.modCore i f).launches = p.launches := rfl
@[simp] theorem Plot.modCore_nextLid (p : Plot) (i : Nat) (f : Core → Core) : (p.modCore i f).nextLid = p.nextLid := rfl
@[simp] theorem Plot.modCore_paths (p : Plot) (i : Nat) (f : Core → Core) : (p.modCore i f).paths = p.paths := rfl
@[simp] theorem Plot.modCore_wq (p : Plot) (i : Nat) (f : Core → Core) : (p.modCore i f).wq = p.wq := rfl
@[simp] theorem Plot.modCore_flights (p : Plot) (i : Nat) (f : Core → Core) : (p.modCore i f).flights = p.flights := rfl
@[simp] theorem Plot.modCore_spawns (p : Plot) (i : Nat) (f : Core → Core) : (p.modCore i f).spawns = p.spawns := rfl
@[simp] theorem Plot.modCore_copies (p : Plot) (i : Nat) (f : Core → Core) : (p.modCore i f).copies = p.copies := rfl
@[simp] theorem Plot.modCore_etries (p : Plot) (i : Nat) (f : Core → Core) : (p.modCore i f).etries = p.etries := rfl
@[simp] theorem Plot.modCore_rtries (p : Plot) (i : Nat) (f : Core → Core) : (p.modCore i f).rtries = p.rtries := rfl
@[simp] theorem Plot.modCore_regions (p : Plot) (i : Nat) (f : Core → Core) : (p.modCore i f).regions = p.regions := rfl
@[simp] theorem Plot.modCore_furrows (p : Plot) (i : Nat) (f : Core → Core) : (p.modCore i f).furrows = p.furrows := rfl
@[simp] theorem Plot.modCore_floors (p : Plot) (i : Nat) (f : Core → Core) : (p.modCore i f).floors = p.floors := rfl
@[simp] theorem Plot.modCore_waiters (p : Plot) (i : Nat) (f : Core → Core) : (p.modCore i f).waiters = p.waiters := rfl
@[simp] theorem Plot.modCore_tseq (p : Plot) (i : Nat) (f : Core → Core) : (p.modCore i f).tseq = p.tseq := rfl
@[simp] theorem Plot.modCore_pool (p : Plot) (i : Nat) (f : Core → Core) : (p.modCore i f).pool = p.pool := rfl
@[simp] theorem Plot.modCore_wshare (p : Plot) (i : Nat) (f : Core → Core) : (p.modCore i f).wshare = p.wshare := rfl
@[simp] theorem Plot.modCore_groups (p : Plot) (i : Nat) (f : Core → Core) : (p.modCore i f).groups = p.groups := rfl
@[simp] theorem Plot.modCore_claims (p : Plot) (i : Nat) (f : Core → Core) : (p.modCore i f).claims = p.claims := rfl
@[simp] theorem Plot.modCore_plane (p : Plot) (i : Nat) (f : Core → Core) : (p.modCore i f).plane = p.plane := rfl
@[simp] theorem Plot.modCore_cut (p : Plot) (i : Nat) (f : Core → Core) : (p.modCore i f).cut = p.cut := rfl
@[simp] theorem Plot.modCore_hqs (p : Plot) (i : Nat) (f : Core → Core) : (p.modCore i f).hqs = p.hqs := rfl
@[simp] theorem Plot.modCore_link (p : Plot) (i : Nat) (f : Core → Core) : (p.modCore i f).link = p.link := rfl
@[simp] theorem Plot.modCore_hqIn (p : Plot) (i : Nat) (f : Core → Core) : (p.modCore i f).hqIn = p.hqIn := rfl
@[simp] theorem Plot.modCore_park (p : Plot) (i : Nat) (f : Core → Core) : (p.modCore i f).park = p.park := rfl
@[simp] theorem Plot.modCore_parkLost (p : Plot) (i : Nat) (f : Core → Core) : (p.modCore i f).parkLost = p.parkLost := rfl
@[simp] theorem Plot.modCore_fabric (p : Plot) (i : Nat) (f : Core → Core) : (p.modCore i f).fabric = p.fabric := rfl
@[simp] theorem Plot.modCore_pfqBase (p : Plot) (i : Nat) (f : Core → Core) : (p.modCore i f).pfqBase = p.pfqBase := rfl
@[simp] theorem Plot.modCore_pfqPi (p : Plot) (i : Nat) (f : Core → Core) : (p.modCore i f).pfqPi = p.pfqPi := rfl
@[simp] theorem Plot.modCore_pfqCi (p : Plot) (i : Nat) (f : Core → Core) : (p.modCore i f).pfqCi = p.pfqCi := rfl
@[simp] theorem Plot.modCore_collIn (p : Plot) (i : Nat) (f : Core → Core) : (p.modCore i f).collIn = p.collIn := rfl
@[simp] theorem Plot.modCore_collReqs (p : Plot) (i : Nat) (f : Core → Core) : (p.modCore i f).collReqs = p.collReqs := rfl
@[simp] theorem Plot.modCore_swshare (p : Plot) (i : Nat) (f : Core → Core) : (p.modCore i f).swshare = p.swshare := rfl
@[simp] theorem Plot.modCore_eteShare (p : Plot) (i : Nat) (f : Core → Core) : (p.modCore i f).eteShare = p.eteShare := rfl
@[simp] theorem Plot.modCore_susp (p : Plot) (i : Nat) (f : Core → Core) : (p.modCore i f).susp = p.susp := rfl
@[simp] theorem Plot.modCore_image (p : Plot) (i : Nat) (f : Core → Core) : (p.modCore i f).image = p.image := rfl
@[simp] theorem Plot.modCore_errlog (p : Plot) (i : Nat) (f : Core → Core) : (p.modCore i f).errlog = p.errlog := rfl
@[simp] theorem Plot.modCore_errs (p : Plot) (i : Nat) (f : Core → Core) : (p.modCore i f).errs = p.errs := rfl
@[simp] theorem Plot.modCore_msix (p : Plot) (i : Nat) (f : Core → Core) : (p.modCore i f).msix = p.msix := rfl
@[simp] theorem Plot.modCore_enqs (p : Plot) (i : Nat) (f : Core → Core) : (p.modCore i f).enqs = p.enqs := rfl
@[simp] theorem Plot.modCore_roots (p : Plot) (i : Nat) (f : Core → Core) : (p.modCore i f).roots = p.roots := rfl
@[simp] theorem Plot.modCore_sweepAt (p : Plot) (i : Nat) (f : Core → Core) : (p.modCore i f).sweepAt = p.sweepAt := rfl
@[simp] theorem Plot.modCore_parkHold (p : Plot) (i : Nat) (f : Core → Core) : (p.modCore i f).parkHold = p.parkHold := rfl
@[simp] theorem Plot.modCore_codeErr (p : Plot) (i : Nat) (f : Core → Core) : (p.modCore i f).codeErr = p.codeErr := rfl
@[simp] theorem Plot.modCore_torn (p : Plot) (i : Nat) (f : Core → Core) : (p.modCore i f).torn = p.torn := rfl
@[simp] theorem Plot.modCore_debug (p : Plot) (i : Nat) (f : Core → Core) : (p.modCore i f).debug = p.debug := rfl
@[simp] theorem Plot.modCore_dropping (p : Plot) (i : Nat) (f : Core → Core) : (p.modCore i f).dropping = p.dropping := rfl
@[simp] theorem Plot.modCore_away (p : Plot) (i : Nat) (f : Core → Core) : (p.modCore i f).away = p.away := rfl
@[simp] theorem Plot.modTile_pid (p : Plot) (i : Nat) (f : Tile → Tile) : (p.modTile i f).pid = p.pid := rfl
@[simp] theorem Plot.modTile_vf (p : Plot) (i : Nat) (f : Tile → Tile) : (p.modTile i f).vf = p.vf := rfl
@[simp] theorem Plot.modTile_cores (p : Plot) (i : Nat) (f : Tile → Tile) : (p.modTile i f).cores = p.cores := rfl
@[simp] theorem Plot.modTile_mxes (p : Plot) (i : Nat) (f : Tile → Tile) : (p.modTile i f).mxes = p.mxes := rfl
@[simp] theorem Plot.modTile_memsz (p : Plot) (i : Nat) (f : Tile → Tile) : (p.modTile i f).memsz = p.memsz := rfl
@[simp] theorem Plot.modTile_job (p : Plot) (i : Nat) (f : Tile → Tile) : (p.modTile i f).job = p.job := rfl
@[simp] theorem Plot.modTile_mem (p : Plot) (i : Nat) (f : Tile → Tile) : (p.modTile i f).mem = p.mem := rfl
@[simp] theorem Plot.modTile_memErr (p : Plot) (i : Nat) (f : Tile → Tile) : (p.modTile i f).memErr = p.memErr := rfl
@[simp] theorem Plot.modTile_ptroot (p : Plot) (i : Nat) (f : Tile → Tile) : (p.modTile i f).ptroot = p.ptroot := rfl
@[simp] theorem Plot.modTile_ptrootEff (p : Plot) (i : Nat) (f : Tile → Tile) : (p.modTile i f).ptrootEff = p.ptrootEff := rfl
@[simp] theorem Plot.modTile_tlbinv (p : Plot) (i : Nat) (f : Tile → Tile) : (p.modTile i f).tlbinv = p.tlbinv := rfl
@[simp] theorem Plot.modTile_objs (p : Plot) (i : Nat) (f : Tile → Tile) : (p.modTile i f).objs = p.objs := rfl
@[simp] theorem Plot.modTile_mailbox (p : Plot) (i : Nat) (f : Tile → Tile) : (p.modTile i f).mailbox = p.mailbox := rfl
@[simp] theorem Plot.modTile_launches (p : Plot) (i : Nat) (f : Tile → Tile) : (p.modTile i f).launches = p.launches := rfl
@[simp] theorem Plot.modTile_nextLid (p : Plot) (i : Nat) (f : Tile → Tile) : (p.modTile i f).nextLid = p.nextLid := rfl
@[simp] theorem Plot.modTile_paths (p : Plot) (i : Nat) (f : Tile → Tile) : (p.modTile i f).paths = p.paths := rfl
@[simp] theorem Plot.modTile_wq (p : Plot) (i : Nat) (f : Tile → Tile) : (p.modTile i f).wq = p.wq := rfl
@[simp] theorem Plot.modTile_flights (p : Plot) (i : Nat) (f : Tile → Tile) : (p.modTile i f).flights = p.flights := rfl
@[simp] theorem Plot.modTile_spawns (p : Plot) (i : Nat) (f : Tile → Tile) : (p.modTile i f).spawns = p.spawns := rfl
@[simp] theorem Plot.modTile_copies (p : Plot) (i : Nat) (f : Tile → Tile) : (p.modTile i f).copies = p.copies := rfl
@[simp] theorem Plot.modTile_etries (p : Plot) (i : Nat) (f : Tile → Tile) : (p.modTile i f).etries = p.etries := rfl
@[simp] theorem Plot.modTile_rtries (p : Plot) (i : Nat) (f : Tile → Tile) : (p.modTile i f).rtries = p.rtries := rfl
@[simp] theorem Plot.modTile_regions (p : Plot) (i : Nat) (f : Tile → Tile) : (p.modTile i f).regions = p.regions := rfl
@[simp] theorem Plot.modTile_furrows (p : Plot) (i : Nat) (f : Tile → Tile) : (p.modTile i f).furrows = p.furrows := rfl
@[simp] theorem Plot.modTile_floors (p : Plot) (i : Nat) (f : Tile → Tile) : (p.modTile i f).floors = p.floors := rfl
@[simp] theorem Plot.modTile_waiters (p : Plot) (i : Nat) (f : Tile → Tile) : (p.modTile i f).waiters = p.waiters := rfl
@[simp] theorem Plot.modTile_tseq (p : Plot) (i : Nat) (f : Tile → Tile) : (p.modTile i f).tseq = p.tseq := rfl
@[simp] theorem Plot.modTile_pool (p : Plot) (i : Nat) (f : Tile → Tile) : (p.modTile i f).pool = p.pool := rfl
@[simp] theorem Plot.modTile_wshare (p : Plot) (i : Nat) (f : Tile → Tile) : (p.modTile i f).wshare = p.wshare := rfl
@[simp] theorem Plot.modTile_groups (p : Plot) (i : Nat) (f : Tile → Tile) : (p.modTile i f).groups = p.groups := rfl
@[simp] theorem Plot.modTile_claims (p : Plot) (i : Nat) (f : Tile → Tile) : (p.modTile i f).claims = p.claims := rfl
@[simp] theorem Plot.modTile_plane (p : Plot) (i : Nat) (f : Tile → Tile) : (p.modTile i f).plane = p.plane := rfl
@[simp] theorem Plot.modTile_cut (p : Plot) (i : Nat) (f : Tile → Tile) : (p.modTile i f).cut = p.cut := rfl
@[simp] theorem Plot.modTile_hqs (p : Plot) (i : Nat) (f : Tile → Tile) : (p.modTile i f).hqs = p.hqs := rfl
@[simp] theorem Plot.modTile_link (p : Plot) (i : Nat) (f : Tile → Tile) : (p.modTile i f).link = p.link := rfl
@[simp] theorem Plot.modTile_hqIn (p : Plot) (i : Nat) (f : Tile → Tile) : (p.modTile i f).hqIn = p.hqIn := rfl
@[simp] theorem Plot.modTile_park (p : Plot) (i : Nat) (f : Tile → Tile) : (p.modTile i f).park = p.park := rfl
@[simp] theorem Plot.modTile_parkLost (p : Plot) (i : Nat) (f : Tile → Tile) : (p.modTile i f).parkLost = p.parkLost := rfl
@[simp] theorem Plot.modTile_fabric (p : Plot) (i : Nat) (f : Tile → Tile) : (p.modTile i f).fabric = p.fabric := rfl
@[simp] theorem Plot.modTile_pfqBase (p : Plot) (i : Nat) (f : Tile → Tile) : (p.modTile i f).pfqBase = p.pfqBase := rfl
@[simp] theorem Plot.modTile_pfqPi (p : Plot) (i : Nat) (f : Tile → Tile) : (p.modTile i f).pfqPi = p.pfqPi := rfl
@[simp] theorem Plot.modTile_pfqCi (p : Plot) (i : Nat) (f : Tile → Tile) : (p.modTile i f).pfqCi = p.pfqCi := rfl
@[simp] theorem Plot.modTile_collIn (p : Plot) (i : Nat) (f : Tile → Tile) : (p.modTile i f).collIn = p.collIn := rfl
@[simp] theorem Plot.modTile_collReqs (p : Plot) (i : Nat) (f : Tile → Tile) : (p.modTile i f).collReqs = p.collReqs := rfl
@[simp] theorem Plot.modTile_swshare (p : Plot) (i : Nat) (f : Tile → Tile) : (p.modTile i f).swshare = p.swshare := rfl
@[simp] theorem Plot.modTile_eteShare (p : Plot) (i : Nat) (f : Tile → Tile) : (p.modTile i f).eteShare = p.eteShare := rfl
@[simp] theorem Plot.modTile_susp (p : Plot) (i : Nat) (f : Tile → Tile) : (p.modTile i f).susp = p.susp := rfl
@[simp] theorem Plot.modTile_image (p : Plot) (i : Nat) (f : Tile → Tile) : (p.modTile i f).image = p.image := rfl
@[simp] theorem Plot.modTile_errlog (p : Plot) (i : Nat) (f : Tile → Tile) : (p.modTile i f).errlog = p.errlog := rfl
@[simp] theorem Plot.modTile_errs (p : Plot) (i : Nat) (f : Tile → Tile) : (p.modTile i f).errs = p.errs := rfl
@[simp] theorem Plot.modTile_msix (p : Plot) (i : Nat) (f : Tile → Tile) : (p.modTile i f).msix = p.msix := rfl
@[simp] theorem Plot.modTile_enqs (p : Plot) (i : Nat) (f : Tile → Tile) : (p.modTile i f).enqs = p.enqs := rfl
@[simp] theorem Plot.modTile_roots (p : Plot) (i : Nat) (f : Tile → Tile) : (p.modTile i f).roots = p.roots := rfl
@[simp] theorem Plot.modTile_sweepAt (p : Plot) (i : Nat) (f : Tile → Tile) : (p.modTile i f).sweepAt = p.sweepAt := rfl
@[simp] theorem Plot.modTile_parkHold (p : Plot) (i : Nat) (f : Tile → Tile) : (p.modTile i f).parkHold = p.parkHold := rfl
@[simp] theorem Plot.modTile_codeErr (p : Plot) (i : Nat) (f : Tile → Tile) : (p.modTile i f).codeErr = p.codeErr := rfl
@[simp] theorem Plot.modTile_torn (p : Plot) (i : Nat) (f : Tile → Tile) : (p.modTile i f).torn = p.torn := rfl
@[simp] theorem Plot.modTile_debug (p : Plot) (i : Nat) (f : Tile → Tile) : (p.modTile i f).debug = p.debug := rfl
@[simp] theorem Plot.modTile_dropping (p : Plot) (i : Nat) (f : Tile → Tile) : (p.modTile i f).dropping = p.dropping := rfl
@[simp] theorem Plot.modTile_away (p : Plot) (i : Nat) (f : Tile → Tile) : (p.modTile i f).away = p.away := rfl
@[simp] theorem Plot.modLaunch_pid (p : Plot) (l : Lid) (f : Launch → Launch) : (p.modLaunch l f).pid = p.pid := rfl
@[simp] theorem Plot.modLaunch_vf (p : Plot) (l : Lid) (f : Launch → Launch) : (p.modLaunch l f).vf = p.vf := rfl
@[simp] theorem Plot.modLaunch_tiles (p : Plot) (l : Lid) (f : Launch → Launch) : (p.modLaunch l f).tiles = p.tiles := rfl
@[simp] theorem Plot.modLaunch_cores (p : Plot) (l : Lid) (f : Launch → Launch) : (p.modLaunch l f).cores = p.cores := rfl
@[simp] theorem Plot.modLaunch_mxes (p : Plot) (l : Lid) (f : Launch → Launch) : (p.modLaunch l f).mxes = p.mxes := rfl
@[simp] theorem Plot.modLaunch_memsz (p : Plot) (l : Lid) (f : Launch → Launch) : (p.modLaunch l f).memsz = p.memsz := rfl
@[simp] theorem Plot.modLaunch_job (p : Plot) (l : Lid) (f : Launch → Launch) : (p.modLaunch l f).job = p.job := rfl
@[simp] theorem Plot.modLaunch_mem (p : Plot) (l : Lid) (f : Launch → Launch) : (p.modLaunch l f).mem = p.mem := rfl
@[simp] theorem Plot.modLaunch_memErr (p : Plot) (l : Lid) (f : Launch → Launch) : (p.modLaunch l f).memErr = p.memErr := rfl
@[simp] theorem Plot.modLaunch_ptroot (p : Plot) (l : Lid) (f : Launch → Launch) : (p.modLaunch l f).ptroot = p.ptroot := rfl
@[simp] theorem Plot.modLaunch_ptrootEff (p : Plot) (l : Lid) (f : Launch → Launch) : (p.modLaunch l f).ptrootEff = p.ptrootEff := rfl
@[simp] theorem Plot.modLaunch_tlbinv (p : Plot) (l : Lid) (f : Launch → Launch) : (p.modLaunch l f).tlbinv = p.tlbinv := rfl
@[simp] theorem Plot.modLaunch_objs (p : Plot) (l : Lid) (f : Launch → Launch) : (p.modLaunch l f).objs = p.objs := rfl
@[simp] theorem Plot.modLaunch_mailbox (p : Plot) (l : Lid) (f : Launch → Launch) : (p.modLaunch l f).mailbox = p.mailbox := rfl
@[simp] theorem Plot.modLaunch_nextLid (p : Plot) (l : Lid) (f : Launch → Launch) : (p.modLaunch l f).nextLid = p.nextLid := rfl
@[simp] theorem Plot.modLaunch_paths (p : Plot) (l : Lid) (f : Launch → Launch) : (p.modLaunch l f).paths = p.paths := rfl
@[simp] theorem Plot.modLaunch_wq (p : Plot) (l : Lid) (f : Launch → Launch) : (p.modLaunch l f).wq = p.wq := rfl
@[simp] theorem Plot.modLaunch_flights (p : Plot) (l : Lid) (f : Launch → Launch) : (p.modLaunch l f).flights = p.flights := rfl
@[simp] theorem Plot.modLaunch_spawns (p : Plot) (l : Lid) (f : Launch → Launch) : (p.modLaunch l f).spawns = p.spawns := rfl
@[simp] theorem Plot.modLaunch_copies (p : Plot) (l : Lid) (f : Launch → Launch) : (p.modLaunch l f).copies = p.copies := rfl
@[simp] theorem Plot.modLaunch_etries (p : Plot) (l : Lid) (f : Launch → Launch) : (p.modLaunch l f).etries = p.etries := rfl
@[simp] theorem Plot.modLaunch_rtries (p : Plot) (l : Lid) (f : Launch → Launch) : (p.modLaunch l f).rtries = p.rtries := rfl
@[simp] theorem Plot.modLaunch_regions (p : Plot) (l : Lid) (f : Launch → Launch) : (p.modLaunch l f).regions = p.regions := rfl
@[simp] theorem Plot.modLaunch_furrows (p : Plot) (l : Lid) (f : Launch → Launch) : (p.modLaunch l f).furrows = p.furrows := rfl
@[simp] theorem Plot.modLaunch_floors (p : Plot) (l : Lid) (f : Launch → Launch) : (p.modLaunch l f).floors = p.floors := rfl
@[simp] theorem Plot.modLaunch_waiters (p : Plot) (l : Lid) (f : Launch → Launch) : (p.modLaunch l f).waiters = p.waiters := rfl
@[simp] theorem Plot.modLaunch_tseq (p : Plot) (l : Lid) (f : Launch → Launch) : (p.modLaunch l f).tseq = p.tseq := rfl
@[simp] theorem Plot.modLaunch_pool (p : Plot) (l : Lid) (f : Launch → Launch) : (p.modLaunch l f).pool = p.pool := rfl
@[simp] theorem Plot.modLaunch_wshare (p : Plot) (l : Lid) (f : Launch → Launch) : (p.modLaunch l f).wshare = p.wshare := rfl
@[simp] theorem Plot.modLaunch_groups (p : Plot) (l : Lid) (f : Launch → Launch) : (p.modLaunch l f).groups = p.groups := rfl
@[simp] theorem Plot.modLaunch_claims (p : Plot) (l : Lid) (f : Launch → Launch) : (p.modLaunch l f).claims = p.claims := rfl
@[simp] theorem Plot.modLaunch_plane (p : Plot) (l : Lid) (f : Launch → Launch) : (p.modLaunch l f).plane = p.plane := rfl
@[simp] theorem Plot.modLaunch_cut (p : Plot) (l : Lid) (f : Launch → Launch) : (p.modLaunch l f).cut = p.cut := rfl
@[simp] theorem Plot.modLaunch_hqs (p : Plot) (l : Lid) (f : Launch → Launch) : (p.modLaunch l f).hqs = p.hqs := rfl
@[simp] theorem Plot.modLaunch_link (p : Plot) (l : Lid) (f : Launch → Launch) : (p.modLaunch l f).link = p.link := rfl
@[simp] theorem Plot.modLaunch_hqIn (p : Plot) (l : Lid) (f : Launch → Launch) : (p.modLaunch l f).hqIn = p.hqIn := rfl
@[simp] theorem Plot.modLaunch_park (p : Plot) (l : Lid) (f : Launch → Launch) : (p.modLaunch l f).park = p.park := rfl
@[simp] theorem Plot.modLaunch_parkLost (p : Plot) (l : Lid) (f : Launch → Launch) : (p.modLaunch l f).parkLost = p.parkLost := rfl
@[simp] theorem Plot.modLaunch_fabric (p : Plot) (l : Lid) (f : Launch → Launch) : (p.modLaunch l f).fabric = p.fabric := rfl
@[simp] theorem Plot.modLaunch_pfqBase (p : Plot) (l : Lid) (f : Launch → Launch) : (p.modLaunch l f).pfqBase = p.pfqBase := rfl
@[simp] theorem Plot.modLaunch_pfqPi (p : Plot) (l : Lid) (f : Launch → Launch) : (p.modLaunch l f).pfqPi = p.pfqPi := rfl
@[simp] theorem Plot.modLaunch_pfqCi (p : Plot) (l : Lid) (f : Launch → Launch) : (p.modLaunch l f).pfqCi = p.pfqCi := rfl
@[simp] theorem Plot.modLaunch_collIn (p : Plot) (l : Lid) (f : Launch → Launch) : (p.modLaunch l f).collIn = p.collIn := rfl
@[simp] theorem Plot.modLaunch_collReqs (p : Plot) (l : Lid) (f : Launch → Launch) : (p.modLaunch l f).collReqs = p.collReqs := rfl
@[simp] theorem Plot.modLaunch_swshare (p : Plot) (l : Lid) (f : Launch → Launch) : (p.modLaunch l f).swshare = p.swshare := rfl
@[simp] theorem Plot.modLaunch_eteShare (p : Plot) (l : Lid) (f : Launch → Launch) : (p.modLaunch l f).eteShare = p.eteShare := rfl
@[simp] theorem Plot.modLaunch_susp (p : Plot) (l : Lid) (f : Launch → Launch) : (p.modLaunch l f).susp = p.susp := rfl
@[simp] theorem Plot.modLaunch_image (p : Plot) (l : Lid) (f : Launch → Launch) : (p.modLaunch l f).image = p.image := rfl
@[simp] theorem Plot.modLaunch_errlog (p : Plot) (l : Lid) (f : Launch → Launch) : (p.modLaunch l f).errlog = p.errlog := rfl
@[simp] theorem Plot.modLaunch_errs (p : Plot) (l : Lid) (f : Launch → Launch) : (p.modLaunch l f).errs = p.errs := rfl
@[simp] theorem Plot.modLaunch_msix (p : Plot) (l : Lid) (f : Launch → Launch) : (p.modLaunch l f).msix = p.msix := rfl
@[simp] theorem Plot.modLaunch_enqs (p : Plot) (l : Lid) (f : Launch → Launch) : (p.modLaunch l f).enqs = p.enqs := rfl
@[simp] theorem Plot.modLaunch_roots (p : Plot) (l : Lid) (f : Launch → Launch) : (p.modLaunch l f).roots = p.roots := rfl
@[simp] theorem Plot.modLaunch_sweepAt (p : Plot) (l : Lid) (f : Launch → Launch) : (p.modLaunch l f).sweepAt = p.sweepAt := rfl
@[simp] theorem Plot.modLaunch_parkHold (p : Plot) (l : Lid) (f : Launch → Launch) : (p.modLaunch l f).parkHold = p.parkHold := rfl
@[simp] theorem Plot.modLaunch_codeErr (p : Plot) (l : Lid) (f : Launch → Launch) : (p.modLaunch l f).codeErr = p.codeErr := rfl
@[simp] theorem Plot.modLaunch_torn (p : Plot) (l : Lid) (f : Launch → Launch) : (p.modLaunch l f).torn = p.torn := rfl
@[simp] theorem Plot.modLaunch_debug (p : Plot) (l : Lid) (f : Launch → Launch) : (p.modLaunch l f).debug = p.debug := rfl
@[simp] theorem Plot.modLaunch_dropping (p : Plot) (l : Lid) (f : Launch → Launch) : (p.modLaunch l f).dropping = p.dropping := rfl
@[simp] theorem Plot.modLaunch_away (p : Plot) (l : Lid) (f : Launch → Launch) : (p.modLaunch l f).away = p.away := rfl
@[simp] theorem Plot.modCore_cores (p : Plot) (i : Nat) (f : Core → Core) : (p.modCore i f).cores = p.cores.modify i f := rfl
@[simp] theorem Plot.modTile_tiles (p : Plot) (i : Nat) (f : Tile → Tile) : (p.modTile i f).tiles = p.tiles.modify i f := rfl

/-! The machine changes in a plot, in the device, in the core that steps. -/

@[simp] theorem State.modPlot_dev (s : State) (pid : Nat) (f : Plot → Plot) : (s.modPlot pid f).dev = s.dev := rfl
@[simp] theorem State.modPlot_cur (s : State) (pid : Nat) (f : Plot → Plot) : (s.modPlot pid f).cur = s.cur := rfl
@[simp] theorem State.modPlot_agenda (s : State) (pid : Nat) (f : Plot → Plot) : (s.modPlot pid f).agenda = s.agenda := rfl
@[simp] theorem State.modPlot_ev (s : State) (pid : Nat) (f : Plot → Plot) : (s.modPlot pid f).ev = s.ev := rfl
@[simp] theorem State.modPlot_fresh (s : State) (pid : Nat) (f : Plot → Plot) : (s.modPlot pid f).fresh = s.fresh := rfl
@[simp] theorem State.modMine_dev (s : State) (f : Plot → Plot) : (s.modMine f).dev = s.dev := rfl
@[simp] theorem State.modMine_cur (s : State) (f : Plot → Plot) : (s.modMine f).cur = s.cur := rfl
@[simp] theorem State.modMine_agenda (s : State) (f : Plot → Plot) : (s.modMine f).agenda = s.agenda := rfl
@[simp] theorem State.modMine_ev (s : State) (f : Plot → Plot) : (s.modMine f).ev = s.ev := rfl
@[simp] theorem State.modMine_fresh (s : State) (f : Plot → Plot) : (s.modMine f).fresh = s.fresh := rfl
@[simp] theorem State.modMe_dev (s : State) (f : Core → Core) : (s.modMe f).dev = s.dev := rfl
@[simp] theorem State.modMe_cur (s : State) (f : Core → Core) : (s.modMe f).cur = s.cur := rfl
@[simp] theorem State.modMe_agenda (s : State) (f : Core → Core) : (s.modMe f).agenda = s.agenda := rfl
@[simp] theorem State.modMe_ev (s : State) (f : Core → Core) : (s.modMe f).ev = s.ev := rfl
@[simp] theorem State.modMe_fresh (s : State) (f : Core → Core) : (s.modMe f).fresh = s.fresh := rfl
@[simp] theorem State.modDev_plots (s : State) (f : Device → Device) : (s.modDev f).plots = s.plots := rfl
@[simp] theorem State.modDev_cur (s : State) (f : Device → Device) : (s.modDev f).cur = s.cur := rfl
@[simp] theorem State.modDev_agenda (s : State) (f : Device → Device) : (s.modDev f).agenda = s.agenda := rfl
@[simp] theorem State.modDev_ev (s : State) (f : Device → Device) : (s.modDev f).ev = s.ev := rfl
@[simp] theorem State.modDev_fresh (s : State) (f : Device → Device) : (s.modDev f).fresh = s.fresh := rfl
@[simp] theorem State.modDev_dev (s : State) (f : Device → Device) : (s.modDev f).dev = f s.dev := rfl

end Sys2Proof.Machine
end

