-- ==== Sys2Proof/Laws/Agent.lean ====
section
/-! SUPPORT. What changing a plot, or the core that steps, does to the machine: everything else stays; and the counts and the status
register of a core that retires. -/
namespace Sys2Proof.Machine

/-! Plots by number. -/

theorem State.plot?_pid {s : State} {pid : Nat} {p : Plot} (h : s.plot? pid = some p) : p.pid = pid := by
  have := List.find?_some h
  simpa using this

theorem find?_mapPlot (f : Plot → Plot) (hf : ∀ q, (f q).pid = q.pid) (pid x : Nat) (ps : List Plot) :
    (ps.map fun p => if p.pid = pid then f p else p).find? (fun p => p.pid == x)
      = (ps.find? fun p => p.pid == x).map fun p => if p.pid = pid then f p else p := by
  induction ps with
  | nil => rfl
  | cons q qs ih =>
    have hq : (if q.pid = pid then f q else q).pid = q.pid := by split <;> simp [hf]
    simp only [List.map_cons, List.find?_cons, hq]
    split <;> simp_all

/-- Reading a plot after a plot has changed. -/
theorem State.plot?_modPlot (s : State) (f : Plot → Plot) (hf : ∀ q, (f q).pid = q.pid) (pid x : Nat) :
    (s.modPlot pid f).plot? x = (s.plot? x).map fun p => if p.pid = pid then f p else p := find?_mapPlot f hf pid x s.plots

/-- Reading the plot that has changed. -/
theorem State.plot?_modPlot_self {s : State} {pid : Nat} {p : Plot} (h : s.plot? pid = some p) (f : Plot → Plot)
    (hf : ∀ q, (f q).pid = q.pid) : (s.modPlot pid f).plot? pid = some (f p) := by
  rw [State.plot?_modPlot s f hf, h]; simp [State.plot?_pid h]

/-- Reading another plot. -/
theorem State.plot?_modPlot_ne (s : State) (f : Plot → Plot) (hf : ∀ q, (f q).pid = q.pid) {pid x : Nat} (hx : x ≠ pid) :
    (s.modPlot pid f).plot? x = s.plot? x := by
  rw [State.plot?_modPlot s f hf]
  cases h : s.plot? x with
  | none => rfl
  | some p => have := State.plot?_pid h; simp [this, hx]

@[simp] theorem State.plot?_modDev (s : State) (f : Device → Device) (pid : Nat) : (s.modDev f).plot? pid = s.plot? pid := rfl
@[simp] theorem State.myPlot_modDev (s : State) (f : Device → Device) : (s.modDev f).myPlot = s.myPlot := rfl
@[simp] theorem State.me_modDev (s : State) (f : Device → Device) : (s.modDev f).me = s.me := rfl

/-! The core that steps. -/

/-- What changing the core that steps makes of its plot. -/
def State.putMe (s : State) (f : Core → Core) (p : Plot) : Plot :=
  if s.cur.svc then p.modTile s.cur.idx fun t => t.modSvc fun v => { v with ctx := f v.ctx } else p.modCore s.cur.idx f

theorem State.putMe_pid (s : State) (f : Core → Core) (p : Plot) : (s.putMe f p).pid = p.pid := by unfold State.putMe; split <;> rfl

theorem State.modMe_eq (s : State) (f : Core → Core) : s.modMe f = s.modPlot s.cur.pid (s.putMe f) := rfl

theorem State.myPlot_modMe {s : State} {p : Plot} (h : s.myPlot = some p) (f : Core → Core) : (s.modMe f).myPlot = some (s.putMe f p) :=
  State.plot?_modPlot_self h _ (s.putMe_pid f)

/-- Reading the core that steps after it has changed. -/
theorem State.me_modMe {s : State} {c : Core} (h : s.me = some c) (f : Core → Core) : (s.modMe f).me = some (f c) := by
  unfold State.me at h ⊢
  cases hp : s.myPlot with
  | none => simp [hp] at h
  | some p =>
    rw [State.myPlot_modMe hp]
    simp only [hp] at h
    simp only [State.modMe_cur, State.putMe]
    split
    · rename_i hs
      rw [if_pos hs] at h
      simp only [Plot.modTile_tiles, List.getElem?_modify, ↓reduceIte]
      cases ht : p.tiles[s.cur.idx]? with
      | none => simp [ht] at h
      | some t => simp [ht] at h; simp [Tile.modSvc, h]
    · rename_i hs
      rw [if_neg hs] at h
      simp [h]

/-- A meaning about the core that steps. -/
theorem onCore_at {s : State} {p : Plot} {c : Core} (hp : s.myPlot = some p) (hc : s.me = some c) (k : Plot → Core → Out) :
    onCore s k = k p c := by unfold onCore; rw [hp, hc]

theorem upd_at {s : State} {p : Plot} {c : Core} (hp : s.myPlot = some p) (hc : s.me = some c) (f : Core → Core) :
    upd s f = .next (s.modMe fun _ => f c) := onCore_at hp hc _

/-! Counts (R49, R194). -/

@[simp] theorem Core.count_lid (c : Core) (l : Lid) : (c.count l).lid = l := by
  unfold Core.count
  cases h : c.counts.find? fun x => x.lid == l with
  | none => rfl
  | some x => have := List.find?_some h; simpa using this

theorem find?_filter_ne (l k : Lid) (h : k ≠ l) (xs : List LCount) :
    (xs.filter fun x => x.lid != l).find? (fun x => x.lid == k) = xs.find? fun x => x.lid == k := by
  induction xs with
  | nil => rfl
  | cons x xs ih =>
    rw [List.filter_cons, List.find?_cons]
    by_cases hx : x.lid = k
    · have hl : x.lid ≠ l := by rw [hx]; exact h
      simp [hx, h]
    · have e : (x.lid == k) = false := by simpa using hx
      rw [e]
      split
      · rw [List.find?_cons, e]; exact ih
      · exact ih

/-- Reading the counts for a launch after those for one have changed. -/
theorem Core.count_modCount (c : Core) (l k : Lid) (f : LCount → LCount) (hf : ∀ x, (f x).lid = x.lid) :
    (c.modCount l f).count k = if k = l then f (c.count l) else c.count k := by
  unfold Core.count Core.modCount
  simp only [List.find?_cons, hf]
  split <;> rename_i h
  · have hl : (c.count l).lid = k := by simpa using h
    rw [Core.count_lid] at hl
    simp [hl]; rfl
  · have hl : l ≠ k := by
      have h' : ¬ (c.count l).lid = k := by simpa using h
      rwa [Core.count_lid] at h'
    rw [if_neg (Ne.symm hl), find?_filter_ne l k (Ne.symm hl)]

@[simp] theorem Core.count_setSt (c : Core) (lo n v : Nat) (l : Lid) : (c.setSt lo n v).count l = c.count l := rfl
@[simp] theorem Core.count_setG (c : Core) (i : Reg) (w : Word) (l : Lid) : (c.setG i w).count l = c.count l := rfl

/-! A core that retires an instruction (R31, R64, R83). -/

/-- The status register after retiring: a repetition is counted, or the repeat and the pending format end. -/
theorem Core.retire_st (c : Core) (len n pj : Nat) :
    (c.retire len n pj).st = if 1 < c.rc then setFld c.st 11 4 (c.rc - 1) else setFld (setFld c.st 11 4 0) 0 1 0 := by
  have h : ∀ d : Core, d.st = c.st → d.rc = c.rc := fun d e => by simp [Core.rc, Core.stBits, e]
  unfold Core.retire; dsimp only
  have e : ({ c.charge n pj with stint := (c.charge n pj).stint.map Stint.tick, wait := .none } : Core).rc = c.rc := h _ (by simp)
  simp only [e, gt_iff_lt]
  split <;> simp

/-- The program counter after retiring: it passes the instruction when no repetition is left. -/
theorem Core.retire_off (c : Core) (len n pj : Nat) :
    (c.retire len n pj).off = if 1 < c.rc then c.off else c.off + BitVec.ofNat 32 len := by
  have h : ∀ d : Core, d.st = c.st → d.rc = c.rc := fun d e => by simp [Core.rc, Core.stBits, e]
  unfold Core.retire; dsimp only
  have e : ({ c.charge n pj with stint := (c.charge n pj).stint.map Stint.tick, wait := .none } : Core).rc = c.rc := h _ (by simp)
  simp only [e, gt_iff_lt]
  split <;> simp

theorem Core.charge_count (c : Core) (n pj : Nat) (l : Lid) :
    ∃ e, (c.charge n pj).count l = { c.count l with pj := e } := by
  unfold Core.charge; dsimp only; split
  · exact ⟨_, rfl⟩
  · rw [Core.count_modCount]
    · split
      · rename_i h; rw [h]; exact ⟨_, rfl⟩
      · exact ⟨_, rfl⟩
    · intro x; rfl

/-- Retiring changes the counts of a launch only in its energy (R47). -/
theorem Core.retire_count (c : Core) (len n pj : Nat) (l : Lid) : ∃ e, (c.retire len n pj).count l = { c.count l with pj := e } := by
  unfold Core.retire; dsimp only
  split <;> exact Core.charge_count c n pj l

end Sys2Proof.Machine
end

