-- ==== Sys2Proof/Laws/Memory.lean ====
section
/-! SUPPORT. Memory (R4, R373): every operation keeps the canonical form; a read after a write gives the value written, and a write
leaves every other address alone. -/
namespace Sys2Proof.Machine

/-- Raising the bound below the first address keeps the form. -/
theorem Memory.wfFrom_mono {lo hi : Int} {m : Memory} (h : Memory.wfFrom hi m = true) (hl : lo ≤ hi) : Memory.wfFrom lo m = true := by
  cases m with
  | nil => rfl
  | cons x m =>
    obtain ⟨a, b⟩ := x
    simp only [Memory.wfFrom, Bool.and_eq_true, decide_eq_true_eq] at h ⊢
    exact ⟨⟨by omega, h.1.2⟩, h.2⟩

/-- Below the first address everything reads zero. -/
theorem Memory.get_below {lo : Int} {m : Memory} (h : Memory.wfFrom lo m = true) {x : Nat} (hx : (x : Int) ≤ lo) : m.get x = 0 := by
  cases m with
  | nil => rfl
  | cons y m =>
    obtain ⟨a, b⟩ := y
    simp only [Memory.wfFrom, Bool.and_eq_true, decide_eq_true_eq] at h
    have h1 : x < a := by omega
    have h2 : ¬ x = a := by omega
    simp [Memory.get, h1, h2]

theorem Memory.wfFrom_set {lo : Int} {m : Memory} (h : Memory.wfFrom lo m = true) {x : Nat} (v : Byte) (hx : lo < (x : Int)) :
    Memory.wfFrom lo (m.set x v) = true := by
  induction m generalizing lo with
  | nil =>
    unfold Memory.set
    split <;> simp_all [Memory.wfFrom]
  | cons y m ih =>
    obtain ⟨a, b⟩ := y
    simp only [Memory.wfFrom, Bool.and_eq_true, decide_eq_true_eq] at h
    unfold Memory.set
    split
    · split
      · simp only [Memory.wfFrom, Bool.and_eq_true, decide_eq_true_eq]; exact h
      · simp only [Memory.wfFrom, Bool.and_eq_true, decide_eq_true_eq, bne_iff_ne, ne_eq]
        exact ⟨⟨hx, by assumption⟩, ⟨by omega, bne_iff_ne.mp h.1.2⟩, h.2⟩
    · split
      · split
        · exact Memory.wfFrom_mono h.2 (by omega)
        · simp only [Memory.wfFrom, Bool.and_eq_true, decide_eq_true_eq, bne_iff_ne, ne_eq]
          rename_i e _
          exact ⟨⟨hx, by assumption⟩, e ▸ h.2⟩
      · simp only [Memory.wfFrom, Bool.and_eq_true, decide_eq_true_eq]
        exact ⟨h.1, ih h.2 (by omega)⟩

/-- A write keeps the canonical form. -/
theorem Memory.wf_set {m : Memory} (h : m.wf = true) (x : Nat) (v : Byte) : (m.set x v).wf = true :=
  Memory.wfFrom_set h v (by omega)

/-- A write of bytes keeps the canonical form. -/
theorem Memory.wf_write {m : Memory} (h : m.wf = true) (x : Nat) (bs : List Byte) : (m.write x bs).wf = true := by
  induction bs generalizing m x with
  | nil => exact h
  | cons b bs ih => exact ih (Memory.wf_set h x b) (x + 1)

theorem Memory.wf_setWord {m : Memory} (h : m.wf = true) (x : Nat) (w : Word) : (m.setWord x w).wf = true := Memory.wf_write h x _

theorem Memory.wf_setMasked {m : Memory} (h : m.wf = true) (x : Nat) (v k : Byte) : (m.setMasked x v k).wf = true := Memory.wf_set h x _

theorem Memory.wfFrom_filter {lo : Int} {m : Memory} (h : Memory.wfFrom lo m = true) (f : Host.Cell → Bool) :
    Memory.wfFrom lo (m.filter f) = true := by
  induction m generalizing lo with
  | nil => rfl
  | cons y m ih =>
    obtain ⟨a, b⟩ := y
    simp only [Memory.wfFrom, Bool.and_eq_true, decide_eq_true_eq] at h
    rw [List.filter_cons]
    split
    · simp only [Memory.wfFrom, Bool.and_eq_true, decide_eq_true_eq]; exact ⟨h.1, ih h.2⟩
    · exact ih (Memory.wfFrom_mono h.2 (by omega))

/-- Removing entries keeps the canonical form. -/
theorem Memory.wf_filter {m : Memory} (h : m.wf = true) (f : Host.Cell → Bool) : Memory.wf (m.filter f) = true :=
  Memory.wfFrom_filter h f

theorem Memory.wf_clear {m : Memory} (h : m.wf = true) (lo hi : Nat) : (m.clear lo hi).wf = true := Memory.wf_filter h _

/-- A fold of steps that keep the canonical form keeps it. -/
theorem Memory.wf_foldl {α : Type} (f : Memory → α → Memory) (hf : ∀ m x, m.wf = true → (f m x).wf = true) (xs : List α) {m : Memory}
    (h : m.wf = true) : (xs.foldl f m).wf = true := by
  induction xs generalizing m with
  | nil => exact h
  | cons x xs ih => exact ih (hf m x h)

/-- A home act keeps the canonical form (R172). -/
theorem Memory.wf_applyAct {m : Memory} (h : m.wf = true) (a : HAct) : (applyAct m a).1.wf = true := by
  cases a with
  | store bs => exact Memory.wf_foldl _ (fun _ _ hm => Memory.wf_setMasked hm _ _ _) bs h
  | atom o w u a b c r => exact Memory.wf_write h _ _
  | red o w u a b => exact Memory.wf_write h _ _
  | reds rs => exact Memory.wf_foldl _ (fun _ _ hm => Memory.wf_write hm _ _) rs h
  | read a n => exact h

theorem Memory.wf_lmSetBits {m : Memory} (h : m.wf = true) (b n v : Nat) : (lmSetBits m b n v).wf = true := Memory.wf_write h _ _

theorem Memory.get_set_from {lo : Int} {m : Memory} (h : Memory.wfFrom lo m = true) (x y : Nat) (v : Byte) :
    (m.set x v).get y = if y = x then v else m.get y := by
  induction m generalizing lo with
  | nil =>
    unfold Memory.set
    split <;> rename_i hv
    · simp [Memory.get, hv]
    · simp only [Memory.get]; split <;> simp
  | cons z m ih =>
    obtain ⟨a, b⟩ := z
    simp only [Memory.wfFrom, Bool.and_eq_true, decide_eq_true_eq] at h
    have below : ∀ w : Nat, w ≤ a → Memory.get m w = 0 := fun w hw => Memory.get_below h.2 (by omega)
    unfold Memory.set
    split
    · rename_i hxa
      split <;> rename_i hv
      · simp only [Memory.get]; split <;> rename_i hy <;> simp_all <;> omega
      · simp only [Memory.get]; split <;> rename_i hy
        · simp_all
        · split <;> rename_i hy2
          · rw [if_neg (by omega), if_pos (by omega)]
          · rfl
    · split <;> rename_i hna hxa
      · subst hxa
        split <;> rename_i hv
        · simp only [Memory.get]
          by_cases hy : y = x
          · subst hy; simp [below y (Nat.le_refl y), hv]
          · simp only [hy, if_false]; split <;> rename_i hlt
            · exact below y (by omega)
            · rfl
        · simp only [Memory.get]; split <;> simp_all
      · simp only [Memory.get]
        by_cases hy : y = a
        · simp [hy]; omega
        · simp only [hy, if_false]; split <;> rename_i hlt
          · have : ¬ y = x := by omega
            simp [this]
          · exact ih h.2

/-- A read after a write. -/
theorem Memory.get_set {m : Memory} (h : m.wf = true) (x y : Nat) (v : Byte) : (m.set x v).get y = if y = x then v else m.get y :=
  Memory.get_set_from h x y v

/-- A read after a write of bytes: inside it a byte written, outside it what was there. -/
theorem Memory.get_write {m : Memory} (h : m.wf = true) (x y : Nat) (bs : List Byte) :
    (m.write x bs).get y = if x ≤ y ∧ y < x + bs.length then bs.getD (y - x) 0 else m.get y := by
  induction bs generalizing m x with
  | nil => rw [Memory.write, if_neg (by simp only [List.length_nil]; omega)]
  | cons b bs ih =>
    rw [Memory.write, ih (Memory.wf_set h x b), Memory.get_set h]
    by_cases h1 : x + 1 ≤ y ∧ y < x + 1 + bs.length
    · have h2 : x ≤ y ∧ y < x + (b :: bs).length := by simp; omega
      rw [if_pos h1, if_pos h2]
      obtain ⟨k, rfl⟩ : ∃ k, y = x + 1 + k := ⟨y - (x + 1), by omega⟩
      have e1 : x + 1 + k - (x + 1) = k := by omega
      have e2 : x + 1 + k - x = k + 1 := by omega
      rw [e1, e2]; simp
    · rw [if_neg h1]
      by_cases h3 : y = x
      · subst h3; simp
      · rw [if_neg h3, if_neg]; simp; omega

/-- A masked write of one byte. -/
theorem Memory.get_setMasked {m : Memory} (h : m.wf = true) (x y : Nat) (v k : Byte) :
    (m.setMasked x v k).get y = if y = x then (m.get x &&& ~~~k) ||| (v &&& k) else m.get y := Memory.get_set h x y _

theorem Memory.get_filter_from {lo : Int} {m : Memory} (h : Memory.wfFrom lo m = true) (f : Nat → Bool) (x : Nat) :
    Memory.get (m.filter fun c => f c.1) x = if f x then m.get x else 0 := by
  induction m generalizing lo with
  | nil => simp [Memory.get]
  | cons y m ih =>
    obtain ⟨a, b⟩ := y
    simp only [Memory.wfFrom, Bool.and_eq_true, decide_eq_true_eq] at h
    rw [List.filter_cons]
    split <;> rename_i hf
    · simp only [Memory.get]
      split <;> rename_i hx
      · subst hx; simp [show f x = true from hf]
      · split
        · simp
        · exact ih h.2
    · rw [ih h.2]
      by_cases hx : x = a
      · subst hx; simp [show ¬ f x = true from hf]
      · simp only [Memory.get, hx, if_false]
        split
        · split
          · exact Memory.get_below h.2 (by omega)
          · rfl
        · rfl

/-- A read after entries have been removed by their addresses. -/
theorem Memory.get_filter {m : Memory} (h : m.wf = true) (f : Nat → Bool) (x : Nat) :
    Memory.get (m.filter fun c => f c.1) x = if f x then m.get x else 0 := Memory.get_filter_from h f x

/-- Bytes read from a range that a change leaves alone. -/
theorem Memory.bytes_congr {m n : Memory} {a k : Nat} (h : ∀ i, i < k → m.get (a + i) = n.get (a + i)) : m.bytes a k = n.bytes a k := by
  unfold Memory.bytes
  exact List.map_congr_left fun i hi => h i (List.mem_range.mp hi)

/-- A number read from a range that a change leaves alone. -/
theorem Memory.num_congr {m n : Memory} {a k : Nat} (h : ∀ i, i < k → m.get (a + i) = n.get (a + i)) : m.num a k = n.num a k := by
  unfold Memory.num; rw [Memory.bytes_congr h]

end Sys2Proof.Machine
end

