-- ==== Sys2Proof/Laws/Retire.lean ====
section
/-! SUPPORT. What retiring an instruction, and charging cycles, does to a core, in the vocabulary of the statements. -/
namespace Sys2Proof
open Machine

theorem Core.rc_lt (c : Core) : c.rc < 16 := fld_lt c.st 14 11

/-- BUDGET after cycles are charged (R31). -/
theorem charge_budget (c : Core) (n pj : Nat) :
    (c.charge n pj).budget = if c.stint.isNone ∨ c.stBits 38 38 = 1 then c.budget else BitVec.ofNat 25 (c.budget.toNat - n) := by
  unfold Core.charge; dsimp only
  by_cases h : c.stint.isNone = true
  · simp [h]
  · by_cases h2 : c.stBits 38 38 = 1
    · have e : ({ c with cyc := c.cyc + BitVec.ofNat 64 n } : Core).stBits 38 38 = 1 := h2
      simp [h2, e]
    · have e : ¬ ({ c with cyc := c.cyc + BitVec.ofNat 64 n } : Core).stBits 38 38 = 1 := h2
      simp [h, h2, e]

theorem retire_budget (c : Core) (len n pj : Nat) :
    (c.retire len n pj).budget = if c.stint.isNone ∨ c.stBits 38 38 = 1 then c.budget else BitVec.ofNat 25 (c.budget.toNat - n) := by
  rw [← charge_budget c n pj]
  unfold Core.retire; dsimp only; split <;> simp

/-- Retiring passes the instruction. -/
theorem retire_passed (c : Core) (len n pj : Nat) : Passed c (c.retire len n pj) len := by
  have hr := Core.rc_lt c
  refine ⟨?_, by simp, by simp, n, by simp, retire_budget c len n pj⟩
  unfold NextPc
  by_cases h : 1 < c.rc
  · rw [if_pos h]
    refine ⟨?_, ?_, ?_⟩
    · show fld _ 14 11 = _
      rw [Core.retire_st, if_pos h]
      have := fld_setFld_self c.st 11 4 (c.rc - 1) (by decide) (by decide)
      rw [this]; omega
    · show decide (fld _ 0 0 = 1) = decide (fld _ 0 0 = 1)
      rw [Core.retire_st, if_pos h, fld_setFld_ne _ _ _ _ _ _ (by decide) (Or.inl (by decide))]
    · rw [Core.retire_off, if_pos h]
  · rw [if_neg h]
    refine ⟨?_, ?_, ?_⟩
    · show fld _ 14 11 = _
      rw [Core.retire_st, if_neg h, fld_setFld_ne _ _ _ _ _ _ (by decide) (Or.inr (by decide))]
      exact fld_setFld_self c.st 11 4 0 (by decide) (by decide)
    · show decide (fld _ 0 0 = 1) = false
      rw [Core.retire_st, if_neg h]
      have := fld_setFld_self (setFld c.st 11 4 0) 0 1 0 (by decide) (by decide)
      rw [this]; rfl
    · rw [Core.retire_off, if_neg h]

/-- Retiring leaves every bit of ST but PP and RC. -/
theorem retire_sameSt (c : Core) (len n pj : Nat) : SameSt c (c.retire len n pj) stRetire := by
  intro i hi
  have key : ∀ j, j < 64 → stRetire.getLsbD j = false → ¬ (11 ≤ j ∧ j < 15) ∧ ¬ (0 ≤ j ∧ j < 1) := by decide
  by_cases hb : i < 64
  · obtain ⟨h1, h2⟩ := key i hb hi
    rw [Core.retire_st]
    split
    · rw [getLsbD_setFld _ _ _ _ _ (by decide), if_neg h1]
    · rw [getLsbD_setFld _ _ _ _ _ (by decide), if_neg h2, getLsbD_setFld _ _ _ _ _ (by decide), if_neg h1]
  · rw [BitVec.getLsbD_of_ge _ _ (by omega), BitVec.getLsbD_of_ge _ _ (by omega)]

theorem retire_sameCounts (c : Core) (len n pj : Nat) : SameCounts c (c.retire len n pj) := by
  intro l
  obtain ⟨e, he⟩ := Core.retire_count c len n pj l
  rw [he]; exact ⟨rfl, rfl, rfl, rfl, rfl, rfl⟩

/-- Retiring leaves everything else alone. -/
theorem retire_untouched (c : Core) (len n pj : Nat) : Untouched c (c.retire len n pj) :=
  ⟨by simp [SameVec], by simp [SameLm], by simp [SameSpecial], by simp [SameRings], by simp [SameOut], by simp [SameIn],
    by simp [SameSelf], retire_sameCounts c len n pj⟩

theorem setG_r (c : Core) (d : Reg) (w : Word) (r : Reg) : (c.setG d w).r r = if r = d then w else c.r r := by
  show (c.g.set d.val w)[r.val] = if r = d then w else c.g[r.val]
  rw [Vector.getElem_set]
  by_cases h : r = d
  · simp [h]
  · have : ¬ d.val = r.val := fun e => h (Fin.ext e.symm)
    simp [h, this]

theorem retire_r (c : Core) (len n pj : Nat) (r : Reg) : (c.retire len n pj).r r = c.r r := by
  show (c.retire len n pj).g[r] = c.g[r]
  simp

/-- Writing one register and retiring is what `Writes` says. -/
theorem writes_of (i : Instr) (s : State) (c : Core) (len cyc pj : Nat) (d : Reg) (w : Word)
    (h : Machine.exec i s = .next (s.modMe fun _ => (c.setG d w).retire len cyc pj)) : Writes i s c len d w := by
  refine ⟨(c.setG d w).retire len cyc pj, h, ?_, ?_, retire_sameSt (c.setG d w) len cyc pj, retire_passed (c.setG d w) len cyc pj, ?_⟩
  · rw [retire_r, setG_r, if_pos rfl]
  · intro r hr
    have : r ≠ d := by simpa using hr
    rw [retire_r, setG_r, if_neg this]
  · exact retire_untouched (c.setG d w) len cyc pj

end Sys2Proof
end

