-- ==== Sys2Proof/Laws/Commit.lean ====
section
/-! SUPPORT. The commit point, the entry of an operation, going idle, and the end of a stint (R24, R26, R34, R35, R49): the order of the
entries, the counts, and LM. -/
namespace Sys2Proof
open Machine

theorem foldl_sent (es : List Entry) (c : Core) (l : Lid) :
    (es.foldl (fun c e => if e.sends = 0 then c else c.modCount e.tag.lid fun x => { x with sent := x.sent + e.sends }) c).count l
      = { c.count l with sent := (c.count l).sent + ((es.filter fun e => e.tag.lid == l).map Entry.sends).sum } := by
  induction es generalizing c with
  | nil => rw [List.foldl_nil]; exact (congrArg (fun n => { c.count l with sent := n }) (Nat.add_zero _)).symm
  | cons e es ih =>
    rw [List.foldl_cons, ih]
    by_cases h0 : e.sends = 0
    · rw [if_pos h0, List.filter_cons]
      split <;> simp [h0]
    · rw [if_neg h0, Core.count_modCount _ _ _ _ (fun x => by rfl), List.filter_cons]
      by_cases hl : l = e.tag.lid
      · subst hl; simp; omega
      · have : (e.tag.lid == l) = false := by simpa using Ne.symm hl
        simp [hl, this]

/-- A commit counts what the buffered entries send (R49). -/
theorem commit_count (c : Core) (l : Lid) : c.commit.count l = { c.count l with sent := (c.count l).sent + sentBy c l } :=
  foldl_sent c.ob c l

/-- A commit keeps the overflow places in use. -/
theorem commit_placesUsed (c : Core) : c.commit.placesUsed = c.placesUsed := by
  simp [Core.placesUsed, Nat.add_comm]

/-- What an entry carries besides its operation. -/
theorem enter_queue (c : Core) (b : EBody) (rel : Option Scope) (n : Nat) :
    ∃ x : Entry, (c.enter b rel n).ct ++ (c.enter b rel n).ob = c.ct ++ c.ob ++ [x]
      ∧ x.body = b ∧ x.rel = rel ∧ x.places = n ∧ x.tag.cid = c.cid ∧ x.tag.lid = c.lid ∧ x.tag.ord = c.ord ∧ x.tag.wid = c.wid
      ∧ x.tag.seq = (c.count c.lid).seq := by
  unfold Core.enter; dsimp only
  split
  · refine ⟨⟨c.commit.tag, rel, n, b⟩, by simp, rfl, rfl, rfl, ?_⟩
    have hl : c.commit.lid = c.lid := by simp [Core.lid, Function.comp_def, Stint.mark1]
    simp [Core.tag, hl, commit_count]
  · exact ⟨⟨c.tag, rel, n, b⟩, by simp, rfl, rfl, rfl, rfl, rfl, rfl, rfl, rfl⟩

/-- The counts of sent messages once an entered operation has committed. -/
theorem enter_sent (c : Core) (b : EBody) (rel : Option Scope) (n : Nat) (l : Lid) :
    ((c.enter b rel n).count l).sent + sentBy (c.enter b rel n) l
      = (c.count l).sent + sentBy c l + if c.lid = l then Entry.sends ⟨c.tag, rel, n, b⟩ else 0 := by
  have hl : c.commit.lid = c.lid := by simp [Core.lid, Function.comp_def, Stint.mark1]
  unfold Core.enter; dsimp only
  split
  · show (c.commit.count l).sent + (((c.commit.ob ++ [_]).filter fun e : Entry => e.tag.lid == l).map Entry.sends).sum = _
    rw [commit_count]
    simp only [Core.commit_ob, List.nil_append, List.filter_cons, List.filter_nil]
    by_cases h : c.lid = l
    · simp [Core.tag, hl, h, Entry.sends]
    · simp [Core.tag, hl, h]
  · show (c.count l).sent + (((c.ob ++ [_]).filter fun e : Entry => e.tag.lid == l).map Entry.sends).sum = _
    rw [List.filter_append, List.map_append, List.sum_append]
    simp only [List.filter_cons, List.filter_nil]
    by_cases h : c.lid = l
    · simp [Core.tag, h, sentBy]; omega
    · simp [Core.tag, h, sentBy]

/-- Entering keeps the other counts of a launch. -/
theorem enter_count (c : Core) (b : EBody) (rel : Option Scope) (n : Nat) (l : Lid) :
    ∃ k, (c.enter b rel n).count l = { c.count l with sent := k } := by
  unfold Core.enter; dsimp only
  split
  · exact ⟨_, commit_count c l⟩
  · exact ⟨_, rfl⟩

/-- A returning operation leaves behind every buffered entry, with the tag of its instruction, and counts nothing else than what commits. -/
theorem enterRet_count (c : Core) (b : EBody) (l : Lid) : ∃ k, (c.enterRet b).count l = { c.count l with sent := k } :=
  ⟨_, commit_count _ l⟩

/-! Going idle. -/

/-- When a core that has just ended its stint powers down its banks (R35). -/
def Core.powersDown (c : Core) : Prop := c.stint = none ∧ c.runq = [] ∧ c.back = none ∧ (∀ x ∈ c.slab, x.state = 0) ∧ c.placesUsed = 0

theorem goIdle_cond (c : Core) : (c.isIdle ∧ c.slab.all (·.state == 0) ∧ c.placesUsed = 0) ↔ Core.powersDown c := by
  unfold Core.isIdle Core.powersDown; simp [and_assoc]

/-- A byte of LM after a core has gone idle. -/
theorem goIdle_get (c : Core) (h : c.lm.wf = true) (a : Nat) :
    (¬Core.powersDown c ∨ (c.lmret ||| c.keptBanks).getLsbD (bankOf a) = true → c.goIdle.lm.get a = c.lm.get a)
      ∧ (Core.powersDown c ∧ (c.lmret ||| c.keptBanks).getLsbD (bankOf a) = false → c.goIdle.lm.get a = 0) := by
  have hb : bankOf a < 8 := Nat.mod_lt _ (by decide)
  unfold Core.goIdle
  split
  · rename_i hc
    rw [goIdle_cond] at hc
    have e := Memory.get_filter h (fun x => !(~~~(c.lmret ||| c.keptBanks)).getLsbD (bankOf x)) a
    have hn : (~~~(c.lmret ||| c.keptBanks)).getLsbD (bankOf a) = !(c.lmret ||| c.keptBanks).getLsbD (bankOf a) := by
      rw [BitVec.getLsbD_not]; simp [hb]
    constructor
    · rintro (h1 | h1)
      · exact absurd hc h1
      · show Memory.get (c.lm.filter fun x => !(~~~(c.lmret ||| c.keptBanks)).getLsbD (bankOf x.1)) a = _
        rw [e, hn, h1]; rfl
    · rintro ⟨-, h1⟩
      show Memory.get (c.lm.filter fun x => !(~~~(c.lmret ||| c.keptBanks)).getLsbD (bankOf x.1)) a = _
      rw [e, hn, h1]; rfl
  · rename_i hc
    rw [goIdle_cond] at hc
    exact ⟨fun _ => rfl, fun ⟨h1, _⟩ => absurd h1 hc⟩

/-- A core that keeps a live slot powers nothing down. -/
theorem goIdle_of_slot (c : Core) {k : Nat} {x : Slot} (h : c.slab[k]? = some x) (hx : x.state ≠ 0) : c.goIdle = c := by
  unfold Core.goIdle
  rw [if_neg]
  rw [goIdle_cond]
  rintro ⟨-, -, -, h1, -⟩
  exact hx (h1 x (List.mem_of_getElem? h))

/-- The counts of a core whose stint has ended. -/
theorem endStint_count (c : Core) (l : Lid) : c.endStint.count l = { c.count l with sent := (c.count l).sent + sentBy c l } := by
  have : ∀ d : Core, d.goIdle.count l = d.count l := fun d => by simp [Core.count]
  unfold Core.endStint; rw [this]; exact commit_count c l

/-- LM of a core whose stint has ended. -/
theorem endStint_get (c : Core) (h : c.lm.wf = true) (a : Nat) :
    let down : Prop := c.runq = [] ∧ c.back = none ∧ (∀ x ∈ c.slab, x.state = 0) ∧ c.placesUsed = 0
    (¬down ∨ (c.lmret ||| c.keptBanks).getLsbD (bankOf a) = true → c.endStint.lm.get a = c.lm.get a)
      ∧ (down ∧ (c.lmret ||| c.keptBanks).getLsbD (bankOf a) = false → c.endStint.lm.get a = 0) := by
  have := goIdle_get { c.commit with stint := none } (by simpa using h) a
  have e : Core.powersDown { c.commit with stint := none }
      ↔ (c.runq = [] ∧ c.back = none ∧ (∀ x ∈ c.slab, x.state = 0) ∧ c.placesUsed = 0) := by
    simp [Core.powersDown, Core.placesUsed, and_comm]
  simp only [e] at this
  simpa [Core.endStint, Core.keptBanks] using this

end Sys2Proof
end

