-- ==== Sys2Proof/Laws/Device.lean ====
section
/-! SUPPORT. What the device's own updates do: the tiles that no plot holds, and the order of its fabric traffic. -/
namespace Sys2Proof.Machine
/-- A tile given back is what is kept of it. -/
@[simp] theorem Device.spareOf_setSpare (d : Device) (x : Spare) : (d.setSpare x).spareOf x.num = x := by
  simp [Device.spareOf, Device.setSpare]
/-- Giving a tile back changes nothing that is kept of another. -/
theorem Device.spareOf_setSpare_ne (d : Device) (x : Spare) {n : Nat} (h : x.num ≠ n) : (d.setSpare x).spareOf n = d.spareOf n := by
  have : ∀ l : List Spare, (l.filter fun y => y.num != x.num).find? (fun y => y.num == n) = l.find? fun y => y.num == n := by
    intro l
    induction l with
    | nil => rfl
    | cons y l ih => by_cases hy : y.num = x.num <;> simp_all [List.find?_cons]
  simp [Device.spareOf, Device.setSpare, h, this]
@[simp] theorem State.toFabric_fabNext (s : State) (pid : Nat) (e : HEntry) : (s.toFabric pid e).dev.fabNext = s.dev.fabNext + 1 := rfl
@[simp] theorem State.toFabric_fresh (s : State) (pid : Nat) (e : HEntry) : (s.toFabric pid e).fresh = s.fresh := rfl
@[simp] theorem State.toFabric_agenda (s : State) (pid : Nat) (e : HEntry) : (s.toFabric pid e).agenda = s.agenda := rfl
@[simp] theorem State.toFabric_cur (s : State) (pid : Nat) (e : HEntry) : (s.toFabric pid e).cur = s.cur := rfl
@[simp] theorem State.toFabric_ev (s : State) (pid : Nat) (e : HEntry) : (s.toFabric pid e).ev = s.ev := rfl
end Sys2Proof.Machine
end

