-- ==== Sys2Proof/Laws/Enter.lean ====
section
/-! SUPPORT. One lemma for each way in which an instruction that concerns its core alone completes: it writes and passes, it enters an
operation, it asks another agent, it ends waits. -/
namespace Sys2Proof
open Machine

/-- Writing and passing is what `Makes` says. -/
theorem makes_of {i : Instr} {s : State} {d : Core} {len cyc pj : Nat}
    (h : Machine.exec i s = .next (s.modMe fun _ => d.retire len cyc pj)) : Makes i s d len :=
  ⟨_, h, fun r _ => retire_r d len cyc pj r, retire_sameSt d len cyc pj, retire_passed d len cyc pj, retire_untouched d len cyc pj⟩

theorem Core.bumpSeq_count (c : Core) : (c.bumpSeq.count c.lid) = { c.count c.lid with seq := (c.count c.lid).seq + 1 } := by
  unfold Core.bumpSeq; rw [Core.count_modCount _ _ _ _ (fun x => by rfl), if_pos rfl]

theorem Core.retire_lid (c : Core) (len n pj : Nat) : (c.retire len n pj).lid = c.lid := by
  simp [Core.lid, Function.comp_def, Stint.tick]

theorem Core.rc_of_st {c d : Core} (h : d.st = c.st) : d.rc = c.rc := by simp [Core.rc, Core.stBits, h]
theorem Core.pp_of_st {c d : Core} (h : d.st = c.st) : d.pp = c.pp := by unfold Core.pp Core.stBits; rw [h]

theorem nextPc_of {c d e : Core} {len : Nat} (h : NextPc d e len) (hs : d.st = c.st) (ho : d.off = c.off) : NextPc c e len := by
  unfold NextPc at *; rw [← Core.rc_of_st hs, ← Core.pp_of_st hs, ← ho]; exact h

/-- Entering keeps the launch of the core. -/
theorem enter_lid (d : Core) (b : EBody) (rel : Option Scope) (n : Nat) : (d.enter b rel n).lid = d.lid := by
  unfold Core.enter; dsimp only; split
  · simp [Core.lid, Function.comp_def, Stint.mark1]
  · rfl

/-- Entering an operation and passing, with MSGSEQ advanced. -/
theorem enters_bump {i : Instr} {s : State} {d : Core} {len cyc pj n : Nat} {b : EBody} {rel : Option Scope} {P : EBody → Prop}
    (h : Machine.exec i s = .next (s.modMe fun _ => (d.enter b rel n).bumpSeq.retire len cyc pj)) (hb : P b) :
    Enters i s d len rel true P := by
  obtain ⟨x, hq, h1, h2, -, h4, h5, h6, h7, h8⟩ := enter_queue d b rel n
  have hl : (d.enter b rel n).lid = d.lid := enter_lid d b rel n
  have hl2 : (d.enter b rel n).bumpSeq.lid = d.lid := by rw [← hl]; rfl
  refine ⟨_, x, h, ?_, h2, ?_, by rw [h1]; exact hb, ?_, ?_, ?_, by simp, ?_, ?_, ?_, ?_, ?_, ?_, by simp, by simp, by simp, by simp, by simp, ?_⟩
  · simpa using hq
  · obtain ⟨⟨_, _, _, _, _⟩, _, _, _⟩ := x
    simp_all [Core.tag]
  · intro r _; rw [retire_r]; simp [Core.r]
  · have := retire_sameSt (d.enter b rel n).bumpSeq len cyc pj
    intro j hj; rw [this j hj]; simp
  · exact nextPc_of (retire_passed _ len cyc pj).1 (by simp) (by simp)
  · simp [SameVec]
  · simp [SameLm]
  · simp [SameSpecial]
  · simp [SameRings]
  · simp [SameIn]
  · simp [SameSelf]
  · have := (retire_sameCounts (d.enter b rel n).bumpSeq len cyc pj d.lid).1
    rw [this, ← hl, Core.bumpSeq_count, hl]
    obtain ⟨k, hk⟩ := enter_count d b rel n d.lid
    rw [hk]; rfl

/-- Entering an operation and passing, with MSGSEQ as it was. -/
theorem enters_plain {i : Instr} {s : State} {d : Core} {len cyc pj n : Nat} {b : EBody} {rel : Option Scope} {P : EBody → Prop}
    (h : Machine.exec i s = .next (s.modMe fun _ => (d.enter b rel n).retire len cyc pj)) (hb : P b) :
    Enters i s d len rel false P := by
  obtain ⟨x, hq, h1, h2, -, h4, h5, h6, h7, h8⟩ := enter_queue d b rel n
  refine ⟨_, x, h, ?_, h2, ?_, by rw [h1]; exact hb, ?_, ?_, ?_, by simp, ?_, ?_, ?_, ?_, ?_, ?_, by simp, by simp, by simp, by simp, by simp, ?_⟩
  · simpa using hq
  · obtain ⟨⟨_, _, _, _, _⟩, _, _, _⟩ := x
    simp_all [Core.tag]
  · intro r _; rw [retire_r]; simp [Core.r]
  · have := retire_sameSt (d.enter b rel n) len cyc pj
    intro j hj; rw [this j hj]; simp
  · exact nextPc_of (retire_passed _ len cyc pj).1 (by simp) (by simp)
  · simp [SameVec]
  · simp [SameLm]
  · simp [SameSpecial]
  · simp [SameRings]
  · simp [SameIn]
  · simp [SameSelf]
  · have := (retire_sameCounts (d.enter b rel n) len cyc pj d.lid).1
    obtain ⟨k, hk⟩ := enter_count d b rel n d.lid
    rw [this, hk]; simp

/-- A stalled cycle keeps MSGSEQ. -/
theorem stall_seq (c : Core) (l : Lid) : (c.stall.count l).seq = (c.count l).seq := by
  obtain ⟨e, he⟩ := Core.charge_count c 1 0 l
  unfold Core.stall; rw [he]

/-- A returning operation keeps the launch of the core. -/
theorem enterRet_lid (d : Core) (b : EBody) : (d.enterRet b).lid = d.lid := by simp [Core.lid, Function.comp_def, Stint.mark1]

/-- Asking for a value and waiting, with MSGSEQ advanced (R26, R194). -/
theorem asks_bump {i : Instr} {s : State} {d : Core} {b : EBody} {P : EBody → Prop}
    (h : Machine.exec i s = .next (s.modMe fun _ => { (d.enterRet b).bumpSeq.stall with wait := .reply })) (hb : P b) :
    Asks i s d true P := by
  refine ⟨_, { tag := d.tag, body := b }, h, by simp, by simp, rfl, hb, rfl, by simp, by simp, ?_, ?_, ?_, ?_, ?_, ?_, ?_, ?_⟩
  · intro r _; simp [Core.r]
  · simp [SameVec]
  · simp [SameLm]
  · simp [SameSpecial]
  · simp [SameRings]
  · simp [SameIn]
  · simp [SameSelf]
  · show (((d.enterRet b).bumpSeq.stall).count d.lid).seq = _
    obtain ⟨k, hk⟩ := enterRet_count d b d.lid
    rw [stall_seq, ← enterRet_lid d b, Core.bumpSeq_count, enterRet_lid d b, hk]; rfl
/-- Asking for a value and waiting, with MSGSEQ as it was. -/
theorem asks_plain {i : Instr} {s : State} {d : Core} {b : EBody} {P : EBody → Prop}
    (h : Machine.exec i s = .next (s.modMe fun _ => { (d.enterRet b).stall with wait := .reply })) (hb : P b) :
    Asks i s d false P := by
  refine ⟨_, { tag := d.tag, body := b }, h, by simp, by simp, rfl, hb, rfl, by simp, by simp, ?_, ?_, ?_, ?_, ?_, ?_, ?_, ?_⟩
  · intro r _; simp [Core.r]
  · simp [SameVec]
  · simp [SameLm]
  · simp [SameSpecial]
  · simp [SameRings]
  · simp [SameIn]
  · simp [SameSelf]
  · show (((d.enterRet b).stall).count d.lid).seq = _
    obtain ⟨k, hk⟩ := enterRet_count d b d.lid
    rw [stall_seq, hk]; simp

/-! Waits that end. -/

/-- Where no runner sleeps, no wait ends (R133). -/
theorem wake_noSleeper {c : Core} (h : NoSleeper c) (no : Nat) (f : Core → Sleep → Bool) : c.wake no f = c := by
  unfold Core.wake
  generalize List.range 32 = xs
  induction xs with
  | nil => rfl
  | cons i xs ih =>
    rw [List.foldl_cons]
    refine (fun d (e : d = c) => by rw [e]; exact ih : ∀ d, d = c → List.foldl _ d xs = c) _ ?_
    split
    · rfl
    · rename_i x hx
      simp [h x (List.mem_of_getElem? hx)]

/-- Ending waits and passing is what `Wakes` says. -/
theorem wakes_of {i : Instr} {s : State} {d : Core} {len cyc pj no : Nat} {f : Core → Sleep → Bool}
    (h : Machine.exec i s = .next (s.modMe fun _ => (d.wake no f).retire len cyc pj)) : Wakes i s d len := by
  refine ⟨_, h, ?_, ?_, ?_, by simp [SameVec], by simp [SameLm], by simp [SameSpecial], by simp [SameRings], by simp [SameOut],
    by simp [SameSelf], by simp, by simp, by simp, by simp, by simp, by simp, by simp, by simp, ?_⟩
  · intro r _; rw [retire_r]; simp [Core.r]
  · have := retire_sameSt (d.wake no f) len cyc pj
    intro j hj; rw [this j hj]; simp
  · obtain ⟨h1, h2, h3, n, h4, h5⟩ := retire_passed (d.wake no f) len cyc pj
    refine ⟨nextPc_of h1 (by simp) (by simp), h2, by simp, n, by simpa using h4, ?_⟩
    simpa [Core.stBits] using h5
  · intro hn
    rw [wake_noSleeper hn]
    exact ⟨by simp [SameIn], retire_sameCounts d len cyc pj⟩

end Sys2Proof
end

