-- ==== Sys2Proof/Laws/Event.lean ====
section
/-! SUPPORT. How events move the machine: from the form of the next state to what the statements say of it. -/
namespace Sys2Proof

open Machine

/-- A next state that changes the named plot by a function, and perhaps the count of free values. -/
theorem turns_fresh {i : Instr} {s : State} {p : Plot} (h : On s p) (f : Plot → Plot) (n : Nat) (hf : ∀ q, (f q).pid = q.pid)
    (he : exec i s = .next { s.modPlot s.ev.p f with fresh := n }) : Turns i s (f p) :=
  ⟨_, he, rfl, rfl, rfl, fun _ hx => State.plot?_modPlot_ne s f hf hx, State.plot?_modPlot_self h f hf⟩

theorem turns_of {i : Instr} {s : State} {p : Plot} (h : On s p) (f : Plot → Plot) (hf : ∀ q, (f q).pid = q.pid)
    (he : exec i s = .next (s.modPlot s.ev.p f)) : Turns i s (f p) :=
  ⟨_, he, rfl, rfl, rfl, fun _ hx => State.plot?_modPlot_ne s f hf hx, State.plot?_modPlot_self h f hf⟩

/-- A core that one change reaches, and those that it does not reach. -/
theorem coreIs_modCore {p : Plot} {i : Nat} {c : Core} (h : p.core? i = some c) (f : Core → Core) (P : Core → Prop) (hP : P (f c)) :
    CoreIs p (p.modCore i f) i P := by
  refine ⟨fun j hj => ?_, f c, ?_, hP⟩
  · have hj' : i ≠ j := fun e => hj (by simp [e])
    simp [Plot.modCore, hj']
  · have h' : p.cores[i]? = some c := h
    simp [Plot.core?, Plot.modCore, h']

end Sys2Proof
end

