-- ==== Sys2Proof/Laws/Park.lean ====
section
/-! SUPPORT. What parking a runner does to its core (R132, R133, R267), and what the resume that follows at once does (R137). -/
namespace Sys2Proof
open Machine

/-- The free slot is a slot of the slab. -/
theorem freeSlot_lt {c : Core} {i : Nat} (h : c.freeSlot = some i) : ∃ x, c.slab[i]? = some x := by
  obtain ⟨hi, -⟩ := List.findIdx?_eq_some_iff_getElem.mp h
  exact ⟨_, List.getElem?_eq_getElem hi⟩

theorem modSlot_at (c : Core) (i j : Nat) (f : Slot → Slot) :
    (c.modSlot i f).slab[j]? = if i = j then (c.slab[j]?).map f else c.slab[j]? := by
  simp only [Core.modSlot_slab, List.getElem?_modify]
  split <;> simp

/-- The core that parks, before its stint ends. -/
theorem parkIn_eq (c : Core) (len slot : Nat) (sl : Option Sleep) (how : ResumeHow) :
    c.parkIn len slot sl how = (let d := (c.retire len 1 (parkPj sl)).setSt 32 1 0
      ((d.modSlot slot fun x => { x with state := 1, kind := 3, rcd := some (d.record false), vec := false, dv := false, lid := c.lid,
                                         sleep := sl, how := how, seq := (c.count c.lid).seq }).bumpSeq).endStint) := rfl

/-- The slab of the core that has parked. -/
theorem parkIn_slab (c : Core) (len i j : Nat) (sl : Option Sleep) (how : ResumeHow) :
    (c.parkIn len i sl how).slab[j]? = if i = j then (c.slab[j]?).map fun x =>
        { x with state := 1, kind := 3, rcd := some (((c.retire len 1 (parkPj sl)).setSt 32 1 0).record false), vec := false, dv := false,
                 lid := c.lid, sleep := sl, how := how, seq := (c.count c.lid).seq }
      else c.slab[j]? := by
  rw [parkIn_eq]
  simp only [Core.endStint_slab, Core.bumpSeq_slab, modSlot_at, Core.setSt_slab, Core.retire_slab]

/-- A core that parks into a slot of its own keeps its LM. -/
theorem parkIn_lm {c : Core} {i : Nat} {x : Slot} (len : Nat) (sl : Option Sleep) (how : ResumeHow) (h : c.slab[i]? = some x) :
    (c.parkIn len i sl how).lm = c.lm ∧ (c.parkIn len i sl how).lmErr = c.lmErr ∧ (c.parkIn len i sl how).bankOff = c.bankOff := by
  have hs := parkIn_slab c len i i sl how
  rw [if_pos rfl, h, Option.map_some] at hs
  rw [parkIn_eq] at hs ⊢; dsimp only at hs ⊢
  unfold Core.endStint at hs ⊢
  rw [Core.goIdle_slab] at hs
  rw [goIdle_of_slot _ hs (by show (1 : BitVec 2) ≠ 0; decide)]
  simp

end Sys2Proof
end

