-- ==== Sys2Proof/Laws/PerInstr.lean ====
section
/-! SUPPORT. What the length rule says of each instruction's encoding (R64, R70): an event has none; else 2 bytes with bit 0 of the first
clear, or 4 or 8 with it set. -/
namespace Sys2Proof.Laws.Length

/-- The length rule for one instruction. -/
def Statement (i : Instr) : Prop :=
  encode i = [] ∨ (encode i).length = 2 ∧ leNat (encode i) % 2 = 0
    ∨ ((encode i).length = 4 ∨ (encode i).length = 8) ∧ leNat (encode i) % 2 = 1

/-- The low bit of a number laid out in bytes is that of the first. -/
theorem low_bit (n x : Nat) (rest : List Byte) : leNat (leBytes (n + 1) x ++ rest) % 2 = x % 2 := by
  simp only [leBytes, List.cons_append, leNat, BitVec.toNat_ofNat]
  omega
theorem of_two {i : Instr} {w : Nat} (h : encode i = enc2 w) (hw : w % 2 = 0) : Statement i := by
  refine .inr (.inl ⟨by rw [h]; rfl, ?_⟩)
  rw [h, show enc2 w = leBytes 2 w ++ [] by simp [enc2], low_bit]
  exact hw
theorem of_four {i : Instr} {w : Nat} (h : encode i = enc4 w) (hw : w % 2 = 1) : Statement i := by
  refine .inr (.inr ⟨.inl (by rw [h]; rfl), ?_⟩)
  rw [h, show enc4 w = leBytes 4 w ++ [] by simp [enc4], low_bit]
  exact hw
theorem of_mod {i : Instr} {w : Nat} {m : Option Modifier} (h : encode i = encM w m) (hw : w % 2 = 1) : Statement i := by
  cases m with
  | none => exact of_four (w := w) (by rw [h]; rfl) hw
  | some x =>
    refine .inr (.inr ⟨.inr (by rw [h]; rfl), ?_⟩)
    rw [h]
    simp only [encM, low_bit]
    omega
theorem encR_odd (j f b a d : Nat) : encR j f b a d % 2 = 1 := by unfold encR; omega
theorem encI_odd (j i a d : Nat) : encI j i a d % 2 = 1 := by unfold encI; omega
theorem encV_odd (j f wc t q k b a d : Nat) : encV j f wc t q k b a d % 2 = 1 := by unfold encV; omega
theorem encVB_odd (j f t k : Nat) (b : VSrc) (a d : Nat) : encVB j f t k b a d % 2 = 1 := by cases b <;> exact encV_odd ..
theorem encC_even (c s a d : Nat) : encC c s a d % 2 = 0 := by unfold encC; omega

theorem add (d a b : Reg) : Statement (.add d a b) := of_four rfl (by first | exact encR_odd .. | exact encI_odd .. | exact encV_odd .. | exact encVB_odd .. | omega)
theorem sub (d a b : Reg) : Statement (.sub d a b) := of_four rfl (by first | exact encR_odd .. | exact encI_odd .. | exact encV_odd .. | exact encVB_odd .. | omega)
theorem and (d a b : Reg) : Statement (.and d a b) := of_four rfl (by first | exact encR_odd .. | exact encI_odd .. | exact encV_odd .. | exact encVB_odd .. | omega)
theorem or (d a b : Reg) : Statement (.or d a b) := of_four rfl (by first | exact encR_odd .. | exact encI_odd .. | exact encV_odd .. | exact encVB_odd .. | omega)
theorem xor (d a b : Reg) : Statement (.xor d a b) := of_four rfl (by first | exact encR_odd .. | exact encI_odd .. | exact encV_odd .. | exact encVB_odd .. | omega)
theorem andn (d a b : Reg) : Statement (.andn d a b) := of_four rfl (by first | exact encR_odd .. | exact encI_odd .. | exact encV_odd .. | exact encVB_odd .. | omega)
theorem shl (d a b : Reg) : Statement (.shl d a b) := of_four rfl (by first | exact encR_odd .. | exact encI_odd .. | exact encV_odd .. | exact encVB_odd .. | omega)
theorem shr (d a b : Reg) : Statement (.shr d a b) := of_four rfl (by first | exact encR_odd .. | exact encI_odd .. | exact encV_odd .. | exact encVB_odd .. | omega)
theorem sra (d a b : Reg) : Statement (.sra d a b) := of_four rfl (by first | exact encR_odd .. | exact encI_odd .. | exact encV_odd .. | exact encVB_odd .. | omega)
theorem rotl (d a b : Reg) : Statement (.rotl d a b) := of_four rfl (by first | exact encR_odd .. | exact encI_odd .. | exact encV_odd .. | exact encVB_odd .. | omega)
theorem minI64 (d a b : Reg) : Statement (.minI64 d a b) := of_four rfl (by first | exact encR_odd .. | exact encI_odd .. | exact encV_odd .. | exact encVB_odd .. | omega)
theorem maxI64 (d a b : Reg) : Statement (.maxI64 d a b) := of_four rfl (by first | exact encR_odd .. | exact encI_odd .. | exact encV_odd .. | exact encVB_odd .. | omega)
theorem minN64 (d a b : Reg) : Statement (.minN64 d a b) := of_four rfl (by first | exact encR_odd .. | exact encI_odd .. | exact encV_odd .. | exact encVB_odd .. | omega)
theorem maxN64 (d a b : Reg) : Statement (.maxN64 d a b) := of_four rfl (by first | exact encR_odd .. | exact encI_odd .. | exact encV_odd .. | exact encVB_odd .. | omega)
theorem mov (d a : Reg) : Statement (.mov d a) := of_four rfl (by first | exact encR_odd .. | exact encI_odd .. | exact encV_odd .. | exact encVB_odd .. | omega)
theorem cmp (a b : Reg) : Statement (.cmp a b) := of_four rfl (by first | exact encR_odd .. | exact encI_odd .. | exact encV_odd .. | exact encVB_odd .. | omega)
theorem tst (a b : Reg) : Statement (.tst a b) := of_four rfl (by first | exact encR_odd .. | exact encI_odd .. | exact encV_odd .. | exact encVB_odd .. | omega)
theorem mul (d a b : Reg) : Statement (.mul d a b) := of_four rfl (by first | exact encR_odd .. | exact encI_odd .. | exact encV_odd .. | exact encVB_odd .. | omega)
theorem mulhI64 (d a b : Reg) : Statement (.mulhI64 d a b) := of_four rfl (by first | exact encR_odd .. | exact encI_odd .. | exact encV_odd .. | exact encVB_odd .. | omega)
theorem mulhN64 (d a b : Reg) : Statement (.mulhN64 d a b) := of_four rfl (by first | exact encR_odd .. | exact encI_odd .. | exact encV_odd .. | exact encVB_odd .. | omega)
theorem divI64 (d a b : Reg) : Statement (.divI64 d a b) := of_four rfl (by first | exact encR_odd .. | exact encI_odd .. | exact encV_odd .. | exact encVB_odd .. | omega)
theorem divN64 (d a b : Reg) : Statement (.divN64 d a b) := of_four rfl (by first | exact encR_odd .. | exact encI_odd .. | exact encV_odd .. | exact encVB_odd .. | omega)
theorem remI64 (d a b : Reg) : Statement (.remI64 d a b) := of_four rfl (by first | exact encR_odd .. | exact encI_odd .. | exact encV_odd .. | exact encVB_odd .. | omega)
theorem remN64 (d a b : Reg) : Statement (.remN64 d a b) := of_four rfl (by first | exact encR_odd .. | exact encI_odd .. | exact encV_odd .. | exact encVB_odd .. | omega)
theorem clz (d a : Reg) : Statement (.clz d a) := of_four rfl (by first | exact encR_odd .. | exact encI_odd .. | exact encV_odd .. | exact encVB_odd .. | omega)
theorem ctz (d a : Reg) : Statement (.ctz d a) := of_four rfl (by first | exact encR_odd .. | exact encI_odd .. | exact encV_odd .. | exact encVB_odd .. | omega)
theorem pop (d a : Reg) : Statement (.pop d a) := of_four rfl (by first | exact encR_odd .. | exact encI_odd .. | exact encV_odd .. | exact encVB_odd .. | omega)
theorem bext (d a b : Reg) : Statement (.bext d a b) := of_four rfl (by first | exact encR_odd .. | exact encI_odd .. | exact encV_odd .. | exact encVB_odd .. | omega)
theorem bexts (d a b : Reg) : Statement (.bexts d a b) := of_four rfl (by first | exact encR_odd .. | exact encI_odd .. | exact encV_odd .. | exact encVB_odd .. | omega)
theorem bins (d a b : Reg) : Statement (.bins d a b) := of_four rfl (by first | exact encR_odd .. | exact encI_odd .. | exact encV_odd .. | exact encVB_odd .. | omega)
theorem sel (c : Cond) (d a b : Reg) : Statement (.sel c d a b) := of_four rfl (by first | exact encR_odd .. | exact encI_odd .. | exact encV_odd .. | exact encVB_odd .. | omega)
theorem addi (d a : Reg) (i : BitVec 17) : Statement (.addi d a i) := of_four rfl (by first | exact encR_odd .. | exact encI_odd .. | exact encV_odd .. | exact encVB_odd .. | omega)
theorem li (d : Reg) (i : BitVec 17) : Statement (.li d i) := of_four rfl (by first | exact encR_odd .. | exact encI_odd .. | exact encV_odd .. | exact encVB_odd .. | omega)
theorem lhi (d : Reg) (i : BitVec 16) (h : Fin 4) : Statement (.lhi d i h) := of_four rfl (by first | exact encR_odd .. | exact encI_odd .. | exact encV_odd .. | exact encVB_odd .. | omega)
theorem cmpi (d : Reg) (i : BitVec 17) : Statement (.cmpi d i) := of_four rfl (by first | exact encR_odd .. | exact encI_odd .. | exact encV_odd .. | exact encVB_odd .. | omega)
theorem shli (d a : Reg) (n : Fin 64) : Statement (.shli d a n) := of_four rfl (by first | exact encR_odd .. | exact encI_odd .. | exact encV_odd .. | exact encVB_odd .. | omega)
theorem shri (d a : Reg) (n : Fin 64) : Statement (.shri d a n) := of_four rfl (by first | exact encR_odd .. | exact encI_odd .. | exact encV_odd .. | exact encVB_odd .. | omega)
theorem srai (d a : Reg) (n : Fin 64) : Statement (.srai d a n) := of_four rfl (by first | exact encR_odd .. | exact encI_odd .. | exact encV_odd .. | exact encVB_odd .. | omega)
theorem rotli (d a : Reg) (n : Fin 64) : Statement (.rotli d a n) := of_four rfl (by first | exact encR_odd .. | exact encI_odd .. | exact encV_odd .. | exact encVB_odd .. | omega)
theorem bc (c : Cond) (o : BitVec 21) : Statement (.bc c o) := of_four rfl (by first | exact encR_odd .. | exact encI_odd .. | exact encV_odd .. | exact encVB_odd .. | omega)
theorem call (o : BitVec 25) : Statement (.call o) := of_four rfl (by first | exact encR_odd .. | exact encI_odd .. | exact encV_odd .. | exact encVB_odd .. | omega)
theorem cbz (d : Reg) (o : BitVec 17) : Statement (.cbz d o) := of_four rfl (by first | exact encR_odd .. | exact encI_odd .. | exact encV_odd .. | exact encVB_odd .. | omega)
theorem cbnz (d : Reg) (o : BitVec 17) : Statement (.cbnz d o) := of_four rfl (by first | exact encR_odd .. | exact encI_odd .. | exact encV_odd .. | exact encVB_odd .. | omega)
theorem jr (d : Reg) : Statement (.jr d) := of_four rfl (by first | exact encR_odd .. | exact encI_odd .. | exact encV_odd .. | exact encVB_odd .. | omega)
theorem nop : Statement .nop := of_four rfl (by first | exact encR_odd .. | exact encI_odd .. | exact encV_odd .. | exact encVB_odd .. | omega)
theorem halt : Statement .halt := of_four rfl (by first | exact encR_odd .. | exact encI_odd .. | exact encV_odd .. | exact encVB_odd .. | omega)
theorem haltR (d : Reg) : Statement (.haltR d) := of_four rfl (by first | exact encR_odd .. | exact encI_odd .. | exact encV_odd .. | exact encVB_odd .. | omega)
theorem go (d : Reg) : Statement (.go d) := of_four rfl (by first | exact encR_odd .. | exact encI_odd .. | exact encV_odd .. | exact encVB_odd .. | omega)
theorem yield : Statement .yield := of_four rfl (by first | exact encR_odd .. | exact encI_odd .. | exact encV_odd .. | exact encVB_odd .. | omega)
theorem sleepQ (q : QReg) (n : BitVec 13) : Statement (.sleepQ q n) := of_four rfl (by first | exact encR_odd .. | exact encI_odd .. | exact encV_odd .. | exact encVB_odd .. | omega)
theorem sleepJob (d : Reg) : Statement (.sleepJob d) := of_four rfl (by first | exact encR_odd .. | exact encI_odd .. | exact encV_odd .. | exact encVB_odd .. | omega)
theorem sleepGe (d t : Reg) : Statement (.sleepGe d t) := of_four rfl (by first | exact encR_odd .. | exact encI_odd .. | exact encV_odd .. | exact encVB_odd .. | omega)
theorem sleepGeG (d t : Reg) : Statement (.sleepGeG d t) := of_four rfl (by first | exact encR_odd .. | exact encI_odd .. | exact encV_odd .. | exact encVB_odd .. | omega)
theorem rsr (d : Reg) (n : BitVec 12) : Statement (.rsr d n) := of_four rfl (by first | exact encR_odd .. | exact encI_odd .. | exact encV_odd .. | exact encVB_odd .. | omega)
theorem wsr (n : BitVec 12) (a : Reg) : Statement (.wsr n a) := of_four rfl (by first | exact encR_odd .. | exact encI_odd .. | exact encV_odd .. | exact encVB_odd .. | omega)
theorem cpgo (d : Reg) : Statement (.cpgo d) := of_four rfl (by first | exact encR_odd .. | exact encI_odd .. | exact encV_odd .. | exact encVB_odd .. | omega)
theorem ld (k : LdKind) (p : Bool) (o : BitVec 13) (a d : Reg) : Statement (.ld k p o a d) := of_four rfl (by first | exact encR_odd .. | exact encI_odd .. | exact encV_odd .. | exact encVB_odd .. | omega)
theorem st (k : LdKind) (p : Bool) (o : BitVec 13) (a d : Reg) : Statement (.st k p o a d) := of_four rfl (by first | exact encR_odd .. | exact encI_odd .. | exact encV_odd .. | exact encVB_odd .. | omega)
theorem lbit (x p sg : Bool) (w : Fin 64) (d : Reg) : Statement (.lbit x p sg w d) := of_four rfl (by first | exact encR_odd .. | exact encI_odd .. | exact encV_odd .. | exact encVB_odd .. | omega)
theorem sbit (x p : Bool) (w : Fin 64) (d : Reg) : Statement (.sbit x p w d) := of_four rfl (by first | exact encR_odd .. | exact encI_odd .. | exact encV_odd .. | exact encVB_odd .. | omega)
theorem baSet (x : Bool) (a b : Reg) : Statement (.baSet x a b) := of_four rfl (by first | exact encR_odd .. | exact encI_odd .. | exact encV_odd .. | exact encVB_odd .. | omega)
theorem qSet (q : QReg) (a : Reg) : Statement (.qSet q a) := of_four rfl (by first | exact encR_odd .. | exact encI_odd .. | exact encV_odd .. | exact encVB_odd .. | omega)
theorem qAdvP (q : QReg) (a : Reg) : Statement (.qAdvP q a) := of_four rfl (by first | exact encR_odd .. | exact encI_odd .. | exact encV_odd .. | exact encVB_odd .. | omega)
theorem qAdvC (q : QReg) (a : Reg) : Statement (.qAdvC q a) := of_four rfl (by first | exact encR_odd .. | exact encI_odd .. | exact encV_odd .. | exact encVB_odd .. | omega)
theorem qLd (d : Reg) (q : QReg) (n : Fin 4) : Statement (.qLd d q n) := of_four rfl (by first | exact encR_odd .. | exact encI_odd .. | exact encV_odd .. | exact encVB_odd .. | omega)
theorem qSt (q : QReg) (a : Reg) : Statement (.qSt q a) := of_four rfl (by first | exact encR_odd .. | exact encI_odd .. | exact encV_odd .. | exact encVB_odd .. | omega)
theorem qStV (q : QReg) (v : VReg) : Statement (.qStV q v) := of_four rfl (by first | exact encR_odd .. | exact encI_odd .. | exact encV_odd .. | exact encVB_odd .. | omega)
theorem qGet (d : Reg) (q : QReg) : Statement (.qGet d q) := of_four rfl (by first | exact encR_odd .. | exact encI_odd .. | exact encV_odd .. | exact encVB_odd .. | omega)
theorem vadd (t : Ty) (k : KReg) (b : VSrc) (a d : VReg) (m : Option Modifier) : Statement (.vadd t k b a d m) := of_mod rfl (by first | exact encR_odd .. | exact encV_odd .. | exact encVB_odd .. | omega)
theorem vsub (t : Ty) (k : KReg) (b : VSrc) (a d : VReg) (m : Option Modifier) : Statement (.vsub t k b a d m) := of_mod rfl (by first | exact encR_odd .. | exact encV_odd .. | exact encVB_odd .. | omega)
theorem vmul (t : Ty) (k : KReg) (b : VSrc) (a d : VReg) (m : Option Modifier) : Statement (.vmul t k b a d m) := of_mod rfl (by first | exact encR_odd .. | exact encV_odd .. | exact encVB_odd .. | omega)
theorem vfma (t : Ty) (k : KReg) (b : VSrc) (a d : VReg) (m : Option Modifier) : Statement (.vfma t k b a d m) := of_mod rfl (by first | exact encR_odd .. | exact encV_odd .. | exact encVB_odd .. | omega)
theorem vdiv (t : Ty) (k : KReg) (b : VSrc) (a d : VReg) (m : Option Modifier) : Statement (.vdiv t k b a d m) := of_mod rfl (by first | exact encR_odd .. | exact encV_odd .. | exact encVB_odd .. | omega)
theorem vsqrt (t : Ty) (k : KReg) (a d : VReg) (m : Option Modifier) : Statement (.vsqrt t k a d m) := of_mod rfl (by first | exact encR_odd .. | exact encV_odd .. | exact encVB_odd .. | omega)
theorem vrcp (t : Ty) (k : KReg) (a d : VReg) (m : Option Modifier) : Statement (.vrcp t k a d m) := of_mod rfl (by first | exact encR_odd .. | exact encV_odd .. | exact encVB_odd .. | omega)
theorem vrsq (t : Ty) (k : KReg) (a d : VReg) (m : Option Modifier) : Statement (.vrsq t k a d m) := of_mod rfl (by first | exact encR_odd .. | exact encV_odd .. | exact encVB_odd .. | omega)
theorem vmin (t : Ty) (k : KReg) (b : VSrc) (a d : VReg) (m : Option Modifier) : Statement (.vmin t k b a d m) := of_mod rfl (by first | exact encR_odd .. | exact encV_odd .. | exact encVB_odd .. | omega)
theorem vmax (t : Ty) (k : KReg) (b : VSrc) (a d : VReg) (m : Option Modifier) : Statement (.vmax t k b a d m) := of_mod rfl (by first | exact encR_odd .. | exact encV_odd .. | exact encVB_odd .. | omega)
theorem vcmp (p : CmpPred) (t : Ty) (k : KReg) (b : VSrc) (a : VReg) (c : KReg) : Statement (.vcmp p t k b a c) := of_four rfl (by first | exact encR_odd .. | exact encI_odd .. | exact encV_odd .. | exact encVB_odd .. | omega)
theorem vsel (t : Ty) (k : KReg) (b : VSrc) (a d : VReg) : Statement (.vsel t k b a d) := of_four rfl (by first | exact encR_odd .. | exact encI_odd .. | exact encV_odd .. | exact encVB_odd .. | omega)
theorem vand (t : Ty) (k : KReg) (b : VSrc) (a d : VReg) : Statement (.vand t k b a d) := of_four rfl (by first | exact encR_odd .. | exact encI_odd .. | exact encV_odd .. | exact encVB_odd .. | omega)
theorem vor (t : Ty) (k : KReg) (b : VSrc) (a d : VReg) : Statement (.vor t k b a d) := of_four rfl (by first | exact encR_odd .. | exact encI_odd .. | exact encV_odd .. | exact encVB_odd .. | omega)
theorem vxor (t : Ty) (k : KReg) (b : VSrc) (a d : VReg) : Statement (.vxor t k b a d) := of_four rfl (by first | exact encR_odd .. | exact encI_odd .. | exact encV_odd .. | exact encVB_odd .. | omega)
theorem vshl (t : Ty) (k : KReg) (b : VSrc) (a d : VReg) : Statement (.vshl t k b a d) := of_four rfl (by first | exact encR_odd .. | exact encI_odd .. | exact encV_odd .. | exact encVB_odd .. | omega)
theorem vshr (t : Ty) (k : KReg) (b : VSrc) (a d : VReg) : Statement (.vshr t k b a d) := of_four rfl (by first | exact encR_odd .. | exact encI_odd .. | exact encV_odd .. | exact encVB_odd .. | omega)
theorem vred (o : RedOp) (t : Ty) (k : KReg) (a d : VReg) (m : Option Modifier) : Statement (.vred o t k a d m) := of_mod rfl (by first | exact encR_odd .. | exact encV_odd .. | exact encVB_odd .. | omega)
theorem vperm (t : Ty) (k : KReg) (b a d : VReg) : Statement (.vperm t k b a d) := of_four rfl (by first | exact encR_odd .. | exact encI_odd .. | exact encV_odd .. | exact encVB_odd .. | omega)
theorem vbcast (t : Ty) (k : KReg) (a : Fin 8) (d : VReg) : Statement (.vbcast t k a d) := of_four rfl (by first | exact encR_odd .. | exact encI_odd .. | exact encV_odd .. | exact encVB_odd .. | omega)
theorem vcvt (src t : Ty) (k : KReg) (p : Fin 8) (a d : VReg) (m : Option Modifier) : Statement (.vcvt src t k p a d m) := of_mod rfl (by first | exact encR_odd .. | exact encV_odd .. | exact encVB_odd .. | omega)
theorem vsumQ (t : Ty) (k : KReg) (q : QReg) (d : VReg) (m : Option Modifier) : Statement (.vsumQ t k q d m) := of_mod rfl (by first | exact encR_odd .. | exact encV_odd .. | exact encVB_odd .. | omega)
theorem vld (t : Ty) (k : KReg) (a : Fin 8) (d : VReg) (m : Option Modifier) : Statement (.vld t k a d m) := of_mod rfl (by first | exact encR_odd .. | exact encV_odd .. | exact encVB_odd .. | omega)
theorem vst (t : Ty) (k : KReg) (y : Fin 4) (a : Fin 8) (d : VReg) (m : Option Modifier) : Statement (.vst t k y a d m) := of_mod rfl (by first | exact encR_odd .. | exact encV_odd .. | exact encVB_odd .. | omega)
theorem vlds (t : Ty) (k : KReg) (n a : Fin 8) (d : VReg) (m : Option Modifier) : Statement (.vlds t k n a d m) := of_mod rfl (by first | exact encR_odd .. | exact encV_odd .. | exact encVB_odd .. | omega)
theorem vsts (t : Ty) (k : KReg) (n a : Fin 8) (d : VReg) (m : Option Modifier) : Statement (.vsts t k n a d m) := of_mod rfl (by first | exact encR_odd .. | exact encV_odd .. | exact encVB_odd .. | omega)
theorem vgat (t : Ty) (k : KReg) (b : VReg) (a : Fin 8) (d : VReg) (m : Option Modifier) : Statement (.vgat t k b a d m) := of_mod rfl (by first | exact encR_odd .. | exact encV_odd .. | exact encVB_odd .. | omega)
theorem vsct (t : Ty) (k : KReg) (b : VReg) (a : Fin 8) (d : VReg) (m : Option Modifier) : Statement (.vsct t k b a d m) := of_mod rfl (by first | exact encR_odd .. | exact encV_odd .. | exact encVB_odd .. | omega)
theorem vlbit (t : Ty) (k : KReg) (x : Bool) (d : VReg) (m : Option Modifier) : Statement (.vlbit t k x d m) := of_mod rfl (by first | exact encR_odd .. | exact encV_odd .. | exact encVB_odd .. | omega)
theorem gld (k : LdKind) (o : BitVec 9) (a d : Reg) : Statement (.gld k o a d) := of_four rfl (by first | exact encR_odd .. | exact encI_odd .. | exact encV_odd .. | exact encVB_odd .. | omega)
theorem gldAcq (k : LdKind) (sc : Scope) (o : BitVec 9) (a d : Reg) : Statement (.gldAcq k sc o a d) := of_four rfl (by first | exact encR_odd .. | exact encI_odd .. | exact encV_odd .. | exact encVB_odd .. | omega)
theorem gvld (t : Ty) (k : KReg) (o : BitVec 9) (a : Reg) (d : VReg) : Statement (.gvld t k o a d) := of_four rfl (by first | exact encR_odd .. | exact encI_odd .. | exact encV_odd .. | exact encVB_odd .. | omega)
theorem gvgat (t : Ty) (k : KReg) (b : VReg) (a : Reg) (d : VReg) : Statement (.gvgat t k b a d) := of_four rfl (by first | exact encR_odd .. | exact encI_odd .. | exact encV_odd .. | exact encVB_odd .. | omega)
theorem gst (k : LdKind) (o : BitVec 9) (a d : Reg) : Statement (.gst k o a d) := of_four rfl (by first | exact encR_odd .. | exact encI_odd .. | exact encV_odd .. | exact encVB_odd .. | omega)
theorem gstRel (k : LdKind) (sc : Scope) (o : BitVec 9) (a d : Reg) : Statement (.gstRel k sc o a d) := of_four rfl (by first | exact encR_odd .. | exact encI_odd .. | exact encV_odd .. | exact encVB_odd .. | omega)
theorem gvst (t : Ty) (k : KReg) (o : BitVec 9) (a : Reg) (d : VReg) : Statement (.gvst t k o a d) := of_four rfl (by first | exact encR_odd .. | exact encI_odd .. | exact encV_odd .. | exact encVB_odd .. | omega)
theorem gvsct (t : Ty) (k : KReg) (b : VReg) (a : Reg) (d : VReg) : Statement (.gvsct t k b a d) := of_four rfl (by first | exact encR_odd .. | exact encI_odd .. | exact encV_odd .. | exact encVB_odd .. | omega)
theorem atom (o : AOp) (w u l : Bool) (b a d : Reg) : Statement (.atom o w u l b a d) := of_four rfl (by first | exact encR_odd .. | exact encI_odd .. | exact encV_odd .. | exact encVB_odd .. | omega)
theorem red (o : AOp) (w u l : Bool) (b a : Reg) : Statement (.red o w u l b a) := of_four rfl (by first | exact encR_odd .. | exact encI_odd .. | exact encV_odd .. | exact encVB_odd .. | omega)
theorem cas (w l : Bool) (b a d : Reg) : Statement (.cas w l b a d) := of_four rfl (by first | exact encR_odd .. | exact encI_odd .. | exact encV_odd .. | exact encVB_odd .. | omega)
theorem fence (k : FenceKind) (sc : Scope) : Statement (.fence k sc) := of_four rfl (by first | exact encR_odd .. | exact encI_odd .. | exact encV_odd .. | exact encVB_odd .. | omega)
theorem afence : Statement .afence := of_four rfl (by first | exact encR_odd .. | exact encI_odd .. | exact encV_odd .. | exact encVB_odd .. | omega)
theorem send (h : BitVec 10) (a d : Reg) : Statement (.send h a d) := of_four rfl (by first | exact encR_odd .. | exact encI_odd .. | exact encV_odd .. | exact encVB_odd .. | omega)
theorem sendQ (q : QReg) (n : Fin 4) (a d : Reg) : Statement (.sendQ q n a d) := of_four rfl (by first | exact encR_odd .. | exact encI_odd .. | exact encV_odd .. | exact encVB_odd .. | omega)
theorem sendMc (h : BitVec 10) (a d : Reg) : Statement (.sendMc h a d) := of_four rfl (by first | exact encR_odd .. | exact encI_odd .. | exact encV_odd .. | exact encVB_odd .. | omega)
theorem sendMcSt (b a d : Reg) : Statement (.sendMcSt b a d) := of_four rfl (by first | exact encR_odd .. | exact encI_odd .. | exact encV_odd .. | exact encVB_odd .. | omega)
theorem spawn (a : Reg) : Statement (.spawn a) := of_four rfl (by first | exact encR_odd .. | exact encI_odd .. | exact encV_odd .. | exact encVB_odd .. | omega)
theorem cpwait (a d : Reg) : Statement (.cpwait a d) := of_four rfl (by first | exact encR_odd .. | exact encI_odd .. | exact encV_odd .. | exact encVB_odd .. | omega)
theorem collRed (b a : Reg) : Statement (.collRed b a) := of_four rfl (by first | exact encR_odd .. | exact encI_odd .. | exact encV_odd .. | exact encVB_odd .. | omega)
theorem collRes (h : BitVec 10) (b a d : Reg) : Statement (.collRes h b a d) := of_four rfl (by first | exact encR_odd .. | exact encI_odd .. | exact encV_odd .. | exact encVB_odd .. | omega)
theorem sendh (n : Fin 16) (a : Reg) : Statement (.sendh n a) := of_four rfl (by first | exact encR_odd .. | exact encI_odd .. | exact encV_odd .. | exact encVB_odd .. | omega)
theorem mxJob (m : BitVec 4) : Statement (.mxJob m) := of_four rfl (by first | exact encR_odd .. | exact encI_odd .. | exact encV_odd .. | exact encVB_odd .. | omega)
theorem mxGo (a d : Reg) : Statement (.mxGo a d) := of_four rfl (by first | exact encR_odd .. | exact encI_odd .. | exact encV_odd .. | exact encVB_odd .. | omega)
theorem mxWait (a d : Reg) : Statement (.mxWait a d) := of_four rfl (by first | exact encR_odd .. | exact encI_odd .. | exact encV_odd .. | exact encVB_odd .. | omega)
theorem mxPoll (a d : Reg) : Statement (.mxPoll a d) := of_four rfl (by first | exact encR_odd .. | exact encI_odd .. | exact encV_odd .. | exact encVB_odd .. | omega)
theorem mxTst (b a : Reg) : Statement (.mxTst b a) := of_four rfl (by first | exact encR_odd .. | exact encI_odd .. | exact encV_odd .. | exact encVB_odd .. | omega)
theorem mxRel (m : BitVec 4) : Statement (.mxRel m) := of_four rfl (by first | exact encR_odd .. | exact encI_odd .. | exact encV_odd .. | exact encVB_odd .. | omega)
theorem mxLda (x : Bool) (b a : Reg) : Statement (.mxLda x b a) := of_four rfl (by first | exact encR_odd .. | exact encI_odd .. | exact encV_odd .. | exact encVB_odd .. | omega)
theorem mxLdb (x : Bool) (b a : Reg) : Statement (.mxLdb x b a) := of_four rfl (by first | exact encR_odd .. | exact encI_odd .. | exact encV_odd .. | exact encVB_odd .. | omega)
theorem mxLdm (b a : Reg) : Statement (.mxLdm b a) := of_four rfl (by first | exact encR_odd .. | exact encI_odd .. | exact encV_odd .. | exact encVB_odd .. | omega)
theorem mxZero (c : Fin 4) : Statement (.mxZero c) := of_four rfl (by first | exact encR_odd .. | exact encI_odd .. | exact encV_odd .. | exact encVB_odd .. | omega)
theorem mxMma (c : Fin 4) : Statement (.mxMma c) := of_four rfl (by first | exact encR_odd .. | exact encI_odd .. | exact encV_odd .. | exact encVB_odd .. | omega)
theorem mxMmas (c : Fin 4) : Statement (.mxMmas c) := of_four rfl (by first | exact encR_odd .. | exact encI_odd .. | exact encV_odd .. | exact encVB_odd .. | omega)
theorem mxMrot (c : Fin 4) (b : Reg) : Statement (.mxMrot c b) := of_four rfl (by first | exact encR_odd .. | exact encI_odd .. | exact encV_odd .. | exact encVB_odd .. | omega)
theorem mxSt (c : Fin 4) (x : Bool) (b a d : Reg) (m : Option Modifier) : Statement (.mxSt c x b a d m) := of_mod rfl (by first | exact encR_odd .. | exact encV_odd .. | exact encVB_odd .. | omega)
theorem mxAmax (c : Fin 4) (a : Reg) : Statement (.mxAmax c a) := of_four rfl (by first | exact encR_odd .. | exact encI_odd .. | exact encV_odd .. | exact encVB_odd .. | omega)
theorem mxQnt (c : Fin 4) (b a : Reg) (m : Option Modifier) : Statement (.mxQnt c b a m) := of_mod rfl (by first | exact encR_odd .. | exact encV_odd .. | exact encVB_odd .. | omega)
theorem perform (e : BitVec 12) (a d : Reg) : Statement (.perform e a d) := of_four rfl (by first | exact encR_odd .. | exact encI_odd .. | exact encV_odd .. | exact encVB_odd .. | omega)
theorem vperform (e : BitVec 12) (k : KReg) (d : VReg) : Statement (.vperform e k d) := of_four rfl (by first | exact encR_odd .. | exact encI_odd .. | exact encV_odd .. | exact encVB_odd .. | omega)
theorem hpop (e : BitVec 12) : Statement (.hpop e) := of_four rfl (by first | exact encR_odd .. | exact encI_odd .. | exact encV_odd .. | exact encVB_odd .. | omega)
theorem resume (a b : Reg) : Statement (.resume a b) := of_four rfl (by first | exact encR_odd .. | exact encI_odd .. | exact encV_odd .. | exact encVB_odd .. | omega)
theorem resumev (t : Ty) (a : Reg) (b : VReg) : Statement (.resumev t a b) := of_four rfl (by first | exact encR_odd .. | exact encI_odd .. | exact encV_odd .. | exact encVB_odd .. | omega)
theorem abort (a : Reg) : Statement (.abort a) := of_four rfl (by first | exact encR_odd .. | exact encI_odd .. | exact encV_odd .. | exact encVB_odd .. | omega)
theorem tokq (a d : Reg) : Statement (.tokq a d) := of_four rfl (by first | exact encR_odd .. | exact encI_odd .. | exact encV_odd .. | exact encVB_odd .. | omega)
theorem hndOnce (e : BitVec 12) (h : BitVec 8) : Statement (.hndOnce e h) := of_four rfl (by first | exact encR_odd .. | exact encI_odd .. | exact encV_odd .. | exact encVB_odd .. | omega)
theorem hndMany (e : BitVec 12) (h : BitVec 8) : Statement (.hndMany e h) := of_four rfl (by first | exact encR_odd .. | exact encI_odd .. | exact encV_odd .. | exact encVB_odd .. | omega)
theorem hndNone (e : BitVec 12) (h : BitVec 8) : Statement (.hndNone e h) := of_four rfl (by first | exact encR_odd .. | exact encI_odd .. | exact encV_odd .. | exact encVB_odd .. | omega)
theorem wst (b a d : Reg) : Statement (.wst b a d) := of_four rfl (by first | exact encR_odd .. | exact encI_odd .. | exact encV_odd .. | exact encVB_odd .. | omega)
theorem wstW (b a d : Reg) : Statement (.wstW b a d) := of_four rfl (by first | exact encR_odd .. | exact encI_odd .. | exact encV_odd .. | exact encVB_odd .. | omega)
theorem wfloor (b a : Reg) : Statement (.wfloor b a) := of_four rfl (by first | exact encR_odd .. | exact encI_odd .. | exact encV_odd .. | exact encVB_odd .. | omega)
theorem wprobe (a d : Reg) : Statement (.wprobe a d) := of_four rfl (by first | exact encR_odd .. | exact encI_odd .. | exact encV_odd .. | exact encVB_odd .. | omega)
theorem wcancel (b a : Reg) : Statement (.wcancel b a) := of_four rfl (by first | exact encR_odd .. | exact encI_odd .. | exact encV_odd .. | exact encVB_odd .. | omega)
theorem wreg (a d : Reg) : Statement (.wreg a d) := of_four rfl (by first | exact encR_odd .. | exact encI_odd .. | exact encV_odd .. | exact encVB_odd .. | omega)
theorem wregFree (a d : Reg) : Statement (.wregFree a d) := of_four rfl (by first | exact encR_odd .. | exact encI_odd .. | exact encV_odd .. | exact encVB_odd .. | omega)
theorem wld (h : BitVec 10) (b a d : Reg) : Statement (.wld h b a d) := of_four rfl (by first | exact encR_odd .. | exact encI_odd .. | exact encV_odd .. | exact encVB_odd .. | omega)
theorem clmSt (h : BitVec 10) (b a d : Reg) : Statement (.clmSt h b a d) := of_four rfl (by first | exact encR_odd .. | exact encI_odd .. | exact encV_odd .. | exact encVB_odd .. | omega)
theorem clmObj (a : Reg) : Statement (.clmObj a) := of_four rfl (by first | exact encR_odd .. | exact encI_odd .. | exact encV_odd .. | exact encVB_odd .. | omega)
theorem clmLd (a d : Reg) : Statement (.clmLd a d) := of_four rfl (by first | exact encR_odd .. | exact encI_odd .. | exact encV_odd .. | exact encVB_odd .. | omega)
theorem clmRes (a d : Reg) : Statement (.clmRes a d) := of_four rfl (by first | exact encR_odd .. | exact encI_odd .. | exact encV_odd .. | exact encVB_odd .. | omega)
theorem clmGrp (a d : Reg) : Statement (.clmGrp a d) := of_four rfl (by first | exact encR_odd .. | exact encI_odd .. | exact encV_odd .. | exact encVB_odd .. | omega)
theorem svc (n : BitVec 12) : Statement (.svc n) := of_four rfl (by first | exact encR_odd .. | exact encI_odd .. | exact encV_odd .. | exact encVB_odd .. | omega)
theorem brk (n : BitVec 8) : Statement (.brk n) := of_four rfl (by first | exact encR_odd .. | exact encI_odd .. | exact encV_odd .. | exact encVB_odd .. | omega)
theorem sret (a h : Reg) : Statement (.sret a h) := of_four rfl (by first | exact encR_odd .. | exact encI_odd .. | exact encV_odd .. | exact encVB_odd .. | omega)
theorem rrec (n : BitVec 7) (h d : Reg) : Statement (.rrec n h d) := of_four rfl (by first | exact encR_odd .. | exact encI_odd .. | exact encV_odd .. | exact encVB_odd .. | omega)
theorem rrecW (n : BitVec 7) (h d : Reg) : Statement (.rrecW n h d) := of_four rfl (by first | exact encR_odd .. | exact encI_odd .. | exact encV_odd .. | exact encVB_odd .. | omega)
theorem tlbi (a : Reg) : Statement (.tlbi a) := of_four rfl (by first | exact encR_odd .. | exact encI_odd .. | exact encV_odd .. | exact encVB_odd .. | omega)
theorem tlbiVa (a v : Reg) : Statement (.tlbiVa a v) := of_four rfl (by first | exact encR_odd .. | exact encI_odd .. | exact encV_odd .. | exact encVB_odd .. | omega)
theorem mbox (a d : Reg) : Statement (.mbox a d) := of_four rfl (by first | exact encR_odd .. | exact encI_odd .. | exact encV_odd .. | exact encVB_odd .. | omega)
theorem brkCompact (n : BitVec 8) : Statement (.brkCompact n) := of_two rfl (by first | exact encC_even .. | omega)
theorem movCompact (a d : Reg) : Statement (.movCompact a d) := of_two rfl (by first | exact encC_even .. | omega)
theorem addCompact (a d : Reg) : Statement (.addCompact a d) := of_two rfl (by first | exact encC_even .. | omega)
theorem subCompact (a d : Reg) : Statement (.subCompact a d) := of_two rfl (by first | exact encC_even .. | omega)
theorem andCompact (a d : Reg) : Statement (.andCompact a d) := of_two rfl (by first | exact encC_even .. | omega)
theorem orCompact (a d : Reg) : Statement (.orCompact a d) := of_two rfl (by first | exact encC_even .. | omega)
theorem xorCompact (a d : Reg) : Statement (.xorCompact a d) := of_two rfl (by first | exact encC_even .. | omega)
theorem addiCompact (i : BitVec 6) (d : Reg) : Statement (.addiCompact i d) := of_two rfl (by first | exact encC_even .. | omega)
theorem liCompact (i : BitVec 6) (d : Reg) : Statement (.liCompact i d) := of_two rfl (by first | exact encC_even .. | omega)
theorem shliCompact (u : Fin 64) (d : Reg) : Statement (.shliCompact u d) := of_two rfl (by first | exact encC_even .. | omega)
theorem shriCompact (u : Fin 64) (d : Reg) : Statement (.shriCompact u d) := of_two rfl (by first | exact encC_even .. | omega)
theorem sraiCompact (u : Fin 64) (d : Reg) : Statement (.sraiCompact u d) := of_two rfl (by first | exact encC_even .. | omega)
theorem cmpCompact (a d : Reg) : Statement (.cmpCompact a d) := of_two rfl (by first | exact encC_even .. | omega)
theorem cmpiCompact (i : BitVec 6) (d : Reg) : Statement (.cmpiCompact i d) := of_two rfl (by first | exact encC_even .. | omega)
theorem ldN64Compact (p : Bool) (a d : Reg) : Statement (.ldN64Compact p a d) := of_two rfl (by first | exact encC_even .. | omega)
theorem stN64Compact (p : Bool) (a d : Reg) : Statement (.stN64Compact p a d) := of_two rfl (by first | exact encC_even .. | omega)
theorem ldN32Compact (p : Bool) (a d : Reg) : Statement (.ldN32Compact p a d) := of_two rfl (by first | exact encC_even .. | omega)
theorem stN32Compact (p : Bool) (a d : Reg) : Statement (.stN32Compact p a d) := of_two rfl (by first | exact encC_even .. | omega)
theorem cbzCompact (o : BitVec 6) (d : Reg) : Statement (.cbzCompact o d) := of_two rfl (by first | exact encC_even .. | omega)
theorem cbnzCompact (o : BitVec 6) (d : Reg) : Statement (.cbnzCompact o d) := of_two rfl (by first | exact encC_even .. | omega)
theorem bCompact (o : BitVec 10) : Statement (.bCompact o) := of_two rfl (by first | exact encC_even .. | omega)
theorem retCompact : Statement .retCompact := of_two rfl (by first | exact encC_even .. | omega)
theorem jrCompact (a : Reg) : Statement (.jrCompact a) := of_two rfl (by first | exact encC_even .. | omega)
theorem haltCompact : Statement .haltCompact := of_two rfl (by first | exact encC_even .. | omega)
theorem yieldCompact : Statement .yieldCompact := of_two rfl (by first | exact encC_even .. | omega)
theorem nopCompact : Statement .nopCompact := of_two rfl (by first | exact encC_even .. | omega)
theorem tstCompact (a d : Reg) : Statement (.tstCompact a d) := of_two rfl (by first | exact encC_even .. | omega)
theorem andnCompact (a d : Reg) : Statement (.andnCompact a d) := of_two rfl (by first | exact encC_even .. | omega)
theorem fmt (src dst : Ty) (sc : ScaleSrc) : Statement (.fmt src dst sc) := of_two rfl (by first | exact encC_even .. | omega)
theorem rpt (n : Fin 16) (f : Fin 8) (st : Fin 3) : Statement (.rpt n f st) := of_two rfl (by first | exact encC_even .. | omega)
theorem launchSubmit : Statement .launchSubmit := .inl rfl
theorem sowTaskMessage : Statement .sowTaskMessage := .inl rfl
theorem spawnAccept : Statement .spawnAccept := .inl rfl
theorem stintStart : Statement .stintStart := .inl rfl
theorem budgetExceeded : Statement .budgetExceeded := .inl rfl
theorem pass : Statement .pass := .inl rfl
theorem home : Statement .home := .inl rfl
theorem apply : Statement .apply := .inl rfl
theorem drop : Statement .drop := .inl rfl
theorem arrive : Statement .arrive := .inl rfl
theorem messageContextExecute : Statement .messageContextExecute := .inl rfl
theorem deliver : Statement .deliver := .inl rfl
theorem rnrRetry : Statement .rnrRetry := .inl rfl
theorem sweep : Statement .sweep := .inl rfl
theorem energyPeriodEnd : Statement .energyPeriodEnd := .inl rfl
theorem launchCompletion : Statement .launchCompletion := .inl rfl
theorem plotSuspend : Statement .plotSuspend := .inl rfl
theorem suspendImageTaken : Statement .suspendImageTaken := .inl rfl
theorem plotResume : Statement .plotResume := .inl rfl
theorem copyExecute : Statement .copyExecute := .inl rfl
theorem copyServiceAnswer : Statement .copyServiceAnswer := .inl rfl
theorem copyComplete : Statement .copyComplete := .inl rfl
theorem eteRetry : Statement .eteRetry := .inl rfl
theorem mxJobStart : Statement .mxJobStart := .inl rfl
theorem mxOperationExecute : Statement .mxOperationExecute := .inl rfl
theorem mxLatchAccept : Statement .mxLatchAccept := .inl rfl
theorem mxWaitTimeout : Statement .mxWaitTimeout := .inl rfl
theorem mxJobComplete : Statement .mxJobComplete := .inl rfl
theorem mxRelExecute : Statement .mxRelExecute := .inl rfl
theorem worldStoreArrive : Statement .worldStoreArrive := .inl rfl
theorem worldLoadArrive : Statement .worldLoadArrive := .inl rfl
theorem waitDeadline : Statement .waitDeadline := .inl rfl
theorem wcancelArrive : Statement .wcancelArrive := .inl rfl
theorem floorApply : Statement .floorApply := .inl rfl
theorem claimAnnounce : Statement .claimAnnounce := .inl rfl
theorem announcementArrive : Statement .announcementArrive := .inl rfl
theorem objectionArrive : Statement .objectionArrive := .inl rfl
theorem heartbeat : Statement .heartbeat := .inl rfl
theorem claimDecide : Statement .claimDecide := .inl rfl
theorem collContributionArrive : Statement .collContributionArrive := .inl rfl
theorem epochDeadline : Statement .epochDeadline := .inl rfl
theorem collResArrive : Statement .collResArrive := .inl rfl
theorem hostQueueEntryWrite : Statement .hostQueueEntryWrite := .inl rfl
theorem hqciWrite : Statement .hqciWrite := .inl rfl
theorem svqRead : Statement .svqRead := .inl rfl
theorem svrelWrite : Statement .svrelWrite := .inl rfl
theorem watchdogService : Statement .watchdogService := .inl rfl
theorem mbrelWrite : Statement .mbrelWrite := .inl rfl
theorem fwSwitch : Statement .fwSwitch := .inl rfl
theorem pfansWrite : Statement .pfansWrite := .inl rfl
theorem tlbinvWrite : Statement .tlbinvWrite := .inl rfl
theorem hostBar2Write : Statement .hostBar2Write := .inl rfl
theorem hostBar2Read : Statement .hostBar2Read := .inl rfl
theorem hostAtomicop : Statement .hostAtomicop := .inl rfl
theorem hostbeatWrite : Statement .hostbeatWrite := .inl rfl
theorem hostLost : Statement .hostLost := .inl rfl
theorem hostReturn : Statement .hostReturn := .inl rfl
theorem devctlRestart : Statement .devctlRestart := .inl rfl
theorem devctlTake : Statement .devctlTake := .inl rfl
theorem fwctlCommit : Statement .fwctlCommit := .inl rfl
theorem injArm : Statement .injArm := .inl rfl
theorem registerWrite : Statement .registerWrite := .inl rfl
theorem deviceStart : Statement .deviceStart := .inl rfl
theorem startTimeout : Statement .startTimeout := .inl rfl
theorem plotCreate : Statement .plotCreate := .inl rfl
theorem plotResize : Statement .plotResize := .inl rfl
theorem plotTeardown : Statement .plotTeardown := .inl rfl
theorem getVersion : Statement .getVersion := .inl rfl
theorem getCapabilities : Statement .getCapabilities := .inl rfl
theorem negotiateAlgorithms : Statement .negotiateAlgorithms := .inl rfl
theorem getDigests : Statement .getDigests := .inl rfl
theorem getCertificate : Statement .getCertificate := .inl rfl
theorem challenge : Statement .challenge := .inl rfl
theorem getMeasurements : Statement .getMeasurements := .inl rfl
theorem keyExchange : Statement .keyExchange := .inl rfl
theorem finish : Statement .finish := .inl rfl
theorem keyUpdate : Statement .keyUpdate := .inl rfl
theorem endSession : Statement .endSession := .inl rfl
theorem vendorDefined : Statement .vendorDefined := .inl rfl
theorem ideIntegrity : Statement .ideIntegrity := .inl rfl
theorem linkReplay : Statement .linkReplay := .inl rfl
theorem retrainBucketRefill : Statement .retrainBucketRefill := .inl rfl
theorem fabricAbortFlit : Statement .fabricAbortFlit := .inl rfl
theorem fabricRepeat : Statement .fabricRepeat := .inl rfl
theorem fabricPeerAccess : Statement .fabricPeerAccess := .inl rfl
theorem fabricSyncLoss : Statement .fabricSyncLoss := .inl rfl
theorem patrolScrub : Statement .patrolScrub := .inl rfl
theorem lifetimeCounterWrite : Statement .lifetimeCounterWrite := .inl rfl
theorem null : Statement .null := .inl rfl
theorem clmDeclare : Statement .clmDeclare := .inl rfl
theorem clmJoin : Statement .clmJoin := .inl rfl
theorem clmLeave : Statement .clmLeave := .inl rfl
theorem clmRemove : Statement .clmRemove := .inl rfl
theorem clmDissolve : Statement .clmDissolve := .inl rfl
theorem collAlloc : Statement .collAlloc := .inl rfl
theorem collFree : Statement .collFree := .inl rfl
theorem shape : Statement .shape := .inl rfl
theorem hostQueueDisable : Statement .hostQueueDisable := .inl rfl
theorem wprobeArrive : Statement .wprobeArrive := .inl rfl
theorem floorMasterArrive : Statement .floorMasterArrive := .inl rfl
theorem regionFreeApply : Statement .regionFreeApply := .inl rfl
theorem regionRegisterApply : Statement .regionRegisterApply := .inl rfl
theorem fabricSyncReturn : Statement .fabricSyncReturn := .inl rfl
theorem retrainingComplete : Statement .retrainingComplete := .inl rfl
theorem functionReset : Statement .functionReset := .inl rfl

end Sys2Proof.Laws.Length
end

