-- ==== Sys2Proof/Laws/Timing.lean ====
section
/-! SUPPORT. What the cycles of R163 and an armed injection of R397 add to an instruction: they touch no more than the state says here. -/
namespace Sys2Proof
open Machine

/-- The note of a result changes no other field of a core. -/
theorem noteResult_eq (c : Core) (i : Instr) : c.noteResult i = { c with ready := (c.noteResult i).ready } := by
  unfold Core.noteResult; split <;> rfl
/-- A next state comes of a next state: the note stops nothing. -/
theorem noted_next {s t : State} {i : Instr} {o : Out} (h : noted s i o = .next t) : ∃ u, o = .next u
    ∧ t = if retiredIn s u then u.modMe (·.noteResult i) else u := by
  unfold noted at h; split at h
  · exact ⟨_, rfl, (Host.Outcome.next.inj h).symm⟩
  · subst h; exact absurd rfl (by rename_i hn; exact hn _)
/-- An instruction that answers a next state still does so with its result noted. -/
theorem noted_of_next (s t : State) (i : Instr) : ∃ u, noted s i (.next t) = .next u := ⟨_, rfl⟩
/-- Where no injection is armed, no step meets one. -/
theorem struck_unarmed (s : State) (u : Option Nat) (o : Out) (h : s.dev.strikes = false) : struck s u o = o := by
  unfold struck; split
  · simp [h]
  · rfl
/-- An instruction whose core waits neither for a result nor for a bank runs, and its result is noted. -/
theorem runOne_runs (s : State) (p : Plot) (c : Core) (i : Instr) (n : Nat) (hr : c.awaitsResult i = false) (hb : bankBusy s p c i = false)
    (hs : s.dev.strikes = false) : runOne s p c i n = noted s i (exec i s) := by
  simp [runOne, hr, hb, hs]
/-- One that waits stalls for a cycle. -/
theorem runOne_stalls (s : State) (p : Plot) (c : Core) (i : Instr) (n : Nat) (h : (c.awaitsResult i || bankBusy s p c i) = true) :
    runOne s p c i n = upd s Core.stall := by
  unfold runOne; rw [if_pos h]

end Sys2Proof
end

