-- ==== Sys2Proof/Tests/Slice0.lean ====
section
/-! SUPPORT. The model's own tests: for each statement with hypotheses states and operands that meet them, a word of every instruction, an
ill-formed term for each rule, and single steps. -/
open Sys2Proof Sys2Proof.Machine

section

set_option maxRecDepth 100000
set_option exponentiation.threshold 600

/-! A small machine: one plot with one tile, two cores, one launch and one code object: at 0 `add g3, g1, g2`,
and the offset 0x40 for handler 0;
its first 64 KiB lead to its memory, the next to the host's. -/

def tMsg : Msg :=
  { src := 1, seq := 0, lid := 0, cls := 1, tag := ⟨1, 0, 0, 0, 0⟩, body := .task 0 0 0 0 0 0, acq := none }
def tStint : Stint := { lid := 0, trig := none, token := 0, commits := 0, icount := 0 }
def tCore : Core := { Core.init 0 with stint := some tStint, budget := 1000 }
def tLaunch : Launch :=
  { lid := 0, obj := 0, entry := 0, widths := [1], places := [0], extents := [1], pri := 1, det := false, ckind := 2, sbud := 0,
    dshape := 0, ebud := 0, args := [], ctgt := 0 }
def tObj : CodeObj := ⟨0, [0x81, 0x09, 0x01, 0x00] ++ List.replicate 12 0, [0x40], [], []⟩
def tTile : Tile :=
  { Tile.init 0 0 with tlb := [⟨0, 0x10000, 0, 0, true, true, false, 0⟩, ⟨0x10000, 0x10000, 0, 1, true, true, false, 0⟩] }
def tPlot (c : Core) : Plot :=
  { Plot.init 0 1 [0] 0x10000 0 0 with cores := [c, Core.init 1], launches := [tLaunch], objs := [tObj], tiles := [tTile] }
def tState (c : Core) : State := { State.reset with plots := [tPlot c] }

theorem at_tState (c : Core) : At (tState c) (tPlot c) c := ⟨rfl, rfl⟩

/-! For each statement with hypotheses, a state and operands that meet them, clause by clause. -/

theorem witness_IntegerResults : ∃ s p c, At s p c ∧ (c.r 2).toNat % 64 = 0 := ⟨_, _, _, at_tState tCore, by and_intros <;> first | rfl | decide⟩

theorem witness_MultiplyDivideAndBits :
    (∃ s p c, At s p c ∧ c.r 2 ≠ 0 ∧ (c.r 1).toInt = -2 ^ 63 ∧ (c.r 2).toInt = -1)
    ∧ ((5 : Byte).toNat % 128 = 5 ∧ (1 : Byte).toNat = 1 ∧ (0xF0 : Byte).toNat / 16 = 15)
    ∧ ((0 : Byte).toNat = 0 ∧ (0x20 : Byte).toNat / 16 < 3 ∧ (0x80 : Byte).toNat / 128 + 2 * ((0x20 : Byte).toNat % 8) ≠ 0) :=
  ⟨⟨_, _, _, at_tState ((tCore.setG 1 0x8000000000000000).setG 2 0xFFFFFFFFFFFFFFFF), by and_intros <;> first | rfl | decide⟩, by decide, by decide⟩

theorem witness_ConditionCodes : (0x91 : Byte).toNat % 128 = 17 ∧ 15 = (0x91 : Byte).toNat / 128 + 2 * ((0x07 : Byte).toNat % 8) := by decide

theorem witness_ComparisonFlags : ∃ s p c, At s p c ∧ c.r 1 = 0 := ⟨_, _, _, at_tState tCore, by and_intros <;> first | rfl | decide⟩

theorem witness_BranchResults :
    (∃ s p c, At s p c ∧ holds c.st .eq = true ∧ c.r 1 = 0) ∧ ∃ s p c, At s p c ∧ ¬holds c.st .eq = true ∧ c.r 1 ≠ 0 :=
  ⟨⟨_, _, _, at_tState { tCore with st := 0x100000 }, by and_intros <;> first | rfl | decide⟩, ⟨_, _, _, at_tState (tCore.setG 1 1), by and_intros <;> first | rfl | decide⟩⟩

theorem witness_StintEndsAndMigrates :
    (∃ s p c, At s p c ∧ c.job = none ∧ c.rc ≤ 1 ∧ c.noPlace 3 = false ∧ (c.r 1).toNat + 1 = p.cores.length ∧ p.cores.length ≤ 2 ^ 14)
    ∧ (∃ s p c, At s p c ∧ c.job = none ∧ c.lm.wf = true ∧ c.runq = [] ∧ c.back = none ∧ (∀ x ∈ c.slab, x.state = 0) ∧ c.placesUsed = 0)
    ∧ ∃ s p c, At s p c ∧ c.job = none ∧ c.lm.wf = true ∧ ¬∀ x ∈ c.slab, x.state = 0 :=
  ⟨⟨_, _, _, at_tState (tCore.setG 1 1), by and_intros <;> first | rfl | decide⟩, ⟨_, _, _, at_tState tCore, by and_intros <;> first | rfl | decide⟩,
   ⟨_, _, _, at_tState { tCore with slab := [{ state := 1 }] }, by and_intros <;> first | rfl | decide⟩⟩

theorem witness_SleepAndWake :
    (∃ s p c, At s p c ∧ s.cur.svc = false ∧ c.job = none ∧ c.rc ≤ 1 ∧ ((p.launch? c.lid).map (·.det)).getD false = c.det
        ∧ c.freeSlot = some 0 ∧ (c.q[(0 : QReg)].v = true ∧ (2 : BitVec 13).toNat ≤ 2 ^ c.q[(0 : QReg)].cnt)
        ∧ (c.r 1 = BitVec.ofNat 64 (fld (c.r 1) 17 0) ∧ fld (c.r 1) 17 0 % 4 = 0 ∧ fld (c.r 1) 17 0 + 4 = 0x38000))
    ∧ (∃ s p c, At s p c ∧ c.freeSlot = some 0 ∧ fld (c.r 0) 63 48 = 0 ∧ (c.r 0).toNat % 4 = 0
        ∧ ∃ l k p', translate p (tileOf c.cid) (c.r 0).toNat 0 = (.ok (l, k), p'))
    ∧ (∃ s p c, At s p c ∧ s.cur.svc = false ∧ c.freeSlot = some 0 ∧ c.job = none ∧ c.rc ≤ 1
        ∧ ¬((c.runq.length < 64 ∨ ((c.runq.drop 64).map Msg.units).sum + 1 ≤ 88) ∧ c.late = []))
    ∧ (∃ s p c k off x, At s p c ∧ c.lm.wf = true ∧ c.runq.length < 32 ∧ c.late = [] ∧ (∀ y z, x.how ≠ .mxStatus y z)
        ∧ k = LdKind.n8 ∧ myDecode s p c (c.r 1) k.size = .ok (c.cid, off) ∧ c.slab[0]? = some x ∧ x.state = 1 ∧ x.sleep = some (.lm 4 0) ∧ off < 4 + 4 ∧ 4 < off + k.size
        ∧ x.det = false ∧ 0 ≤ (BitVec.ofNat 32 ((c.lm.set off 0).num 4 4) - 0).toInt) :=
  ⟨⟨_, _, _, at_tState ((({ tCore with q := tCore.q.set 0 { base := 0, sz := 0, cnt := 1, v := true } } : Core).setG 1 0x37FFC)),
      by and_intros <;> first | rfl | decide⟩,
   ⟨_, _, _, at_tState tCore, by and_intros <;> first | rfl | decide, by and_intros <;> first | rfl | decide, by and_intros <;> first | rfl | decide, _, _, _, rfl⟩,
   ⟨_, _, _, at_tState { tCore with late := [{ dst := 0, msg := tMsg }] }, rfl, rfl, rfl, by decide, by decide⟩,
   ⟨_, _, _, .n8, 4, { state := 1, sleep := some (.lm 4 0) },
      at_tState { (tCore.setG 1 4) with slab := [{ state := 1, sleep := some (.lm 4 0) }] }, rfl, by decide, rfl,
      (fun _ _ h => nomatch h), rfl, rfl, rfl, rfl, rfl, by decide, by decide, rfl, by decide⟩⟩

/-- The service core of tile 0 runs. -/
def tService (c : Core) : State :=
  { (tState tCore) with plots := [(tPlot tCore).modTile 0 fun t => t.modSvc fun v => { v with ctx := c }], cur := ⟨0, true, 0⟩ }

def tGroup : Group :=
  { gid := 3, size := 1, w := 1000, d := 400, skew := 20, notice := none, span := false, tiers := 0,
    members := [⟨0, 0, 0, 0, 0, false, 0, none⟩] }
/-- Core 0 is the one member of group 3. -/
def tMember (c : Core) : State := { (tState c) with plots := [{ (tPlot c) with groups := [tGroup] }] }

theorem witness_SpecialRegisterReads :
    (∃ s p c x, At s p c ∧ p.launch? c.lid = some x ∧ memberOf p c.cid c.clg.toNat = none)
    ∧ (∃ s p c g, At s p c ∧ memberOf p c.cid c.clg.toNat = some g)
    ∧ ∃ s p c t, At s p c ∧ s.cur.svc = true ∧ p.tiles[s.cur.idx]? = some t :=
  ⟨⟨_, _, _, _, at_tState tCore, rfl, rfl⟩, ⟨tMember { tCore with clg := 3 }, _, _, _, ⟨rfl, rfl⟩, rfl⟩,
   ⟨tService (Core.init 0x3FFF), _, _, _, ⟨rfl, rfl⟩, rfl, rfl⟩⟩

theorem witness_SpecialRegisterWrites : (∃ s p c, At s p c ∧ (c.r 1).toNat < c.budget.toNat)
    ∧ ∃ s p c, At s p c ∧ s.cur.svc = true ∧ (0x805 : BitVec 12) ∈ [0x800, 0x801, 0x803, 0x805] :=
  ⟨⟨_, _, _, at_tState tCore, by and_intros <;> first | rfl | decide⟩, ⟨tService (Core.init 0x3FFF), _, _, ⟨rfl, rfl⟩, by and_intros <;> first | rfl | decide⟩⟩

/-- Each clause at an edge of its range: the last line of own LM, of the window, a core that does not exist, the first address past own LM,
one byte past the end, an odd address. -/
theorem witness_LmAddressDecode : ∃ p : Plot, p.cores.length ≤ 2 ^ 14
    ∧ (0x37FC0 : Word).toNat + 64 = 0x38000 ∧ (0x37FC0 : Word).toNat % 64 = 0
    ∧ (fld 0xF000000000077FFF 63 60 = 15 ∧ fld 0xF000000000077FFF 59 32 = 0 ∧ fld 0xF000000000077FFF 31 18 + 1 = p.cores.length
        ∧ fld 0xF000000000077FFF 17 0 + 1 = 0x38000)
    ∧ fld 0xF000000000080000 31 18 = p.cores.length
    ∧ ¬(0x40000 : Word).toNat < 0x40000 ∧ fld 0x40000 63 60 ≠ 15
    ∧ 0x38000 < (0x37FFF : Word).toNat + 2 ∧ (0x37FFD : Word).toNat + 2 ≤ 0x38000 ∧ (0x37FFD : Word).toNat % 2 ≠ 0
    ∧ fld 0xF000000000077FFD 17 0 + 2 ≤ 0x38000 ∧ fld 0xF000000000077FFD 17 0 % 2 ≠ 0 :=
  ⟨tPlot tCore, by and_intros <;> first | rfl | decide⟩

theorem witness_LocalAccess : ∃ s p c, At s p c ∧ c.wait = .none ∧ c.lm.wf = true ∧ myDecode s p c (c.r 1) 8 = .ok (c.cid, 0x37FF8)
    ∧ lmBad c 0x37FF8 8 = false :=
  ⟨_, _, _, at_tState (tCore.setG 1 0x37FF8), by and_intros <;> first | rfl | decide⟩

theorem witness_RemoteAccess :
    (∃ s p c w off, At s p c ∧ c.wait = .none ∧ c.mig = false ∧ c.det = false ∧ myDecode s p c (c.r 1) 8 = .ok (w, off) ∧ w ≠ c.cid)
    ∧ (∃ s p c, At s p c ∧ c.wait = .got [7])
    ∧ (∃ s p c w off, At s p c ∧ c.wait = .none ∧ c.mig = true ∧ c.job = none ∧ c.noPlace 3 = false ∧ myDecode s p c (c.r 1) 8 = .ok (w, off) ∧ w ≠ c.cid)
    ∧ ∃ s p c w off, At s p c ∧ myDecode s p c (c.r 1) 8 = .ok (w, off) ∧ w ≠ c.cid ∧ c.mig = true ∧ c.job = none ∧ c.noPlace 3 = false :=
  ⟨⟨_, _, _, 1, 0x37FF8, at_tState (tCore.setG 1 0xF000000000077FF8), by and_intros <;> first | rfl | decide⟩, ⟨_, _, _, at_tState { tCore with wait := .got [7] }, rfl⟩,
   ⟨_, _, _, 1, 0x37FF8, at_tState { (tCore.setG 1 0xF000000000077FF8) with st := 0x401000000 }, by and_intros <;> first | rfl | decide⟩,
   ⟨_, _, _, 1, 0x37FF8, at_tState { (tCore.setG 1 0xF000000000077FF8) with st := 0x401000000 }, by and_intros <;> first | rfl | decide⟩⟩

/-- A core with one slot waiting in ring 0. -/
def tRing : Core := { tCore with q := tCore.q.set 0 { base := 0, sz := 3, cnt := 1, v := true, head := 0, tail := 1 }, lm := [(0, 9)] }

/-- A vector operand from a register and from a ring, every lane type, no effect of the exceptions. -/
theorem witness_VectorOperands : (∃ s p c c' x, At s p c ∧ VbIs c (.reg 1) c' x ∧ Ty.f64.laneCode < 16 ∧ Ty.i8.laneCode < 16 ∧ Ty.i8.isInt = true
      ∧ c.stBits 37 37 = 0)
    ∧ ∃ s p c c' x, At s p c ∧ VbIs c (.ring 0 0) c' x ∧ Ty.bf16.laneCode < 16 ∧ c.stBits 37 37 = 0 :=
  ⟨⟨_, _, _, _, _, at_tState tCore, ⟨rfl, rfl⟩, by and_intros <;> first | rfl | decide⟩, ⟨_, _, _, _, _, at_tState tRing, ⟨rfl, by and_intros <;> first | rfl | decide, rfl, rfl⟩, by and_intros <;> first | rfl | decide⟩⟩
theorem witness_VectorArithmetic : ∃ s p c c' x, At s p c ∧ VbIs c (.ring 0 0) c' x ∧ Ty.bf16.laneCode < 16 ∧ c.stBits 37 37 = 0 :=
  witness_VectorOperands.2
theorem witness_VectorBitsAndLanes : ∃ s p c c' x, At s p c ∧ VbIs c (.reg 1) c' x ∧ Ty.f64.laneCode < 16 ∧ Ty.i8.laneCode < 16
    ∧ Ty.i8.isInt = true ∧ c.stBits 37 37 = 0 := witness_VectorOperands.1
theorem witness_VectorCompare : ((isNan (.nan false true) || isNan (extInt 0)) = true ∧ isNan (.inf true) = false ∧ isNan (.inf false) = false ∧ (0 : Nat) < 1 ∧ Ty.i8.isInt = true)
    ∧ ∃ s p c c' x, At s p c ∧ VbIs c (.ring 0 0) c' x ∧ Ty.bf16.laneCode < 16 ∧ c.stBits 37 37 = 0 :=
  ⟨by decide, witness_VectorOperands.2⟩
/-- Lanes that take part, of which one holds a signalling NaN; none. -/
theorem witness_VectorReduce : (∃ s p c, At s p c ∧ Ty.f16.laneCode < 16 ∧ Ty.n8.isInt = true ∧ (c.mask 1).getLsbD 0 = true
      ∧ (c.mask 1).getLsbD 1 = false ∧ isSig (readTy .f16 (lane c.v[(0 : VReg)] 16 0)) = true ∧ NoEffect c fun _ => True)
    ∧ ∃ s p c, At s p c ∧ ∀ j, j < Ty.f16.lanes → (c.mask 1).getLsbD j = false :=
  ⟨⟨_, _, _, at_tState { tCore with k := tCore.k.set 1 1, v := tCore.v.set 0 0x7C01 }, by decide, rfl, rfl, rfl, rfl, .inl rfl⟩,
   ⟨_, _, _, at_tState tCore, by and_intros <;> first | rfl | decide⟩⟩
/-- The last part of a widening and of a narrowing conversion, and a pending pair. -/
theorem witness_VectorConvert : (7 * min (512 / Ty.f64.width) (512 / Ty.i8.width) < max (512 / Ty.f64.width) (512 / Ty.i8.width)
      ∧ ∃ s p c, At s p c ∧ c.pp = false ∧ c.stBits 37 37 = 0)
    ∧ ∃ s p c, At s p c ∧ c.pp = true ∧ c.pf.width ∈ [8, 16, 32, 64] ∧ c.pd.width ∈ [8, 16, 32, 64] ∧ c.stBits 37 37 = 0 :=
  ⟨⟨by and_intros <;> first | rfl | decide, _, _, _, at_tState tCore, by and_intros <;> first | rfl | decide⟩, ⟨_, _, _, at_tState { tCore with st := 0x1000021 }, by and_intros <;> first | rfl | decide⟩⟩
theorem witness_RingSum : (∃ s p c, At s p c ∧ Ty.f32.laneCode < 16 ∧ c.q[(0 : QReg)].v = true
      ∧ 1 ≤ (c.q[(0 : QReg)].tail - c.q[(0 : QReg)].head).toNat ∧ c.wait = .none ∧ c.stBits 37 37 = 0
      ∧ (BitVec.ofNat 512 (leNat (ringHead c.lm c.q[(0 : QReg)] 64))).getLsbD 63 = false)
    ∧ ∃ s p c acc, At s p c ∧ c.wait = .accum acc ∧ 1 ≤ (c.q[(0 : QReg)].tail - c.q[(0 : QReg)].head).toNat
      ∧ (BitVec.ofNat 512 (leNat (ringHead c.lm c.q[(0 : QReg)] 64))).getLsbD 63 = true :=
  ⟨⟨_, _, _, at_tState tRing, by decide⟩, ⟨_, _, _, 5, at_tState { tRing with wait := .accum 5, lm := [(7, 0x80)] }, rfl, by decide, by decide⟩⟩

/-- A format prefix with a block and a split scale is pending. -/
def tBlk : Core := { tCore with st := 0x1000001 ||| BitVec.ofNat 64 (2 * Ty.blk4.fmtCode + 32 * Ty.blk4.fmtCode + 512 * ScaleSrc.split.code) }
theorem eight {P : Nat → Prop} (h0 : P 0) (h1 : P 1) (h2 : P 2) (h3 : P 3) (h4 : P 4) (h5 : P 5) (h6 : P 6) (h7 : P 7) :
    ∀ j, j < 8 → P j := by
  intro j hj
  obtain rfl | rfl | rfl | rfl | rfl | rfl | rfl | rfl : j = 0 ∨ j = 1 ∨ j = 2 ∨ j = 3 ∨ j = 4 ∨ j = 5 ∨ j = 6 ∨ j = 7 := by omega
  all_goals assumption
theorem witness_VectorLoads :
    (∃ s p c, At s p c ∧ vecOwn s p c (c.rn 0) (spanOf c (memFmt c true .i32) .i32) (memAlign (memFmt c true .i32)) = .ok 0x37FC0
      ∧ scaleBad c (memFmt c true .i32) true = none ∧ (∀ j, j < Ty.i32.lanes → lmBad c (0x37FC0 + 4 * j) 4 = false) ∧ c.stBits 37 37 = 0)
    ∧ (∃ s p c, At s p c ∧ memFmt c true .i32 = .blk4 ∧ splitScale c .blk4 = true
        ∧ vecOwn s p c (c.rn 0) (spanOf c .blk4 .i32) (memAlign .blk4) = .ok 0 ∧ scaleBad c .blk4 true = none)
    ∧ (∃ s p c, At s p c ∧ memFmt c true .i64 ≠ .blk4
        ∧ (∀ j, j < Ty.i64.lanes → vecOwn s p c (c.rn 0 + BitVec.ofNat 64 j * c.rn 1) 8 8 = .ok (8 * j)
            ∧ vecOwn s p c (indexEa (c.rn 0) c.v[(0 : VReg)] .i64 .i64 j) 8 8 = .ok 0 ∧ lmBad c (8 * j) 8 = false))
    ∧ ∃ s p c, At s p c ∧ c.ba true + Ty.i32.lanes * 32 = 0x1C0000 ∧ memFmt c true .i32 ≠ .blk4 :=
  ⟨⟨_, _, _, at_tState (tCore.setG 0 0x37FC0), by and_intros <;> first | rfl | decide⟩, ⟨_, _, _, at_tState tBlk, by and_intros <;> first | rfl | decide⟩,
   ⟨_, _, _, at_tState (tCore.setG 1 8), by decide, eight ⟨rfl, rfl, rfl⟩ ⟨rfl, rfl, rfl⟩ ⟨rfl, rfl, rfl⟩ ⟨rfl, rfl, rfl⟩ ⟨rfl, rfl, rfl⟩
      ⟨rfl, rfl, rfl⟩ ⟨rfl, rfl, rfl⟩ ⟨rfl, rfl, rfl⟩⟩,
   ⟨_, _, _, at_tState { tCore with ba1 := 0x1BFE00 }, by and_intros <;> first | rfl | decide⟩⟩
theorem witness_VectorStores :
    (∃ s p c, At s p c ∧ c.lm.wf = true ∧ c.stBits 37 37 = 0 ∧ scaleBad c (memFmt c false .i32) false = none
        ∧ vecOwn s p c (c.rn 0) (spanOf c (memFmt c false .i32) .i32) (memAlign (memFmt c false .i32)) = .ok 0x37FC0)
    ∧ (∃ s p c, At s p c ∧ c.lm.wf = true ∧ memFmt c false .i32 = .blk4 ∧ c.stBits 37 37 = 0
        ∧ vecOwn s p c (c.rn 0) (spanOf c .blk4 .i32) (memAlign .blk4) = .ok 0 ∧ scaleBad c .blk4 false = none)
    ∧ ∃ s p c, At s p c ∧ c.lm.wf = true ∧ memFmt c false .i64 ≠ .blk4
        ∧ ∀ j, j < Ty.i64.lanes → vecOwn s p c (c.rn 0 + BitVec.ofNat 64 j * c.rn 1) 8 8 = .ok 0
            ∧ vecOwn s p c (indexEa (c.rn 0) c.v[(0 : VReg)] .i64 .i64 j) 8 8 = .ok 0 :=
  ⟨⟨_, _, _, at_tState (tCore.setG 0 0x37FC0), by and_intros <;> first | rfl | decide⟩, ⟨_, _, _, at_tState tBlk, by and_intros <;> first | rfl | decide⟩,
   ⟨_, _, _, at_tState tCore, by decide, by decide, eight ⟨rfl, rfl⟩ ⟨rfl, rfl⟩ ⟨rfl, rfl⟩ ⟨rfl, rfl⟩ ⟨rfl, rfl⟩ ⟨rfl, rfl⟩ ⟨rfl, rfl⟩ ⟨rfl, rfl⟩⟩⟩

/-- The bytes of an access with their places, in device memory. -/
def tBytes (a n : Nat) : List (Nat × Loc × Bool) := (List.range n).map fun i => (a + i, .dev (a + i), false)

theorem witness_GlobalLoads :
    (∃ s p p' c t b, At s p c ∧ p.tiles[tileOf c.cid]? = some t ∧ t.toq = [] ∧ p.wq = [] ∧ c.ob = [] ∧ c.ct = [] ∧ lineOf 0xFFFF ∉ c.view
        ∧ loadByte s p c 0xFFFF (.dev 0xFFFF) false = some (b, p'))
    ∧ (∃ s p c b x, At s p c ∧ c.ct ++ c.ob = [] ++ [x] ∧ x.body = .store [⟨8, .dev 8, 7, 0xFF⟩] ∧ overlay c 8 b = 7)
    ∧ (∃ s p c p1 p2 bs got held, At s p c ∧ Mine s c ∧ c.wait = .fetch got none held ∧ loadFault p1 c (tBytes 0xFFF8 8) = none
        ∧ translateAll p (tileOf c.cid) 0 ((List.range 8).map fun i => (c.r 1).toNat + i) = (.ok (tBytes 0xFFF8 8), p1)
        ∧ loadBytes s c p1 (tBytes 0xFFF8 8) = some (bs, p2))
    ∧ ∃ s p c p1 p2 bs, At s p c ∧ Mine s c ∧ c.wait = .none ∧ fld (c.r 1) 63 48 = 0 ∧ (c.r 1).toNat + 8 = 0x10000
        ∧ (c.r 1).toNat % LdKind.n64.size = 0
        ∧ translateAll p (tileOf c.cid) 0 ((List.range 8).map fun i => (c.r 1).toNat + i) = (.ok (tBytes 0xFFF8 8), p1)
        ∧ loadFault p1 c (tBytes 0xFFF8 8) = none ∧ hostAway s p1 c (tBytes 0xFFF8 8) = false
        ∧ loadBytes s c p1 (tBytes 0xFFF8 8) = some (bs, p2) :=
  ⟨⟨_, _, _, _, _, _, at_tState tCore, rfl, rfl, rfl, rfl, rfl, by decide, rfl⟩,
   ⟨_, _, _, 0, _, at_tState { tCore with ob := [{ tag := tCore.tag, body := .store [⟨8, .dev 8, 7, 0xFF⟩] }] }, rfl, rfl, rfl⟩,
   ⟨_, _, _, _, _, _, [], [], at_tState { (tCore.setG 1 0xFFF8) with wait := .fetch [] none [] }, ⟨rfl, rfl⟩, rfl, rfl, rfl, rfl⟩,
   ⟨_, _, _, _, _, _, at_tState (tCore.setG 1 0xFFF8), ⟨rfl, rfl⟩, rfl, rfl, rfl, rfl, rfl, rfl, rfl, rfl⟩⟩

theorem witness_GlobalStores : ∃ s p c p1, At s p c ∧ Mine s c ∧ fld (c.r 1) 63 48 = 0 ∧ (c.r 1).toNat + 8 = 0x10000
    ∧ (c.r 1).toNat % LdKind.n64.size = 0
    ∧ translateAll p (tileOf c.cid) 1 ((List.range 8).map fun i => (c.r 1).toNat + i) = (.ok (tBytes 0xFFF8 8), p1) :=
  ⟨_, _, _, _, at_tState (tCore.setG 1 0xFFF8), ⟨rfl, rfl⟩, rfl, rfl, rfl, rfl⟩

/-- Lane 0 of predicate k1 alone. -/
def tOne : Core := { tCore with k := tCore.k.set 1 1 }
theorem witness_GlobalVectorLoads : (∃ s p c p1 p2 bs, At s p c ∧ Mine s c ∧ c.wait = .none ∧ Ty.i64.laneCode < 16 ∧ c.stBits 37 37 = 0
      ∧ scaleBad c (memFmt c true .i64) true = none
      ∧ runCheck p c (memFmt c true .i64) (c.r 1) (computed c 1 .i64) 0 = (.ok (tBytes 0xFFF8 8), p1)
      ∧ loadFault p1 c (tBytes 0xFFF8 8) = none ∧ hostAway s p1 c (tBytes 0xFFF8 8) = false
      ∧ loadBytes s c p1 (tBytes 0xFFF8 8) = some (bs, p2))
    ∧ ∃ s p c p1, At s p c ∧ Mine s c ∧ memFmt c true .i64 ≠ .blk4
      ∧ scatCheck p c 8 (indexEa (c.r 1) c.v[(0 : VReg)] .i64 .i64) 0 (computed c 1 .i64) = (.ok (tBytes 0xFFF8 8), p1) :=
  ⟨⟨_, _, _, _, _, _, at_tState (tOne.setG 1 0xFFF8), ⟨rfl, rfl⟩, rfl, by decide, rfl, rfl, rfl, rfl, rfl, rfl⟩,
   ⟨_, _, _, _, at_tState (tOne.setG 1 0xFFF8), ⟨rfl, rfl⟩, by decide, rfl⟩⟩
theorem witness_GlobalVectorStores : (∃ s p c p1, At s p c ∧ Mine s c ∧ c.noPlace 1 = false ∧ c.stBits 37 37 = 0
      ∧ scaleBad c (memFmt c false .i64) false = none ∧ ¬splitScale c (memFmt c false .i64) = true
      ∧ runCheck p c (memFmt c false .i64) (c.r 1) (computed c 1 .i64) 1 = (.ok (tBytes 0xFFF8 8), p1))
    ∧ (∃ s p c p1 xs, At s p c ∧ Mine s c ∧ c.noPlace 1 = false ∧ c.stBits 37 37 = 0 ∧ memFmt c false .i32 = .blk4
      ∧ splitScale c .blk4 = true ∧ scaleBad c .blk4 false = none ∧ NoSleeper c ∧ c.lm.wf = true
      ∧ runCheck p c .blk4 (c.r 1) (computed c 0 .i32) 1 = (.ok xs, p1))
    ∧ ∃ s p c p1, At s p c ∧ Mine s c ∧ memFmt c false .i64 ≠ .blk4
      ∧ scatCheck p c 8 (indexEa (c.r 1) c.v[(0 : VReg)] .i64 .i64) 1 (computed c 1 .i64) = (.ok (tBytes 0xFFF8 8), p1) :=
  ⟨⟨_, _, _, _, at_tState (tOne.setG 1 0xFFF8), ⟨rfl, rfl⟩, rfl, rfl, rfl, by decide, rfl⟩,
   ⟨_, _, _, _, _, at_tState tBlk, ⟨rfl, rfl⟩, rfl, rfl, rfl, rfl, rfl, by unfold NoSleeper; decide, rfl, rfl⟩,
   ⟨_, _, _, _, at_tState (tOne.setG 1 0xFFF8), ⟨rfl, rfl⟩, by decide, rfl⟩⟩

theorem witness_AtomicsOnLm : (2 ^ 32 - 1 < 2 ^ 32 ∧ 0x7F800000 < 0xFFC00000 % 2 ^ 31 ∧ 0xFF800000 % 2 ^ 31 = 0x7F800000 ∧ 0xFF7FFFFF % 2 ^ 31 < 0x7F800000)
    ∧ ∃ s p c, At s p c ∧ c.lm.wf = true ∧ c.wait = .none ∧ myDecode s p c (c.r 1) 8 = .ok (c.cid, 0x37FF8) ∧ lmBad c 0x37FF8 8 = false :=
  ⟨by decide, _, _, _, at_tState (tCore.setG 1 0x37FF8), rfl, rfl, rfl, rfl⟩
theorem witness_AtomicsAway :
    (∃ s p c rest p1, At s p c ∧ Mine s c ∧ c.wait = .none
        ∧ globalCheck p c (c.r 1) 8 2 0x35 = (.ok ((0xFFF8, .dev 0xFFF8, false) :: rest), p1))
    ∧ (∃ s p c rest p1, At s p c ∧ Mine s c ∧ c.wait = .none
        ∧ globalCheck p c (c.r 1) 8 2 0x35 = (.ok ((0x10000, .host 0, false) :: rest), p1))
    ∧ (∃ s p c, At s p c ∧ Mine s c ∧ myDecode s p c (c.r 1) 8 = .ok (1, 0x37FF8) ∧ (1 : CoreId) ≠ c.cid ∧ c.mig = false ∧ c.det = false
        ∧ c.wait = .none)
    ∧ ∃ s p c, At s p c ∧ Mine s c ∧ c.wait = .got [7] :=
  ⟨⟨_, _, _, _, _, at_tState (tCore.setG 1 0xFFF8), ⟨rfl, rfl⟩, rfl, rfl⟩, ⟨_, _, _, _, _, at_tState (tCore.setG 1 0x10000), ⟨rfl, rfl⟩, rfl, rfl⟩,
   ⟨_, _, _, at_tState (tCore.setG 1 0xF000000000077FF8), ⟨rfl, rfl⟩, rfl, by decide, rfl, rfl, rfl⟩,
   ⟨_, _, _, at_tState { tCore with wait := .got [7] }, ⟨rfl, rfl⟩, rfl⟩⟩

theorem witness_Fences : ∃ s p c, At s p c ∧ c.wait = .none ∧ Scope.tile ≠ .core
    ∧ notPerformed p { c.commit with wait := .begun } c.ord .system = false :=
  ⟨_, _, _, at_tState tCore, rfl, by decide, rfl⟩

/-- A field in one 8-byte word, at the end of LM, and one in two, before its first word and after it. -/
theorem witness_BitAccess :
    (∃ s p c, At s p c ∧ c.wait = .none ∧ c.lm.wf = true ∧ c.ba0.toNat + 64 = 0x1C0000 ∧ 64 ≤ 64 - c.ba0.toNat % 64
        ∧ lmBad c (c.ba0.toNat / 8) ((c.ba0.toNat % 8 + 64 + 7) / 8) = false)
    ∧ (∃ s p c, At s p c ∧ c.lm.wf = true ∧ c.wait = .none ∧ c.ba1.toNat + 2 = 0x1C0000 - 63 ∧ 64 - c.ba1.toNat % 64 < 2
        ∧ lmBad c (c.ba1.toNat / 8) ((c.ba1.toNat % 8 + 1 + 7) / 8) = false)
    ∧ ∃ s p c, ∃ y : Word, At s p c ∧ c.lm.wf = true ∧ c.wait = .half y ∧ y.toNat < 2 ^ (64 - c.ba1.toNat % 64) ∧ 64 - c.ba1.toNat % 64 < 2
        ∧ c.ba1.toNat + 2 ≤ 0x1C0000
        ∧ lmBad c ((c.ba1.toNat + 1) / 8) (((c.ba1.toNat + 1) % 8 + 1 + 7) / 8) = false :=
  ⟨⟨_, _, _, at_tState { tCore with ba0 := 0x1BFFC0 }, rfl, rfl, rfl, by decide, rfl⟩,
   ⟨_, _, _, at_tState { tCore with ba1 := 0x1BFFBF }, rfl, rfl, rfl, by decide, rfl⟩,
   ⟨_, _, _, 1, at_tState { tCore with ba1 := 63, wait := .half 1 }, rfl, rfl, by decide, by decide, by decide, rfl⟩⟩

/-- Ring 0 with two slots, of which `n` are full, and 1 in g1. -/
def tFilled (n : BitVec 32) : Core := { tRing with q := tRing.q.set 0 { tRing.q[0] with head := 0, tail := n } }.setG 1 1
/-- An image in LM of a descriptor that is set, of 64-byte slots that end with user LM, one of which waits; and one of an unset one. -/
theorem witness_Rings :
    (∃ s p c, At s p c ∧ (c.r 1).toNat + 16 ≤ 0x38000 ∧ (c.r 1).toNat % 8 = 0 ∧ lmBad c (c.r 1).toNat 16 = false
        ∧ (c.lm.word 0).getLsbD 63 = true ∧ fld (c.lm.word 0) 20 18 = 3 ∧ fld (c.lm.word 0) 24 21 = 1 ∧ fld (c.lm.word 0) 62 25 = 0
        ∧ fld (c.lm.word 0) 17 0 % (8 * 2 ^ 3) = 0 ∧ ((c.lm.word 8 >>> 32).toNat + 2 ^ 32 - (c.lm.word 8).toNat % 2 ^ 32) % 2 ^ 32 ≤ 2 ^ 1
        ∧ fld (c.lm.word 0) 17 0 + 2 ^ 1 * (8 * 2 ^ 3) = 0x38000)
    ∧ (∃ s p c, At s p c ∧ (c.r 1).toNat + 16 = 0x38000 ∧ lmBad c (c.r 1).toNat 16 = false ∧ (c.lm.word (c.r 1).toNat).getLsbD 63 = false)
    ∧ (∃ s p c, At s p c ∧ c.lm.wf = true ∧ c.q[(0 : QReg)].v = true
        ∧ (c.q[(0 : QReg)].tail - c.q[(0 : QReg)].head).toNat + 1 = 2 ^ c.q[(0 : QReg)].cnt ∧ ((c.r 1).setWidth 32).toNat = 1
        ∧ (0 : Fin 4).val + 1 ≤ (c.q[(0 : QReg)].tail - c.q[(0 : QReg)].head).toNat)
    ∧ (∃ s p c, At s p c ∧ c.q[(0 : QReg)].v = true ∧ c.q[(0 : QReg)].fill = 0 ∧ 0 < ((c.r 1).setWidth 32).toNat)
    ∧ (∃ s p c, At s p c ∧ c.q[(0 : QReg)].v = true ∧ c.q[(0 : QReg)].fill = 2 ^ c.q[(0 : QReg)].cnt)
    ∧ ∃ s p c, At s p c ∧ c.lm.wf = true ∧ c.q[(0 : QReg)].v = false :=
  ⟨⟨_, _, _, at_tState { tCore with lm := [(0, 0x80), (1, 0x7F), (2, 0x2F), (7, 0x80), (12, 1)] }, by and_intros <;> first | rfl | decide⟩,
   ⟨_, _, _, at_tState (tCore.setG 1 0x37FF0), by and_intros <;> first | rfl | decide⟩,
   ⟨_, _, _, at_tState (tRing.setG 1 1), by and_intros <;> first | rfl | decide⟩,
   ⟨_, _, _, at_tState (tFilled 0), by and_intros <;> first | rfl | decide⟩,
   ⟨_, _, _, at_tState (tFilled 2), by and_intros <;> first | rfl | decide⟩, ⟨_, _, _, at_tState tCore, rfl, rfl⟩⟩

theorem witness_SendTask : ∃ s p c, At s p c ∧ c.noPlace 1 = false ∧ p.cores.length ≤ 2 ^ 14 ∧ (c.r 1).toNat + 1 = p.cores.length
    ∧ p.handler c.obj.toNat 0 = some 0x40 := ⟨_, _, _, at_tState (tCore.setG 1 1), rfl, by decide, rfl, rfl⟩

/-- Host queue 0 is enabled, its entries at the host's first page. -/
def tHq (c : Core) : State :=
  { (tState c) with plots := [{ (tPlot c) with hqs := [{ base := 0x8004000000010000 }] }] }
theorem witness_OtherSends :
    (∃ s p c q p1 x, At s p c ∧ Mine s c ∧ c.noPlace 1 = false ∧ p.hqs[0]? = some q ∧ q.ok = true
        ∧ hostPage p (tileOf c.cid) (fld q.base 47 0) = (some x, p1) ∧ fld q.pia 47 0 = 0)
    ∧ (∃ s p c, At s p c ∧ c.noPlace 1 = false ∧ p.cores.length ≤ 2 ^ 14 ∧ (c.r 1).toNat < p.cores.length
        ∧ ((List.range 48).filter fun i => (c.r 1).getLsbD (16 + i)) = [])
    ∧ (∃ s p c, At s p c ∧ c.noPlace 1 = false
        ∧ (((List.range 48).filter fun i => (c.r 1).getLsbD (16 + i)).map fun i => fld (c.r 1) 13 0 + i) = [0, 1] ∧ fld (c.r 1) 15 14 < 2
        ∧ (∀ m ∈ [0, 1], m < p.cores.length) ∧ p.handler c.obj.toNat 0 = some 0x40
        ∧ (c.r 2).toNat + 8 = 0x38000 ∧ (c.r 2).toNat % 8 = 0)
    ∧ ∃ s p c, At s p c ∧ c.noPlace 1 = false ∧ (c.r 1).toNat + 64 = 0x38000 ∧ (c.r 1).toNat % 8 = 0 ∧ lmBad c (c.r 1).toNat 64 = false :=
  ⟨⟨tHq tCore, _, _, _, _, 0, ⟨rfl, rfl⟩, ⟨rfl, rfl⟩, rfl, rfl, rfl, rfl, rfl⟩,
   ⟨_, _, _, at_tState tCore, rfl, by decide, by decide, rfl⟩,
   ⟨_, _, _, at_tState ((tCore.setG 1 0x34000).setG 2 0x37FF8), rfl, rfl, by decide, by decide, rfl, rfl, rfl⟩,
   ⟨_, _, _, at_tState (tCore.setG 1 0x37FC0), rfl, rfl, rfl, rfl⟩⟩

def tSlot : SwSlot := ⟨0, 0, 0, 0, [0, 1], 1000, 0, none, 0, none, 0⟩
def tColl (c : Core) : State := { (tState c) with dev := { (tState c).dev with slots := [tSlot] } }
theorem witness_Collectives : (∃ s p c, At s p c ∧ collOk s p (c.r 1) true = true)
    ∧ ∃ s p c, At s p c ∧ collOk s p (c.r 1) false = true ∧ c.noPlace 1 = false ∧ (c.r 2).toNat + 16 = 0x38000 ∧ (c.r 2).toNat % 8 = 0
      ∧ p.handler c.obj.toNat 0 = some 0x40 :=
  ⟨⟨tColl tCore, _, _, ⟨rfl, rfl⟩, rfl⟩, ⟨tColl (tCore.setG 2 0x37FF0), _, _, ⟨rfl, rfl⟩, rfl, rfl, rfl, rfl, rfl⟩⟩

theorem witness_CopyAndJobStatus :
    (∃ s p c, At s p c ∧ endOf p c.cid c.cpsrc = some (.lm 0 0x37FFF) ∧ endOf p c.cid c.cpdst = some (.glob 0x40000)
        ∧ (End.lm 0 0x37FFF).near c.cid = true ∧ (End.glob 0x40000).near c.cid = true
        ∧ rowsFit (.lm 0 0x37FFF) c.cplen.toNat c.cpcnt.toNat c.cpstrs = true ∧ rowsFit (.glob 0x40000) c.cplen.toNat c.cpcnt.toNat c.cpstrd = true
        ∧ c.noPlace 2 = false ∧ c.xout.length < 16 ∧ c.cphdl.getLsbD 63 = false)
    ∧ (∃ s p c, At s p c ∧ c.cphdl.getLsbD 63 = true ∧ (blockOf p c (fld c.cphdl 17 0)).isSome = true)
    ∧ (∃ s p c, At s p c ∧ c.wait = .none ∧ (c.lid, (c.r 1).setWidth 16) ∉ c.xout ∧ (c.lid, (c.r 1).setWidth 16) ∉ c.jout
        ∧ (c.count c.lid).xdone.find? (fun x => x.1 == (c.r 1).setWidth 16) = some (0, 5)
        ∧ (c.count c.lid).jdone.find? (fun x => x.1 == (c.r 1).setWidth 16) = some (0, 6))
    ∧ (∃ s p c, At s p c ∧ c.wait = .none ∧ (c.lid, (c.r 1).setWidth 16) ∉ c.xout ∧ (c.lid, (c.r 1).setWidth 16) ∉ c.jout
        ∧ (∀ x ∈ (c.count c.lid).xdone, x.1 ≠ (c.r 1).setWidth 16) ∧ ∀ x ∈ (c.count c.lid).jdone, x.1 ≠ (c.r 1).setWidth 16)
    ∧ ∃ s p c, At s p c ∧ c.wait = .none ∧ (c.lid, (c.r 1).setWidth 16) ∈ c.jout ∧ c.det = false :=
  ⟨⟨_, _, _, at_tState { tCore with cpsrc := 0x37FFF, cpdst := 0x40000, cplen := 1, cpcnt := 1 }, by and_intros <;> first | rfl | decide⟩,
   ⟨_, _, _, at_tState { tCore with cphdl := 0x8000000000000000 }, rfl, rfl⟩,
   ⟨_, _, _, at_tState { tCore with counts := [{ lid := 0, xdone := [(0, 5)], jdone := [(0, 6)] }] }, by and_intros <;> first | rfl | decide⟩,
   ⟨_, _, _, at_tState tCore, rfl, by decide, by decide, fun x h => (nomatch (show x ∈ ([] : List (BitVec 16 × Word)) from h)),
    fun x h => (nomatch (show x ∈ ([] : List (BitVec 16 × Word)) from h))⟩,
   ⟨_, _, _, at_tState { tCore with jout := [(0, 0)] }, by and_intros <;> first | rfl | decide⟩⟩

/-- A job with accumulator 0 is open. -/
def tJob : Core := { tCore with job := some (1, []) }
theorem witness_MatrixJobs :
    (∃ s p c ops, At s p c ∧ c.job = some (1, ops) ∧ fld (c.r 1) 62 18 = 0 ∧ (c.r 1).getLsbD 63 = true
        ∧ (blockOf p c (fld (c.r 1) 17 0)).isSome = true ∧ c.jout.length < 4 ∧ (∃ o ∈ ops, o.namesF64 = true)
        ∧ ∀ o ∈ ops, o.mustName = true → o.namesF64 = true)
    ∧ (∃ s p c, At s p c ∧ c.job = none ∧ myDecode s p c (c.r 1) 8 = .ok (c.cid, 0x37FF8) ∧ lmBad c 0x37FF8 8 = false)
    ∧ (∃ s p c ops, At s p c ∧ c.job = some ((1 : BitVec 4), ops) ∧ ops.length < 32 ∧ (1 : BitVec 4).getLsbD (0 : Fin 4).val = true
        ∧ winOk p c (c.r 1) = true)
    ∧ (∃ s p c y, At s p c ∧ c.job = some (1, []) ∧ mxLm p c (c.r 1) 0 1 4 4 = .ok y)
    ∧ (∃ s p c y z, At s p c ∧ c.job = some (1, []) ∧ fld (c.r 2) 63 33 = 0 ∧ fld (c.r 2) 24 18 = 64 ∧ fld (c.r 2) 31 25 = 64
        ∧ mxEnd p c (c.r 0) 256 64 256 4 = .ok y ∧ mxEnd p c (c.r 0) 0 1 8 8 = .ok z ∧ fld (c.r 2) 17 0 = 256)
    ∧ (∃ s p c y, At s p c ∧ c.job = some (1, []) ∧ c.pp = true ∧ c.ps = .split ∧ c.pd = .blk4 ∧ c.ba1.toNat + 8 * (1 * 1) ≤ 0x1C0000
        ∧ mxLm p c (c.r 0) 16 1 16 1 = .ok y)
    ∧ (∃ s p c y, At s p c ∧ c.job = some (1, []) ∧ fld (c.r 0) 63 29 = 0 ∧ fld (c.r 0) 26 25 < 3 ∧ mxLm p c (c.r 0) 0 0 14 1 = .ok y)
    ∧ ∃ s p c y, At s p c ∧ c.job = some (1, []) ∧ fld (c.r 2) 63 37 = 0 ∧ fld (c.r 2) 27 18 = 64 ∧ fld (c.r 2) 36 28 = kcOf .f32
        ∧ mxLm p c (c.r 0) (fld (c.r 2) 17 0) 64 (kcOf .f32 * 4) (mxAlign .f32) = .ok y :=
  ⟨⟨_, _, _, [.mma 0 (some (.f64, .f64))], at_tState { (tCore.setG 1 0x8000000000000000) with job := some (1, [.mma 0 (some (.f64, .f64))]) },
      by and_intros <;> first | rfl | decide⟩,
   ⟨_, _, _, at_tState (tCore.setG 1 0x37FF8), rfl, rfl, rfl⟩,
   ⟨_, _, _, [], at_tState tJob, rfl, by decide, rfl, by decide⟩,
   ⟨_, _, _, _, at_tState tJob, rfl, rfl⟩,
   ⟨_, _, _, _, _, at_tState (tJob.setG 2 0x81000100), rfl, rfl, rfl, rfl, rfl, rfl, rfl⟩,
   ⟨_, _, _, _, at_tState { tBlk with job := some (1, []) }, rfl, rfl, rfl, rfl, by decide, rfl⟩,
   ⟨_, _, _, _, at_tState tJob, rfl, rfl, by decide, rfl⟩,
   ⟨_, _, _, _, at_tState (tJob.setG 2 (BitVec.ofNat 64 (256 + 2 ^ 18 * 64 + 2 ^ 28 * kcOf .f32))), by and_intros <;> first | rfl | decide⟩⟩

/-- A core with one frame at 0x100 of own LM, for effect 5, of a kind. -/
def tFrame (kind : BitVec 8) : Core :=
  { tCore with lm := [(0x100, 5)] ++ (if kind = 0 then [] else [(0x101, kind)]) ++ [(0x108, 0x40), (0x111, 1)], htop := 0x100 }
theorem witness_HandlerFrames : (∃ s p c, At s p c ∧ c.lm.wf = true ∧ 32 < (c.r 15).toNat ∧ (c.r 15).toNat + 8 = 0x38000 ∧ (c.r 15).toNat % 8 = 0
      ∧ p.handler c.obj.toNat 0 = some 0x40)
    ∧ ∃ s p c, At s p c ∧ c.lm.wf = true ∧ hoff c.htop = 0x100 ∧ hcid c.htop = c.cid.toNat ∧ c.r 15 = BitVec.ofNat 64 0x100
      ∧ lmBad c 0x100 32 = false ∧ (Frame.of ((List.range 4).map fun i => c.lm.word (0x100 + 8 * i))).ok c.cid.toNat 0x100 = true
      ∧ (Frame.of ((List.range 4).map fun i => c.lm.word (0x100 + 8 * i))).e = (5 : BitVec 12).toNat :=
  ⟨⟨_, _, _, at_tState (tCore.setG 15 0x37FF8), by and_intros <;> first | rfl | decide⟩,
   ⟨_, _, _, at_tState ((tFrame 0).setG 15 0x100), by and_intros <;> first | rfl | decide⟩⟩

theorem witness_EffectsPerformed :
    (∃ s p c f, At s p c ∧ s.cur.svc = false ∧ c.job = none ∧ c.rc ≤ 1 ∧ walk c.lm c.lmErr c.cid.toNat 5 1024 c.htop 0 = .found 0x100 f
        ∧ f.kind = 0 ∧ c.freeSlot = some 0 ∧ c.mask 0 ≠ 0)
    ∧ (∃ s p c f, At s p c ∧ walk c.lm c.lmErr c.cid.toNat 5 1024 c.htop 0 = .found 0x100 f ∧ f.kind = 2)
    ∧ (∃ s p c, At s p c ∧ walk c.lm c.lmErr c.cid.toNat 5 1024 c.htop 0 = .none) ∧ ∃ s p c, At s p c ∧ c.mask 1 = 0 :=
  ⟨⟨_, _, _, ⟨5, 0x40, 0x100, 0⟩, at_tState (tFrame 0), by and_intros <;> first | rfl | decide⟩,
   ⟨_, _, _, ⟨0x2005, 0x40, 0x100, 0⟩, at_tState (tFrame 0x20), by and_intros <;> first | rfl | decide⟩,
   ⟨_, _, _, at_tState tCore, rfl⟩, ⟨_, _, _, at_tState tCore, rfl⟩⟩

/-- A token of slot 0 of core 0 (ONCE), of core 1 (MANY), of a NONE frame. -/
theorem witness_TokenInstructions :
    (∃ s p c x, At s p c ∧ tokCurrent p c.lid (c.r 1) = true ∧ c.wait = .none ∧ (Tok.of (c.r 1)).cid = c.cid.toNat ∧ (Tok.of (c.r 1)).kind = 0
        ∧ c.slab[(Tok.of (c.r 1)).slot]? = some x ∧ x.gen = (Tok.of (c.r 1)).gen ∧ x.kind = 0 ∧ x.lid = c.lid ∧ x.state = 1 ∧ x.vec = false
        ∧ c.noPlace 0 = false)
    ∧ (∃ s p c x, At s p c ∧ tokCurrent p c.lid (c.r 1) = true ∧ c.slab[(Tok.of (c.r 1)).slot]? = some x ∧ x.state = 1 ∧ x.vec = true
        ∧ x.ltype = 15 ∧ c.noPlace 2 = false)
    ∧ (∃ s p c, At s p c ∧ tokCurrent p c.lid (c.r 1) = true ∧ c.wait = .none ∧ (Tok.of (c.r 1)).cid ≠ c.cid.toNat ∧ (Tok.of (c.r 1)).kind = 1
        ∧ c.det = false)
    ∧ (∃ s p c, At s p c ∧ tokCurrent p c.lid (c.r 1) = true ∧ c.wait = .got [0] ∧ (Tok.of (c.r 1)).cid ≠ c.cid.toNat ∧ c.noPlace 2 = false)
    ∧ (∃ s p c, At s p c ∧ tokCurrent p c.lid (c.r 1) = true ∧ (Tok.of (c.r 1)).kind = 2)
    ∧ (∃ s p c, At s p c ∧ tokCurrent p c.lid (c.r 1) = false)
    ∧ ∃ s p c x, At s p c ∧ tokCurrent p c.lid (c.r 1) = true ∧ c.slab[(Tok.of (c.r 1)).slot]? = some x ∧ x.state = 0 :=
  ⟨⟨_, _, _, { state := 1 }, at_tState { tCore with slab := [{ state := 1 }] }, by and_intros <;> first | rfl | decide⟩,
   ⟨_, _, _, { state := 1, vec := true }, at_tState { tCore with slab := [{ state := 1, vec := true }] }, by and_intros <;> first | rfl | decide⟩,
   ⟨_, _, _, at_tState (tCore.setG 1 0x80001), by and_intros <;> first | rfl | decide⟩,
   ⟨_, _, _, at_tState { (tCore.setG 1 1) with wait := .got [0] }, by and_intros <;> first | rfl | decide⟩,
   ⟨_, _, _, at_tState (tCore.setG 1 0x100000), by and_intros <;> first | rfl | decide⟩,
   ⟨_, _, _, at_tState (tCore.setG 1 2), by and_intros <;> first | rfl | decide⟩,
   ⟨_, _, _, {}, at_tState tCore, by and_intros <;> first | rfl | decide⟩⟩

/-- Region 1 at every router and TSE: keys of one word, two samples, one floor group besides group 0. -/
def tRegion : Region :=
  { rid := 1, sw := 1, ef := .f64, depth := 2, io := 0, xo := 0, ng := 1, keys := 16, lim := 0, dl := 0, floor0 := 0,
    at_ := List.range 16, routed := true }
def tRegions (c : Core) : State := { (tState c) with plots := [{ (tPlot c) with regions := [tRegion] }] }
theorem witness_WorldInstructions :
    (∃ s p c, At s p c ∧ c.wait = .none ∧ p.routed (fld (c.r 1) 43 32) = some tRegion ∧ c.det = false ∧ fld (c.r 1) 31 6 = 0 ∧ fld (c.r 1) 63 44 = 0
        ∧ fld (c.r 1) 5 0 = tRegion.ng)
    ∧ (∃ s p c, At s p c ∧ c.wait = .none ∧ p.routed (fld (c.r 1) 43 32) = some tRegion ∧ c.det = true)
    ∧ (∃ s p c, At s p c ∧ c.wait = .none ∧ c.det = false ∧ wKey p (c.r 1) = .ok tRegion)
    ∧ (∃ s p c, At s p c ∧ (c.r 1).toNat + 64 = 0x38000 ∧ (c.r 1).toNat % 8 = 0 ∧ lmBad c (c.r 1).toNat 64 = false
        ∧ regionOk ((List.range 8).map fun i => c.lm.word ((c.r 1).toNat + 8 * i)) = true)
    ∧ (∃ s p c, At s p c ∧ fld (c.r 1) 63 12 = 0 ∧ (p.routed (fld (c.r 1) 11 0)).isSome = true)
    ∧ (∃ s p c, At s p c ∧ c.wait = .got [1, 2])
    ∧ ∃ s p c, At s p c ∧ wKey p (c.r 1) = .ok tRegion ∧ wSource p c (c.r 2) tRegion.size = .ok 0x37FF8 ∧ lmBad c 0x37FF8 tRegion.size = false
        ∧ c.noPlace ((tRegion.size + 63) / 64) = false ∧ fld (c.r 3) 1 0 ≠ 3 ∧ 8 * fld (c.r 3) 17 3 + 8 + tRegion.size = 0x38000
        ∧ p.handler c.obj.toNat 0 = some 0x40 :=
  ⟨⟨tRegions (tCore.setG 1 0x100000001), _, _, ⟨rfl, rfl⟩, by and_intros <;> first | rfl | decide⟩,
   ⟨tRegions { (tCore.setG 1 0x100000001) with st := 0x300000000 }, _, _, ⟨rfl, rfl⟩, by and_intros <;> first | rfl | decide⟩,
   ⟨tRegions (tCore.setG 1 0x10000000F), _, _, ⟨rfl, rfl⟩, by and_intros <;> first | rfl | decide⟩,
   ⟨_, _, _, at_tState { (tCore.setG 1 0x37FC0) with lm := [(0x37FC0, 2), (0x37FC2, 1), (0x37FC3, 8), (0x37FC8, 1)] },
      by and_intros <;> first | rfl | decide⟩,
   ⟨tRegions (tCore.setG 1 1), _, _, ⟨rfl, rfl⟩, by and_intros <;> first | rfl | decide⟩,
   ⟨_, _, _, at_tState { tCore with wait := .got [1, 2] }, rfl⟩,
   ⟨tRegions (((tCore.setG 1 0x10000000F).setG 2 0x37FF8).setG 3 0x37FF0), _, _, ⟨rfl, rfl⟩, by and_intros <;> first | rfl | decide⟩⟩

def tClu : Tile := { tTile with clu := [⟨3, [], [⟨0x3000, 7, 0, []⟩], [⟨0x10003000, 0, 5⟩], [], [], [], [⟨0, 0, .join⟩], true⟩] }
/-- Core 0 is the one member of group 3, whose CLU knows a pending claim and a decided one. -/
def tClaims (c : Core) : State :=
  { (tState c) with plots := [{ (tPlot c) with groups := [tGroup], tiles := [tClu] }] }
def tMine : Member := ⟨0, 0, 0, 0, 0, false, 0, none⟩
theorem witness_ClaimInstructions :
    (∃ s p c, At s p c ∧ Mine s c ∧ (c.r 1).getLsbD 17 = false ∧ fld (c.r 1) 63 33 = 0 ∧ claimGroup p c (fld (c.r 1) 15 8) (c.r 1) true = .ok (tGroup, tMine)
        ∧ p.handler c.obj.toNat 0 = some 0x40 ∧ 8 * fld (c.r 1) 32 18 + 16 = 0x38000 ∧ claimsOpen p c tGroup.gid < 4 ∧ c.noPlace 1 = false)
    ∧ (∃ s p c, At s p c ∧ Mine s c ∧ fld (c.r 1) 63 60 = 0 ∧ claimGroup p c (fld (c.r 1) 19 12) (c.r 1) true = .ok (tGroup, tMine)
        ∧ c.wait = .none)
    ∧ (∃ s p c, At s p c ∧ Mine s c ∧ claimGroup p c (fld (c.r 1) 19 12) (c.r 1) true = .ok (tGroup, tMine) ∧ c.wait = .got [])
    ∧ (∃ s p c, At s p c ∧ Mine s c ∧ claimGroup p c (fld (c.r 1) 19 12) (c.r 1) true = .ok (tGroup, tMine) ∧ c.wait = .failed 0x80 0 0x3000)
    ∧ (∃ s p c r x, At s p c ∧ Mine s c ∧ claimGroup p c (fld (c.r 1) 19 12) (c.r 1) true = .ok (tGroup, tMine) ∧ c.wait = .begun
        ∧ p.replica? (tileOf c.cid) 3 = some r ∧ r.pending (c.r 1) = none ∧ (r.decided.take 1024).find? (fun x => x.ticket == c.r 1) = some x)
    ∧ (∃ s p c r, At s p c ∧ Mine s c ∧ c.wait = .begun ∧ p.replica? (tileOf c.cid) 3 = some r ∧ ∀ x ∈ r.decided.take 1024, x.ticket ≠ c.r 1)
    ∧ (∃ s p c, At s p c ∧ Mine s c ∧ (c.r 1).getLsbD 16 = false ∧ fld (c.r 1) 32 18 = 0 ∧ claimGroup p c (fld (c.r 1) 15 8) (c.r 1) true = .ok (tGroup, tMine))
    ∧ ∃ s p c, At s p c ∧ Mine s c ∧ claimGroup p c (fld (c.r 1) 7 0) (c.r 1) false = .ok (tGroup, tMine) ∧ c.wait = .begun :=
  ⟨⟨tClaims (tCore.setG 1 (BitVec.ofNat 64 (0x300 + 2 ^ 18 * 0x6FFE))), _, _, ⟨rfl, rfl⟩, ⟨rfl, rfl⟩, by and_intros <;> first | rfl | decide⟩,
   ⟨tClaims (tCore.setG 1 0x3000), _, _, ⟨rfl, rfl⟩, ⟨rfl, rfl⟩, by and_intros <;> first | rfl | decide⟩,
   ⟨tClaims { (tCore.setG 1 0x3000) with wait := .got [] }, _, _, ⟨rfl, rfl⟩, ⟨rfl, rfl⟩, rfl, rfl⟩,
   ⟨tClaims { (tCore.setG 1 0x3000) with wait := .failed 0x80 0 0x3000 }, _, _, ⟨rfl, rfl⟩, ⟨rfl, rfl⟩, rfl, rfl⟩,
   ⟨tClaims { (tCore.setG 1 0x10003000) with wait := .begun }, _, _, _, ⟨0x10003000, 0, 5⟩, ⟨rfl, rfl⟩, ⟨rfl, rfl⟩, rfl, rfl, rfl, rfl, rfl⟩,
   ⟨tClaims { (tCore.setG 1 0x3000) with wait := .begun }, _, _, _, ⟨rfl, rfl⟩, ⟨rfl, rfl⟩, rfl, rfl, by decide⟩,
   ⟨tClaims (tCore.setG 1 0x300), _, _, ⟨rfl, rfl⟩, ⟨rfl, rfl⟩, rfl, rfl, rfl⟩,
   ⟨tClaims { (tCore.setG 1 3) with wait := .begun }, _, _, ⟨rfl, rfl⟩, ⟨rfl, rfl⟩, rfl, rfl⟩⟩

theorem witness_ServiceException : ∃ s p c t, At s p c ∧ s.cur.svc = false ∧ p.tiles[s.cur.idx / 32]? = some t
    ∧ s.cur.idx % 32 < t.svc.slots.length := ⟨_, _, _, _, at_tState tCore, rfl, rfl, by decide⟩

def tRec : Rec := { g := Vector.replicate 16 0, pc := 0, st := 0x4001000000, wid := 0, htop := 0, vec := none }
/-- The service core of tile 0 holds a request of core 0, read from SVQ when `at_` says so. -/
def tServe (cause : Cause) (at_ : Option Nat) (c : Core) : State :=
  { (tService c) with plots := [(tPlot { tCore with hold := .service }).modTile 0 fun t => t.modSvc fun v =>
      { v with ctx := c, svq := (if at_.isNone then [0] else []), slots := v.slots.set 0 (some { rcd := tRec, cause := cause, addr := 0, info := 5, taken := at_ }) }] }
def tSvc : Core := Core.init 0x3000
theorem witness_ServiceReturn :
    (∃ s p c r x, At s p c ∧ s.cur.svc = true ∧ fld (c.r 0) 63 5 = 0 ∧ p.served s.cur.idx (fld (c.r 0) 4 0) = some r
        ∧ p.cores[32 * s.cur.idx + fld (c.r 0) 4 0]? = some x ∧ fld (c.r 1) 63 16 = 0 ∧ fld (c.r 1) 7 2 = 0 ∧ fld (c.r 1) 1 0 = 0)
    ∧ (∃ s p c, At s p c ∧ s.cur.svc = true ∧ fld (c.r 1) 1 0 = 1)
    ∧ ∃ s p c, At s p c ∧ s.cur.svc = true ∧ fld (c.r 1) 63 16 = 0 ∧ fld (c.r 1) 7 2 = 0 ∧ fld (c.r 1) 1 0 = 2 ∧ fld (c.r 1) 15 8 = 0xBF :=
  ⟨⟨tServe 0x0C (some 0) tSvc, _, _, _, _, ⟨rfl, rfl⟩, rfl, rfl, rfl, rfl, rfl, rfl, rfl⟩, ⟨tServe 0x0C (some 0) (tSvc.setG 1 1), _, _, ⟨rfl, rfl⟩, rfl, rfl⟩,
   ⟨tServe 0x0C (some 0) (tSvc.setG 1 0xBF02), _, _, ⟨rfl, rfl⟩, rfl, rfl, rfl, rfl, rfl⟩⟩

theorem witness_ServiceInstructions :
    (∃ s p c, At s p c ∧ s.cur.svc = false ∧ 0x800 ≤ (0x800 : BitVec 12).toNat)
    ∧ (∃ s p c t r, At s p c ∧ s.cur.svc = true ∧ p.tiles[s.cur.idx]? = some t ∧ fld (c.r 0) 63 5 = 0
        ∧ p.served s.cur.idx (fld (c.r 0) 4 0) = some r ∧ (87 : BitVec 7).toNat ≤ 87 ∧ r.rcd.vec = none ∧ fld (c.r 1) 63 48 = 0)
    ∧ (∃ s p c, At s p c ∧ s.cur.svc = true ∧ c.wait = .none ∧ fld (c.r 0) 63 4 = 0 ∧ fld (c.r 0) 63 48 = 0
        ∧ ((s.plot? (fld (c.r 0) 3 0)).map fun q => (q.dropTlb (tlbiKey s.cur.pid s.cur.idx) (some (c.r 0).toNat)).tlbQuiet (tlbiKey s.cur.pid s.cur.idx)).getD true = true)
    ∧ (∃ s p c t m, At s p c ∧ s.cur.svc = true ∧ p.tiles[s.cur.idx]? = some t ∧ s.dev.mboxes[t.num / 48]? = some m
        ∧ (c.r 1).toNat + 64 = 0x100000 ∧ (c.r 1).toNat % 64 = 0 ∧ ∀ x ∈ m.slots, x.1 ≠ 1536 + t.num % 48)
    ∧ (∃ s p c t m, At s p c ∧ s.cur.svc = true ∧ p.tiles[s.cur.idx]? = some t ∧ s.dev.mboxes[t.num / 48]? = some m
        ∧ ∃ x ∈ m.slots, x.1 = 1536 + t.num % 48)
    ∧ (∃ s p c t, At s p c ∧ s.cur.svc = true ∧ p.tiles[s.cur.idx]? = some t ∧ t.svc.svq = [] ∧ ∀ x ∈ p.cores, x.report = none)
    ∧ (∃ s p c t r, At s p c ∧ s.cur.svc = true ∧ p.tiles[s.cur.idx]? = some t ∧ t.svc.svq = [0] ∧ t.svc.slots[0]? = some (some r))
    ∧ ∃ s p c x, At s p c ∧ s.cur.svc = true ∧ p.cores[32 * s.cur.idx + fld (c.r 0) 4 0]? = some x ∧ x.hold = .svrel ∧ x.report = none
        ∧ (c.r 0).getLsbD 8 = false :=
  ⟨⟨_, _, _, at_tState tCore, rfl, by decide⟩, ⟨tServe 0x0C (some 0) tSvc, _, _, _, _, ⟨rfl, rfl⟩, rfl, rfl, rfl, rfl, by decide, rfl, rfl⟩,
   ⟨tService tSvc, _, _, ⟨rfl, rfl⟩, rfl, rfl, rfl, rfl, rfl⟩,
   ⟨tService (tSvc.setG 1 0xFFFC0), _, _, _, _, ⟨rfl, rfl⟩, rfl, rfl, rfl, rfl, rfl, by decide⟩,
   ⟨{ (tService tSvc) with dev := { mboxes := [⟨[(1536, { cause := 0, kind := 0 })], 0, 0, 0, []⟩] } }, _, _, _, _, ⟨rfl, rfl⟩, rfl, rfl, rfl, by decide⟩,
   ⟨tService tSvc, _, _, _, ⟨rfl, rfl⟩, rfl, rfl, rfl, by decide⟩, ⟨tServe 0x0C none tSvc, _, _, _, _, ⟨rfl, rfl⟩, rfl, rfl, rfl, rfl⟩,
   ⟨{ (tState { tCore with hold := .svrel }) with cur := ⟨0, true, 0⟩ }, _, _, _, ⟨rfl, rfl⟩, rfl, rfl, rfl, rfl, rfl⟩⟩

theorem witness_FormatAndRepeat : ∃ s p c, At s p c ∧ c.rc = 1 ∧ Ty.e5m2.fmtCode < 16 ∧ Ty.blk4.fmtCode < 16 :=
  ⟨_, _, _, at_tState { tCore with st := 0x1000800 }, by decide⟩

def tWord (w : Nat) : CodeObj := ⟨0, leBytes 4 w ++ List.replicate 12 0, [], [], []⟩
/-- Code of one word. -/
def tCode (w : Nat) (c : Core) : State := { (tState c) with plots := [{ (tPlot c) with objs := [tWord w] }] }
theorem witness_StepRunsDecoded :
    (∃ s p c, At s p c ∧ s.agenda = [] ∧ s.cur.svc = false ∧ c.hold = .free ∧ c.stint.isSome = true ∧ c.overrun = false ∧ c.searching = false
        ∧ p.fetchErr c (skipLen (leNat (fetch (codeOf s p c) c.off.toNat))) = none
        ∧ decode (fetch (codeOf s p c) c.off.toNat) = .ok (.add 3 1 2) 4 ∧ serviceOnly (.add 3 1 2) = false
        ∧ reservedHere (.add 3 1 2) c.pp c.pf c.pd = false ∧ c.pp = false ∧ c.rc = 0
        ∧ c.awaitsResult (.add 3 1 2) = false ∧ bankBusy s p c (.add 3 1 2) = false ∧ s.dev.strikes = false)
    ∧ (∃ s p c, At s p c ∧ s.agenda = [] ∧ decode (fetch (codeOf s p c) c.off.toNat) = .ok (.add 3 1 2) 4 ∧ c.rc = 0
        ∧ c.awaitsResult (.add 3 1 2) = true)
    ∧ (∃ c : Core, c.ready = [] ∧ c.stint.isSome = true ∧ c.cyc.toNat + 64 < 2 ^ 64)
    ∧ (∃ s p c, At s p c ∧ c.rc ≠ 0 ∧ decode (fetch (codeOf s p c) c.off.toNat) = .ok (.add 3 1 2) 4
        ∧ repeated c (codeOf s p c) (.add 3 1 2) = .ok (.add 3 1 2))
    ∧ (∃ s p c, At s p c ∧ decode (fetch (codeOf s p c) c.off.toNat) = .ok (.sret 0 0) 4 ∧ serviceOnly (.sret 0 0) = true ∧ s.cur.svc = false)
    ∧ (∃ s p c, At s p c ∧ decode (fetch (codeOf s p c) c.off.toNat) = .bad 0x00 false ∧ (0x00 : Cause) ≠ 0x05)
    ∧ (∃ s p c, At s p c ∧ s.agenda = [] ∧ s.cur.svc = true ∧ (svcOf p s.cur.idx).stopped = false
        ∧ c.fetchErr (skipLen (leNat (fetch (codeOf s p c) c.off.toNat))) = none)
    ∧ ∃ s : State, s.agenda = [.event .sweep {}] ∧ Instr.sweep.encoded = false ∧ s.dev.strikes = false :=
  ⟨⟨_, _, _, at_tState tCore, rfl, rfl, rfl, rfl, rfl, rfl, rfl, rfl, rfl, rfl, rfl, rfl, rfl, rfl, rfl⟩,
   ⟨_, _, _, at_tState { tCore with ready := [(2, 1)] }, rfl, rfl, rfl, rfl⟩, ⟨tCore, rfl, rfl, by decide⟩,
   ⟨_, _, _, at_tState { tCore with st := 0x1000800 }, by decide, rfl, rfl⟩, ⟨tCode 0x00010051 tCore, _, _, ⟨rfl, rfl⟩, rfl, rfl, rfl⟩,
   ⟨tCode 0x53 tCore, _, _, ⟨rfl, rfl⟩, rfl, by decide⟩, ⟨tService tSvc, _, _, ⟨rfl, rfl⟩, rfl, rfl, rfl, rfl⟩,
   ⟨{ State.reset with agenda := [.event .sweep {}] }, rfl, rfl, rfl⟩⟩

theorem witness_DecodeEncode : Instr.wellFormed (.add 3 1 2) = true ∧ Instr.encoded (.add 3 1 2) = true := ⟨rfl, rfl⟩
theorem witness_DecodeWellFormed : decode [0x81, 0x09, 0x01, 0x00] = .ok (.add 3 1 2) 4
    ∧ ((0x38 : Byte).getLsbD 0 = false ∧ 28 = (0x38 : Byte).toNat / 2 % 32) ∧ (0x2B : Byte).getLsbD 0 = true ∧ (0x2B : Byte).toNat / 2 % 64 = 0x15
    ∧ (0x53 : Byte).getLsbD 0 = true ∧ (0x53 : Byte).toNat / 2 % 64 = 0x29 := ⟨rfl, by decide⟩
theorem witness_MemOkKept : ∃ s t, MemOk s ∧ Machine.step s = .next t :=
  ⟨tState { tCore with lm := [(5, 1)] }, _, ⟨rfl, by decide, by decide⟩, rfl⟩
theorem witness_NeverStuck : (∃ s p c, At s p c ∧ s.agenda = [] ∧ Instr.nop.encoded = true) ∧ Instr.sweep.encoded = false :=
  ⟨⟨_, _, _, at_tState tCore, rfl, rfl⟩, rfl⟩
theorem witness_PlotIsolation : ∃ s t, s.cur.svc = false ∧ Instr.nop.encoded = true ∧ Machine.exec .nop s = .next t :=
  ⟨tState tCore, _, rfl, rfl, rfl⟩
theorem witness_AbortException :
    (∃ s p c x t, At s p c ∧ s.cur.svc = false ∧ c.stint = some x ∧ p.tiles[s.cur.idx / 32]? = some t ∧ t.svc.ringFull = false
        ∧ Cause.cls 0x00 = .a ∧ (0x00 : Cause) ≠ 0x23 ∧ x.commits = 0 ∧ c.r 2 = 0)
    ∧ ∃ s p c x m, At s p c ∧ c.stint = some x ∧ x.commits = 0 ∧ x.trig = some m :=
  ⟨⟨_, _, _, _, _, at_tState tCore, rfl, rfl, rfl, rfl, by decide, by decide, rfl, rfl⟩,
   ⟨_, _, _, _, tMsg, at_tState { tCore with stint := some { tStint with trig := some tMsg } }, rfl, rfl, rfl⟩⟩

/-! Events: a plot, and the event's operands. -/

def tEv (p : Plot) (e : EvArgs) (d : Device := {}) : State := { State.reset with plots := [p], ev := e, dev := d }
/-- A plot with a page table: the first gigabyte leads to its memory. -/
def tPaged : Plot := { (tPlot tCore) with ptrootEff := 0x1001, mem := [(0x1000, 0x01), (0x1001, 0x20), (0x2000, 0x0F)], launches := [] }
def tTag : Tag := ⟨0, 0, 0, 0, 0⟩
/-- A record of one item of object 0, of class 1, whose completion is a plain store to 0x8000; ARGS at 0x40. -/
def tRecord : List Word := [0, 1, 1, 0, 0, 9, 0x40, 0x8000]
/-- The plot with an idle core that has two messages, with a launch that is sown, ended, or suspended. -/
def tMsgs : Core := { Core.init 0 with runq := [{ tMsg with cls := 2, enq := 1 }, tMsg] }
theorem witness_LaunchEvents :
    (∃ s p args, On s p ∧ s.barOk p = true ∧ judgeRec s p (p.mailbox.set 7 s.ev.v) = (0, args))
    ∧ (∃ s p t ws args c, On s p ∧ p.spawns[s.ev.j]? = some (t, ws) ∧ ((p.spawns.take s.ev.j).any fun x => x.1.cid == t.cid) = false
        ∧ p.core? t.cid.toNat = some c ∧ notPerformed p c t.ord .package = false ∧ judgeRec s p ws = (0, args))
    ∧ (∃ s p l c, On s p ∧ p.sowing = some l ∧ p.core? (p.target l l.sown) = some c ∧ c.runq.length < 64 ∧ p.sows l = true
        ∧ p.imageReady l = true ∧ s.tdi p ≠ .error)
    ∧ (∃ s p c, On s p ∧ c ∈ p.cores ∧ c.back = none ∧ c.runq ≠ [] ∧ p.susp = .no)
    ∧ (∃ s p c m c1, On s p ∧ p.core? s.ev.c = some c ∧ c.hold = .free ∧ c.stint = none ∧ p.select c = some (m, c1)
        ∧ m.body = .task 0 0 0 0 0 0)
    ∧ (∃ s p c x t, On s p ∧ p.core? s.ev.c = some c ∧ c.stint = some x ∧ c.budget = 0 ∧ c.stBits 38 38 = 0 ∧ p.tiles[s.ev.c / 32]? = some t
        ∧ t.svc.ringFull = false)
    ∧ (∃ s p l, On s p ∧ p.launches = [l] ∧ l.det = false ∧ l.ended = false ∧ p.sweepAt + 2000 = s.dev.time)
    ∧ (∃ s p, On s p ∧ s.dev.time < p.sweepAt + 2000)
    ∧ (∃ s p, On s p ∧ s.dev.period < s.dev.time / 1000000)
    ∧ (∃ s p l loc e p', On s p ∧ p.launch? (BitVec.ofNat 16 s.ev.n) = some l ∧ l.ended = true ∧ p.openFor l.lid = false ∧ l.compl = false
        ∧ l.ckind.toNat ≤ 1 ∧ l.ctgt.toNat % 8 = 0 ∧ l.ctgt.toNat < 2 ^ 48 ∧ translate p noTile l.ctgt.toNat 1 = (.ok (loc, e), p')
        ∧ s.dev.hostlost = false ∧ p.parkHold = 0 ∧ p.park = [])
    ∧ (∃ s p, On s p ∧ p.susp = .no) ∧ (∃ s p, On s p ∧ p.susp = .pausing ∧ p.drained = true)
    ∧ ∃ s p img, On s p ∧ s.ev.n = s.ev.p ∧ p.image = some img ∧ img.cores.length ≤ p.cores.length ∧ p.torn = false
        ∧ ∀ r ∈ s.plots, ∀ w ∈ r.waiters, w.homeOf r.pid ≠ s.ev.p :=
  ⟨⟨tEv { tPaged with mailbox := [0, 1, 1, 0, 0, 9, 0x40, 0] } { v := 0x8000 }, _, [0, 0, 0, 0], rfl, rfl, by decide⟩,
   ⟨tEv { tPaged with spawns := [(tTag, tRecord)] } {}, _, tTag, tRecord, [0, 0, 0, 0], _, rfl, rfl, rfl, rfl, rfl, by decide⟩,
   ⟨tEv { (tPlot tCore) with launches := [{ tLaunch with widths := [1] }] } {}, _, _, _, rfl, rfl, rfl, by decide, rfl, rfl, by decide⟩,
   ⟨tEv (tPlot tMsgs) {}, _, tMsgs, rfl, by decide, rfl, by decide, rfl⟩,
   ⟨tEv (tPlot tMsgs) {}, _, _, tMsg, _, rfl, rfl, rfl, rfl, rfl, rfl⟩,
   ⟨tEv (tPlot { tCore with budget := 0 }) {}, _, _, _, _, rfl, rfl, rfl, rfl, rfl, rfl, rfl⟩,
   ⟨tEv (tPlot tCore) {} { time := 2000 }, _, _, rfl, rfl, rfl, rfl, rfl⟩, ⟨tEv (tPlot tCore) {} { time := 1999 }, _, rfl, by decide⟩,
   ⟨tEv (tPlot tCore) {} { time := 1000000 }, _, rfl, by decide⟩,
   ⟨tEv { tPaged with launches := [{ tLaunch with ended := true, sown := 1, ckind := 1, ctgt := 0x8000 }], cores := [Core.init 0] } {}, _, _, _, _, _, rfl, rfl, rfl, rfl, rfl,
      by decide, rfl, by decide, rfl, rfl, rfl, rfl⟩,
   ⟨tEv (tPlot tCore) {}, _, rfl, rfl⟩, ⟨tEv { (tPlot (Core.init 0)) with susp := .pausing } {}, _, rfl, rfl, rfl⟩,
   ⟨tEv { (tPlot tCore) with image := some ⟨[], [], 0, []⟩ } {}, _, _, rfl, rfl, rfl, by decide, rfl, by decide⟩⟩

def tStore : EBody := .store [⟨8, .dev 8, 7, 0xFF⟩]
def tRem : RemOp := { tag := tTag, dst := 1, off := 8, act := .store [7], returns := false }
def tHome (act : HAct) : HEntry := { tags := [tTag], line := 0, va := 8, act := act }
/-- Core 0 waits for the value of its operation 0. -/
def tWaiting : Core := { tCore with wait := .reply, ord := 1 }
theorem waits_tWaiting (p : Plot) (h : p.core? 0 = some tWaiting) : Waits p tTag := ⟨tWaiting, h, rfl, rfl⟩
def tCopy : CopyJob := { tag := tTag, id := 0, src := 0, dst := 0x40000, len := 1, strs := 0, strd := 0, cnt := 1, blk := none, cls := 1, cpy := none }
def tClaim : Claim :=
  { tag := tTag, ticket := 0x3000, value := 7, dst := 0, eff := false, pc := 0, a0 := 0, a1 := 0, a2 := 0, a3 := 0, htop := 0, cls := 1 }
/-- An earlier store of core 0 waits in the queue of its tile, and behind it the entry at the head of CT. -/
def tLate (b : EBody) : Plot :=
  { (tPlot { tCore with ct := [{ tag := { tTag with ord := 1 }, body := b }] }) with paths := [tRem] }
def tBusy : Plot := tLate (.copy tCopy)
def tBusyFence : Plot := tLate (.fence .system)
/-- Two stores to one line in the tile's queue and at home. -/
def tQueued : Plot :=
  let e := tHome (.store [(8, 7, 0xFF)])
  { (tPlot tCore) with wq := [e, e], tiles := [{ Tile.init 0 0 with toq := [e, e] }] }
def tOther (c : Core) : Plot := { (tPlot tWaiting) with cores := [tWaiting, c] }
/-- A remote store on its way to core 1, whose queue holds n others. -/
def tPaths (n tries : Nat) : Plot :=
  { tOther { Core.init 1 with mq := List.replicate n tRem } with paths := [{ tRem with tries := tries }] }
/-- A remote operation of core 0 at the message context of core 1. -/
def tMq (a : RemAct) (returns : Bool) : Plot := tOther { Core.init 1 with mq := [{ tRem with act := a, returns := returns }] }
/-- A ring delivery heads MQ of core 1, whose ring 0 has two slots and holds `n` of them full. -/
def tMqRing (n : BitVec 32) : Plot := tOther { Core.init 1 with mq := [{ tRem with act := .ring 0 [7] }], q := (tFilled n).q }
/-- An entry at the head of CT of core 0. -/
def tPass (b : EBody) : State := tEv (tPlot { tCore with ct := [{ tag := tTag, body := b }] }) {}
theorem witness_OrderEvents :
    (∃ s p c e, On s p ∧ p.core? s.ev.c = some c ∧ c.ct = [e] ∧ canPass p c e = false)
    ∧ (∃ s p c e, On s p ∧ p.core? s.ev.c = some c ∧ c.ct = [e] ∧ canPass p c e = true ∧ e.body = .msg 1 tMsg)
    ∧ (∃ s p c e, On s p ∧ p.core? s.ev.c = some c ∧ c.ct = [e] ∧ canPass p c e = true ∧ e.body = .remote tRem ∧ p.isDet tRem.tag.lid = false)
    ∧ (∃ s p c e, On s p ∧ p.core? s.ev.c = some c ∧ c.ct = [e] ∧ canPass p c e = true ∧ e.body = .store [⟨8, .dev 8, 7, 0xFF⟩]
        ∧ ∀ b ∈ [(⟨8, .dev 8, 7, 0xFF⟩ : WByte)], ∃ a, b.loc = .dev a)
    ∧ (∃ s p c e, On s p ∧ p.core? s.ev.c = some c ∧ c.ct = [e] ∧ canPass p c e = true ∧ e.body = .atom .add true false 8 (.dev 8) 1 0 true)
    ∧ (∃ s p c e, On s p ∧ p.core? s.ev.c = some c ∧ c.ct = [e] ∧ canPass p c e = true ∧ e.body = .copy tCopy)
    ∧ (∃ s p c e, On s p ∧ p.core? s.ev.c = some c ∧ c.ct = [e] ∧ canPass p c e = true ∧ e.body = .claim tClaim)
    ∧ (∃ s p c e, On s p ∧ p.core? s.ev.c = some c ∧ c.ct = [e] ∧ canPass p c e = true ∧ e.body = .hostq 0 [])
    ∧ (∃ s p c e, On s p ∧ s.ev.flag = true ∧ p.named s.ev = some c ∧ c.ct = [e] ∧ canPass p c e = true ∧ e.body = .msg 1 tMsg)
    ∧ (∃ s p c e, On s p ∧ p.core? s.ev.c = some c ∧ c.ct = [e] ∧ e.body = .fence .system ∧ notPerformed p c e.tag.ord .system = false)
    ∧ (∃ s p c e, On s p ∧ p.core? s.ev.c = some c ∧ c.ct = [e] ∧ e.body = .fence .system ∧ notPerformed p c e.tag.ord .system = true)
    ∧ (∃ s p t e, On s p ∧ p.tiles[s.ev.t]? = some t ∧ t.toq[s.ev.j]? = some e ∧ e.isStore = true
        ∧ (t.toq.take s.ev.j).any (fun x => x.line == e.line) = true)
    ∧ (∃ s p t e, On s p ∧ p.tiles[s.ev.t]? = some t ∧ t.toq[s.ev.j]? = some e ∧ e.isStore = true
        ∧ (t.toq.take s.ev.j).any (fun x => x.line == e.line) = false ∧ e.rel = none)
    ∧ (∃ s p e, On s p ∧ p.wq[s.ev.j]? = some e ∧ (p.wq.take s.ev.j).any (fun x => x.line == e.line) = true)
    ∧ (∃ s p e bs, On s p ∧ p.wq[s.ev.j]? = some e ∧ (p.wq.take s.ev.j).any (fun x => x.line == e.line) = false ∧ p.lineErr e.line = none
        ∧ e.act = .store bs)
    ∧ (∃ s p e, On s p ∧ p.wq[s.ev.j]? = some e ∧ (p.wq.take s.ev.j).any (fun x => x.line == e.line) = false ∧ p.lineErr e.line = none
        ∧ e.act = .atom .add true false 8 1 0 true ∧ e.tags = [tTag] ∧ Waits p tTag)
    ∧ (∃ s p e, On s p ∧ p.wq[s.ev.j]? = some e ∧ (p.wq.take s.ev.j).any (fun x => x.line == e.line) = false ∧ p.lineErr e.line = none
        ∧ e.act = .red .add true false 8 1)
    ∧ (∃ s p e, On s p ∧ p.wq[s.ev.j]? = some e ∧ (p.wq.take s.ev.j).any (fun x => x.line == e.line) = false ∧ p.lineErr e.line = none
        ∧ e.act = .reds [⟨.fadd, false, false, 8, 1⟩, ⟨.fadd, false, false, 12, 1⟩])
    ∧ (∃ s p r c, On s p ∧ p.paths[s.ev.j]? = some r ∧ (p.paths.take s.ev.j).any (r.behind ·) = false ∧ p.flights = []
        ∧ (∀ q ws, r.act ≠ .ring q ws) ∧ r.nextTry ≤ s.dev.time ∧ p.core? r.dst.toNat = some c ∧ r.tries = 0 ∧ c.mq.length = 15)
    ∧ (∃ s p r c, On s p ∧ p.paths[s.ev.j]? = some r ∧ (p.paths.take s.ev.j).any (r.behind ·) = false ∧ p.flights = []
        ∧ (∀ q ws, r.act ≠ .ring q ws) ∧ r.nextTry ≤ s.dev.time ∧ p.core? r.dst.toNat = some c ∧ r.tries ≠ 0 ∧ s.ev.n = 0 ∧ c.mq.length = 16
        ∧ r.tries + 2 = p.rtries ∧ r.returns = false)
    ∧ (∃ s p r c, On s p ∧ p.paths[s.ev.j]? = some r ∧ (p.paths.take s.ev.j).any (r.behind ·) = false ∧ p.flights = []
        ∧ r.act = .ring 0 [7] ∧ p.waitsFor r.tag (p.pairScope r.tag.cid r.dst) = true ∧ r.nextTry ≤ s.dev.time ∧ p.core? r.dst.toNat = some c ∧ r.tries = 0)
    ∧ (∃ s p r c, On s p ∧ p.paths[s.ev.j]? = some r ∧ (p.paths.take s.ev.j).any (r.behind ·) = false ∧ p.flights = []
        ∧ r.act = .ring 0 [7] ∧ p.waitsFor r.tag (p.pairScope r.tag.cid r.dst) = false ∧ r.nextTry ≤ s.dev.time ∧ p.core? r.dst.toNat = some c ∧ r.tries = 0
        ∧ c.mq.length = 15)
    ∧ (∃ s p r c k, On s p ∧ p.paths[s.ev.j]? = some r ∧ (p.paths.take s.ev.j).any (r.behind ·) = false ∧ p.flights = [] ∧ (∀ q ws, r.act ≠ .ring q ws)
        ∧ r.nextTry ≤ s.dev.time ∧ p.core? r.dst.toNat = some c ∧ r.tries ≠ 0 ∧ s.ev.n = 0 ∧ c.mq.length = 15 ∧ r.returns = true ∧ r.tag.cid ≠ r.dst
        ∧ p.core? r.tag.cid.toNat = some k ∧ k.awaits r.tag = true)
    ∧ (∃ s p c r rest, On s p ∧ p.core? s.ev.c = some c ∧ c.mq = r :: rest ∧ r.dst.toNat = s.ev.c ∧ c.lmErr = [] ∧ c.bankOff = 0 ∧ c.retain = none
        ∧ r.act = .store [7] ∧ r.returns = false ∧ NoSleeper c)
    ∧ (∃ s p c r rest, On s p ∧ p.core? s.ev.c = some c ∧ c.mq = r :: rest ∧ r.dst.toNat = s.ev.c ∧ c.lmErr = [] ∧ c.bankOff = 0 ∧ c.retain = none
        ∧ r.act = .load 8 ∧ r.returns = true ∧ Waits p r.tag)
    ∧ (∃ s p c r rest, On s p ∧ p.core? s.ev.c = some c ∧ c.mq = r :: rest ∧ r.dst.toNat = s.ev.c ∧ c.lmErr = [] ∧ c.bankOff = 0 ∧ c.retain = none
        ∧ r.act = .atom .max true true 1 0 ∧ r.returns = true ∧ Waits p r.tag)
    ∧ (∃ s p c r rest, On s p ∧ p.core? s.ev.c = some c ∧ c.mq = r :: rest ∧ r.dst.toNat = s.ev.c ∧ c.lmErr = [] ∧ c.bankOff = 0 ∧ c.retain = none
        ∧ r.act = .atom .max true true 1 0 ∧ r.returns = false ∧ NoSleeper c)
    ∧ (∃ s p c r rest, On s p ∧ p.core? s.ev.c = some c ∧ c.mq = r :: rest ∧ r.dst.toNat = s.ev.c ∧ c.lmErr = [] ∧ c.bankOff = 0 ∧ c.retain = none
        ∧ r.act = .ring 0 [7] ∧ r.returns = false ∧ c.q[(0 : QReg)].v = true ∧ NoSleeper c ∧ c.lm.wf = true ∧ c.q[(0 : QReg)].fill + 1 = 2 ^ c.q[(0 : QReg)].cnt
        ∧ (p.paths.any fun x => x.before r) = false)
    ∧ (∃ s p c r rest, On s p ∧ p.core? s.ev.c = some c ∧ c.mq = r :: rest ∧ r.dst.toNat = s.ev.c ∧ c.lmErr = [] ∧ c.bankOff = 0 ∧ c.retain = none
        ∧ r.act = .ring 0 [7] ∧ r.returns = false ∧ c.q[(0 : QReg)].v = true ∧ NoSleeper c ∧ c.lm.wf = true ∧ (p.paths.any fun x => x.before r) = true)
    ∧ (∃ s p c r rest, On s p ∧ p.core? s.ev.c = some c ∧ c.mq = r :: rest ∧ r.dst.toNat = s.ev.c ∧ c.lmErr = [] ∧ c.bankOff = 0 ∧ c.retain = none
        ∧ r.act = .ring 0 [7] ∧ r.returns = false ∧ c.q[(0 : QReg)].v = true ∧ NoSleeper c ∧ c.lm.wf = true ∧ c.q[(0 : QReg)].fill = 2 ^ c.q[(0 : QReg)].cnt
        ∧ r.tries + 1 < p.rtries ∧ (p.paths.any fun x => x.before r) = false)
    ∧ (∃ s p f l img x, On s p ∧ p.flights[s.ev.j]? = some f ∧ p.launch? f.msg.lid = some l ∧ p.susp = .taken ∧ p.image = some img ∧ x ∈ img.launches
        ∧ x.lid = f.msg.lid)
    ∧ (∃ s p f l c, On s p ∧ s.ev.flag = false ∧ p.flights[s.ev.j]? = some f ∧ (p.flights.take s.ev.j).any (f.behind ·) = false ∧ f.mode < 2
        ∧ f.byCore = true ∧ p.waitsFor f.msg.tag (p.pairScope f.msg.tag.cid f.dst) = false ∧ p.susp ≠ .taken ∧ f.nextTry ≤ s.dev.time ∧ p.current f.dst.toNat f.msg = true
        ∧ p.launch? f.msg.lid = some l ∧ p.core? f.dst.toNat = some c ∧ p.paths.any (·.ahead f) = false ∧ c.runq.length < 64 ∧ f.msg.pay = [] ∧ f.tries = 0)
    ∧ (∃ s p f l c, On s p ∧ s.ev.flag = false ∧ p.flights[s.ev.j]? = some f ∧ (p.flights.take s.ev.j).any (f.behind ·) = false ∧ f.mode < 2
        ∧ f.byCore = true ∧ p.waitsFor f.msg.tag (p.pairScope f.msg.tag.cid f.dst) = true ∧ f.nextTry ≤ s.dev.time ∧ p.current f.dst.toNat f.msg = true
        ∧ p.launch? f.msg.lid = some l ∧ p.core? f.dst.toNat = some c ∧ p.paths.any (·.ahead f) = false ∧ c.runq.length < 64 ∧ f.msg.pay = [] ∧ f.tries = 0)
    ∧ (∃ s p f l c, On s p ∧ s.ev.flag = false ∧ p.flights[s.ev.j]? = some f ∧ (p.flights.take s.ev.j).any (f.behind ·) = false ∧ f.mode < 2
        ∧ f.byCore = false ∧ f.nextTry ≤ s.dev.time ∧ f.msg.body = .task 0 0 0 0 0 0 ∧ p.launch? f.msg.lid = some l ∧ p.core? f.dst.toNat = some c
        ∧ c.runq.length < 64 ∧ f.msg.pay = [] ∧ f.tries = 0)
    ∧ (∃ s p f, On s p ∧ p.flights[s.ev.j]? = some f ∧ f.tries ≠ 0 ∧ s.ev.n = 1)
    ∧ (∃ s p f c l, On s p ∧ s.ev.flag = false ∧ p.flights[s.ev.j]? = some f ∧ (p.flights.take s.ev.j).any (f.behind ·) = false ∧ f.mode < 2
        ∧ f.byCore = false ∧ f.nextTry ≤ s.dev.time ∧ p.current f.dst.toNat f.msg = true ∧ p.launch? f.msg.lid = some l ∧ l.det = false
        ∧ p.core? f.dst.toNat = some c ∧ NoSleeper c ∧ f.msg.pay = [(8, [7])] ∧ f.tries = 0 ∧ p.susp ≠ .taken)
    ∧ (∃ s p c f, On s p ∧ s.ev.n = 3 ∧ p.core? s.ev.c = some c ∧ c.late = [f] ∧ f.nextTry ≤ s.dev.time ∧ p.current s.ev.c f.msg = true
        ∧ c.runq.length < 64)
    ∧ ∃ s p x e, On s p ∧ s.ev.n = 2 ∧ p.link[s.ev.j]? = some x ∧ x = .mem e ∧ s.dev.hostlost = true ∧ e.act.returns = true ∧ e.nextTry ≤ s.dev.time
        ∧ e.tries + 1 < p.rtries :=
  ⟨⟨tEv tBusy {}, _, _, _, rfl, rfl, rfl, rfl⟩,
   ⟨tPass (.msg 1 tMsg), _, _, _, rfl, rfl, rfl, rfl, rfl⟩, ⟨tPass (.remote tRem), _, _, _, rfl, rfl, rfl, rfl, rfl, rfl⟩,
   ⟨tPass tStore, _, _, _, rfl, rfl, rfl, rfl, rfl, fun b hb => ⟨8, by simp only [List.mem_singleton] at hb; rw [hb]⟩⟩,
   ⟨tPass (.atom .add true false 8 (.dev 8) 1 0 true), _, _, _, rfl, rfl, rfl, rfl, rfl⟩,
   ⟨tPass (.copy tCopy), _, _, _, rfl, rfl, rfl, rfl, rfl⟩, ⟨tPass (.claim tClaim), _, _, _, rfl, rfl, rfl, rfl, rfl⟩,
   ⟨tPass (.hostq 0 []), _, _, _, rfl, rfl, rfl, rfl, rfl⟩,
   ⟨tEv ((tPlot tCore).modTile 0 fun t => t.modSvc fun v => { v with ctx := { v.ctx with ct := [{ tag := { tTag with cid := 0x3000 }, body := .msg 1 tMsg }] } })
      { flag := true }, _, _, _, rfl, rfl, rfl, rfl, rfl, rfl⟩,
   ⟨tPass (.fence .system), _, _, _, rfl, rfl, rfl, rfl, rfl⟩,
   ⟨tEv tBusyFence {}, _, _, _, rfl, rfl, rfl, rfl, rfl⟩,
   ⟨tEv tQueued { j := 1 }, _, _, _, rfl, rfl, rfl, rfl, rfl⟩, ⟨tEv tQueued {}, _, _, _, rfl, rfl, rfl, rfl, rfl, rfl⟩,
   ⟨tEv tQueued { j := 1 }, _, _, rfl, rfl, rfl⟩, ⟨tEv tQueued {}, _, _, _, rfl, rfl, rfl, rfl, rfl⟩,
   ⟨tEv { (tPlot tWaiting) with wq := [tHome (.atom .add true false 8 1 0 true)] } {}, _, _, rfl, rfl, rfl, rfl, rfl, rfl, waits_tWaiting _ rfl⟩,
   ⟨tEv { (tPlot tCore) with wq := [tHome (.red .add true false 8 1)] } {}, _, _, rfl, rfl, rfl, rfl, rfl⟩,
   ⟨tEv { (tPlot tCore) with wq := [tHome (.reds [⟨.fadd, false, false, 8, 1⟩, ⟨.fadd, false, false, 12, 1⟩])] } {}, _, _, rfl, rfl, rfl, rfl, rfl⟩,
   ⟨tEv (tPaths 15 0) {}, _, _, _, rfl, rfl, rfl, rfl, (fun _ _ h => nomatch h), by decide, rfl, rfl, rfl⟩,
   ⟨tEv (tPaths 16 18) {}, _, _, _, rfl, rfl, rfl, rfl, (fun _ _ h => nomatch h), by decide, rfl, by decide, rfl, rfl, rfl, rfl⟩,
   ⟨tEv { (tPaths 15 0) with paths := [{ tRem with tag := { tTag with ord := 1 }, act := .ring 0 [7] }], cores := [{ tWaiting with ob := [{ tag := tTag, body := tStore }] }, Core.init 1] } {}, _, _, _, rfl, rfl, rfl, rfl, rfl,
      rfl, by decide, rfl, rfl⟩,
   ⟨tEv { (tPaths 15 0) with paths := [{ tRem with act := .ring 0 [7] }] } {}, _, _, _, rfl, rfl, rfl, rfl, rfl, rfl, by decide, rfl, rfl, rfl⟩,
   ⟨tEv { (tPaths 15 1) with paths := [{ tRem with act := .load 8, returns := true, tries := 1 }] } {}, _, _, _, _, rfl, rfl, rfl, rfl, (fun _ _ h => nomatch h), by decide, rfl,
      by decide, rfl, rfl, rfl, by decide, rfl, rfl⟩,
   ⟨tEv (tMq (.store [7]) false) { c := 1 }, _, _, _, _, rfl, rfl, rfl, rfl, rfl, rfl, rfl, rfl, rfl, by unfold NoSleeper; decide⟩,
   ⟨tEv (tMq (.load 8) true) { c := 1 }, _, _, _, _, rfl, rfl, rfl, rfl, rfl, rfl, rfl, rfl, rfl, waits_tWaiting _ rfl⟩,
   ⟨tEv (tMq (.atom .max true true 1 0) true) { c := 1 }, _, _, _, _, rfl, rfl, rfl, rfl, rfl, rfl, rfl, rfl, rfl, waits_tWaiting _ rfl⟩,
   ⟨tEv (tMq (.atom .max true true 1 0) false) { c := 1 }, _, _, _, _, rfl, rfl, rfl, rfl, rfl, rfl, rfl, rfl, rfl, by unfold NoSleeper; decide⟩,
   ⟨tEv (tMqRing 1) { c := 1 }, _, _, _, _, rfl, rfl, rfl, rfl, rfl, rfl, rfl, rfl, rfl, rfl, by unfold NoSleeper; decide, rfl, rfl, rfl⟩,
   ⟨tEv { tOther { Core.init 1 with mq := [{ tRem with tag := { tTag with ord := 1 }, act := .ring 0 [7] }], q := (tFilled 1).q } with
          paths := [{ tRem with act := .ring 0 [7] }] } { c := 1 },
      _, _, _, _, rfl, rfl, rfl, rfl, rfl, rfl, rfl, rfl, rfl, rfl, by unfold NoSleeper; decide, rfl, rfl⟩,
   ⟨tEv (tMqRing 2) { c := 1 }, _, _, _, _, rfl, rfl, rfl, rfl, rfl, rfl, rfl, rfl, rfl, rfl, by unfold NoSleeper; decide, rfl, rfl, by decide, rfl⟩,
   ⟨tEv { (tPlot tCore) with flights := [{ dst := 1, msg := tMsg }], susp := .taken, image := some ⟨[], [tLaunch], 0, []⟩ } {}, _, _, _, _, tLaunch, rfl, rfl, rfl, rfl, rfl,
      by decide, rfl⟩,
   ⟨tEv { (tPlot tCore) with flights := [{ dst := 1, msg := tMsg, byCore := true }] } {}, _, _, _, _, rfl, rfl, rfl, rfl, by decide, rfl, rfl, by decide, by decide, rfl, rfl, rfl, rfl,
      by decide, rfl, rfl⟩,
   ⟨tEv { (tPlot { tCore with ob := [{ tag := tTag, body := tStore }] }) with flights := [{ dst := 1, msg := { tMsg with tag := { tTag with ord := 1 } }, byCore := true }] } {}, _, _, _, _, rfl, rfl, rfl,
      rfl, by decide, rfl, rfl, by decide, rfl, rfl, rfl, rfl, by decide, rfl, rfl⟩,
   ⟨tEv { (tPlot tCore) with flights := [{ dst := 1, msg := tMsg }] } {}, _, _, _, _, rfl, rfl, rfl, rfl, by decide, rfl, by decide, rfl, rfl, rfl,
      by decide, rfl, rfl⟩,
   ⟨tEv { (tPlot tCore) with flights := [{ dst := 1, msg := tMsg, tries := 1 }] } { n := 1 }, _, _, rfl, rfl, by decide, rfl⟩,
   ⟨tEv { (tPlot tCore) with flights := [{ dst := 1, msg := { tMsg with pay := [(8, [7])] } }] } {}, _, _, _, _, rfl, rfl, rfl, rfl, by decide, rfl,
      by decide, rfl, rfl, rfl, rfl, by unfold NoSleeper; decide, rfl, rfl, by decide⟩,
   ⟨tEv (tPlot { tCore with late := [{ dst := 0, msg := tMsg }] }) { n := 3 }, _, _, _, rfl, rfl, rfl, rfl, by decide, rfl, by decide⟩,
   ⟨tEv { (tPlot tCore) with link := [.mem (tHome (.atom .add true false 8 1 0 true))] } { n := 2 } { hostlost := true }, _, _, _, rfl, rfl, rfl, rfl, rfl,
      rfl, by decide, by decide⟩⟩

def tBlock : CopyJob := { tCopy with accepted := true, src := 0, dst := 0xF000000000040000 }
def tMxJob (ops : List MxOp) : MxJob := { tag := tTag, id := 0, mask := 1, ops := ops, f64 := false, blk := none, cls := 1, seed := 0, mid := 0 }
def tMxe (m : Mxe) (e : EvArgs := {}) (d : Device := {}) : State := tEv { (tPlot tCore) with mxes := [m, {}, {}, {}] } e d
def tRun (r : MxRun) : Mxe := { run := some r }
def tOwned (l : Lid) : List Acc := [{ owner := some (0, l) }, {}, {}, {}]
def tLatch : Latch := ⟨.f32, []⟩
/-- Two engines, one above the other in a window of two rows, in an `mx.mrot`: the lower one has multiplied. -/
def tRot : Plot :=
  let r : MxRun := { job := tMxJob [.mrot 0 none 0x10] }
  { (tPlot tCore) with mxes := [{ run := some { r with mul := true } }, {}, { run := some r }, {}] }
theorem witness_EngineEvents :
    (∃ s p x, On s p ∧ p.copies[s.ev.j]? = some x ∧ x.status = none ∧ p.cpyBusy s.ev.j x = false ∧ x.accepted = false ∧ x.tries = 0
        ∧ x.cpy = none ∧ s.ev.flag = false ∧ p.eteFull = false)
    ∧ (∃ s p x, On s p ∧ p.copies[s.ev.j]? = some x ∧ x.status = none ∧ p.cpyBusy s.ev.j x = false ∧ x.accepted = false ∧ x.cpy ≠ none
        ∧ x.tries = 0)
    ∧ (∃ s p x, On s p ∧ p.copies[s.ev.j]? = some x ∧ x.status = none ∧ p.cpyBusy s.ev.j x = false ∧ x.accepted = false ∧ x.cpy = none
        ∧ p.eteFull = true ∧ x.tries + 1 < p.etries)
    ∧ (∃ s p x, On s p ∧ p.copies[s.ev.j]? = some x ∧ x.status = none ∧ x.accepted = false ∧ x.tries ≠ 0 ∧ x.nextTry ≤ s.dev.time
        ∧ p.cpyBusy s.ev.j x = false ∧ s.ev.flag = true ∧ x.cpy = none ∧ x.tries + 2 = p.etries)
    ∧ (∃ s p x, On s p ∧ p.copies[s.ev.j]? = some x ∧ x.status = none ∧ p.cpyBusy s.ev.j x = false ∧ x.accepted = false ∧ s.ev.flag = true
        ∧ x.cpy = none ∧ p.etries = x.tries + 1)
    ∧ (∃ s p x k d, On s p ∧ p.copies[s.ev.j]? = some x ∧ x.status = none ∧ p.cpyBusy s.ev.j x = false ∧ x.accepted = true ∧ x.fault = none ∧ x.done < x.len * x.cnt
        ∧ s.ev.n = 1 ∧ endOf p x.tag.cid x.src = some (.lm 0 0) ∧ endOf p x.tag.cid x.dst = some (.lm 1 0) ∧ (0 : CoreId) ≠ 1
        ∧ p.core? 0 = some k ∧ k.lmErr = [] ∧ p.core? 1 = some d)
    ∧ (∃ s p x, On s p ∧ p.copies[s.ev.j]? = some x ∧ x.status = none ∧ p.cpyBusy s.ev.j x = false ∧ s.ev.opt = none ∧ x.fault = some (0x30, 0x40000) ∧ s.ev.flag = false
        ∧ p.serves (tileOf x.tag.cid) = true)
    ∧ (∃ s p x, On s p ∧ p.copies[s.ev.j]? = some x ∧ s.ev.opt = none ∧ x.fault = some (0x30, 0x40000) ∧ p.serves (tileOf x.tag.cid) = false)
    ∧ (∃ s p x c, On s p ∧ p.copies[s.ev.j]? = some x ∧ x.status = none ∧ p.cpyBusy s.ev.j x = false ∧ x.fault = none ∧ x.accepted = true ∧ x.done = x.len * x.cnt
        ∧ x.blk = none ∧ p.pendingAt x.tag.engine = false ∧ p.core? x.tag.cid.toNat = some c)
    ∧ (∃ s p m j, On s p ∧ p.mxes[s.ev.c]? = some m ∧ m.run = none ∧ m.nextCmd = some 0 ∧ m.queue[0]? = some (.job j) ∧ m.acc.length = 4
        ∧ j.mask.getLsbD 0 = true ∧ (m.acc.getD 0 {}).owner = some (j.tag.cid, j.tag.lid))
    ∧ (∃ s p m j o, On s p ∧ p.mxes[s.ev.c]? = some m ∧ m.run = none ∧ m.nextCmd = some 0 ∧ m.queue[0]? = some (.job j) ∧ m.acc.length = 4
        ∧ j.mask.getLsbD 0 = true ∧ (m.acc.getD 0 {}).owner = some o ∧ o ≠ (j.tag.cid, j.tag.lid))
    ∧ (∃ s p m, On s p ∧ p.mxes[s.ev.c]? = some m ∧ m.run = none ∧ m.nextCmd = some 0 ∧ m.queue[0]? = some (.rel tTag 1) ∧ m.acc.length = 4
        ∧ (m.acc.getD 0 {}).owner = some (tTag.cid, tTag.lid))
    ∧ (∃ s p m r, On s p ∧ p.mxes[s.ev.c]? = some m ∧ m.run = some r ∧ r.failed = none ∧ s.ev.n = 0 ∧ r.job.ops[r.next]? = some (.zero 0)
        ∧ r.job.f64 = false ∧ m.acc.length = 4)
    ∧ (∃ s p m r a b, On s p ∧ p.mxes[s.ev.c]? = some m ∧ m.run = some r ∧ r.failed = none ∧ s.ev.n = 0
        ∧ r.job.ops[r.next]? = some (.mma 0 none) ∧ r.job.f64 = false ∧ m.acc.length = 4 ∧ m.af = some a ∧ m.bf = some b
        ∧ (pairInfo a.f b.f).isSome = true ∧ a.f ≠ .f64)
    ∧ (∃ s p m r k n r2, On s p ∧ p.mxes[s.ev.c]? = some m ∧ m.run = some r ∧ r.failed = none ∧ r.job.ops[r.next]? = some (.mrot 0 none 0x10)
        ∧ r.mul = true ∧ s.ev.flag = true ∧ r.sentB = false ∧ p.atTorus (mrotTo (p.torus s.ev.c) 0x10 true) = some k ∧ p.mxes[k]? = some n
        ∧ n.run = some r2 ∧ r2.window = some 0x10 ∧ n.bb = none)
    ∧ (∃ s p m r t, On s p ∧ p.mxes[s.ev.c]? = some m ∧ m.run = some r ∧ r.since = some t ∧ r.failed = none ∧ t + 1000000 = s.dev.time)
    ∧ (∃ s p m r t, On s p ∧ p.mxes[s.ev.c]? = some m ∧ m.run = some r ∧ r.since = some t ∧ s.dev.time < t + 1000000)
    ∧ ∃ s p m r c, On s p ∧ p.mxes[s.ev.c]? = some m ∧ m.run = some r ∧ r.failed = none ∧ r.job.ops.length ≤ r.next ∧ r.barFault = none
        ∧ r.barDead = none ∧ r.job.blk = none ∧ p.pendingAt r.job.tag.engine = false ∧ p.core? r.job.tag.cid.toNat = some c
        ∧ ∀ a ∈ m.acc, a.faulted = false :=
  ⟨⟨tEv { (tPlot tCore) with copies := [tCopy] } {}, _, _, rfl, rfl, rfl, rfl, rfl, rfl, rfl, rfl, rfl⟩,
   ⟨tEv { (tPlot tCore) with copies := [{ tCopy with cpy := some 0 }] } {}, _, _, rfl, rfl, rfl, rfl, rfl, by decide, rfl⟩,
   ⟨tEv { (tPlot tCore) with copies := [tCopy], eteShare := 0 } {}, _, _, rfl, rfl, rfl, rfl, rfl, rfl, rfl, by decide⟩,
   ⟨tEv { (tPlot tCore) with copies := [{ tCopy with tries := 14 }] } { flag := true }, _, _, rfl, rfl, rfl, rfl, by decide, by decide, rfl, rfl, rfl, rfl⟩,
   ⟨tEv { (tPlot tCore) with copies := [{ tCopy with tries := 15 }] } { flag := true }, _, _, rfl, rfl, rfl, rfl, rfl, rfl, rfl, rfl⟩,
   ⟨tEv { (tPlot tCore) with copies := [tBlock] } { n := 1 }, _, _, _, _, rfl, rfl, rfl, rfl, rfl, rfl, by decide, rfl, rfl, rfl, by decide, rfl, rfl, rfl⟩,
   ⟨tEv { (tPlot tCore) with copies := [{ tBlock with fault := some (0x30, 0x40000) }] } {}, _, _, rfl, rfl, rfl, rfl, rfl, rfl, rfl, rfl⟩,
   ⟨tEv { ((tPlot tCore).modTile 0 fun t => t.modSvc fun v => { v with stopped := true }) with copies := [{ tBlock with fault := some (0x30, 0x40000) }] } {},
      _, _, rfl, rfl, rfl, rfl, rfl⟩,
   ⟨tEv { (tPlot tCore) with copies := [{ tBlock with done := 1 }] } {}, _, _, _, rfl, rfl, rfl, rfl, rfl, rfl, rfl, rfl, rfl, rfl⟩,
   ⟨tMxe { queue := [.job (tMxJob [])], acc := tOwned 0 }, _, _, _, rfl, rfl, rfl, rfl, rfl, rfl, rfl, rfl⟩,
   ⟨tMxe { queue := [.job (tMxJob [])], acc := tOwned 1 }, _, _, _, _, rfl, rfl, rfl, rfl, rfl, rfl, rfl, rfl, by decide⟩,
   ⟨tMxe { queue := [.rel tTag 1], acc := tOwned 0 }, _, _, rfl, rfl, rfl, rfl, rfl, rfl, rfl⟩,
   ⟨tMxe (tRun { job := tMxJob [.zero 0] }), _, _, _, rfl, rfl, rfl, rfl, rfl, rfl, rfl, rfl⟩,
   ⟨tMxe { run := some { job := tMxJob [.mma 0 none] }, af := some tLatch, bf := some tLatch }, _, _, _, _, _, rfl, rfl, rfl, rfl, rfl, rfl, rfl, rfl, rfl, rfl,
      rfl, by decide⟩,
   ⟨tEv tRot { flag := true }, _, _, _, 2, _, _, rfl, rfl, rfl, rfl, rfl, rfl, rfl, rfl, rfl, rfl, rfl, rfl, rfl⟩,
   ⟨tMxe (tRun { job := tMxJob [.mma 0 none], since := some 5 }) {} { time := 1000005 }, _, _, _, _, rfl, rfl, rfl, rfl, rfl, rfl⟩,
   ⟨tMxe (tRun { job := tMxJob [.mma 0 none], since := some 5 }) {} { time := 1000004 }, _, _, _, _, rfl, rfl, rfl, rfl, by decide⟩,
   ⟨tMxe (tRun { job := tMxJob [] }), _, _, _, _, rfl, rfl, rfl, rfl, by decide, rfl, rfl, rfl, rfl, rfl, by decide⟩⟩

def tWorld (acts : List TseAct) (f : Plot → Plot := id) (e : EvArgs := {}) (d : Device := {}) : State :=
  tEv (f { (tPlot tWaiting) with regions := [tRegion], tseq := acts.map fun a => ⟨tTag, 15, a, true, false, none⟩ }) e d
def tLoad : WLoad :=
  { kw := 0x100000000, t := 5, mode := 1, eff := false, dst := 0, lim := none, dl := 0, pc := 0, a0 := 0, a1 := 0, a2 := 0, a3 := 0, htop := 0,
    cls := 1 }
def tFurrow (p : Plot) : Plot := { p with furrows := [⟨0x100000000, [⟨5, [1, 2, 3, 4, 5, 6, 7, 8]⟩]⟩] }
def tWaiter (d : Option Nat) : Waiter := ⟨⟨tTag, 15, .ld tLoad, false, false, none⟩, 0, d⟩
/-- Core 0 is the one member of group 3; one claim is on its way, on the plane, or pending at tile 0. -/
def tClm (cs : List Claim) (pl : List Plane) (r : Replica) (e : EvArgs := {}) (d : Device := {}) : State :=
  tEv { (tPlot tCore) with groups := [tGroup], tiles := [{ tTile with clu := [r] }], claims := cs, plane := pl } e d
def tRep (pend : List Pend) : Replica := ⟨3, [], pend, [], [], [], [], [⟨0, 0, .join⟩], true⟩
theorem witness_WorldAndClaimEvents :
    (∃ s p o r, On s p ∧ p.tseq[s.ev.j]? = some o ∧ p.tseFirst s.ev.j o ∧ o.act = .st 0x100000000 5 [1] false
        ∧ p.regionAt (wRid 0x100000000) o.tse = some r ∧ p.firstStore 0x100000000 = none ∧ (p.samples 0x100000000).length < r.depth
        ∧ (∀ x ∈ (p.samples 0x100000000).getLast?, x.t < 5) ∧ o.home = none ∧ ∀ w ∈ p.waiters, w.op.home = none)
    ∧ (∃ s p o r x tl, On s p ∧ p.tseq[s.ev.j]? = some o ∧ p.tseFirst s.ev.j o ∧ o.act = .st 0x100000000 5 [1] false
        ∧ p.regionAt (wRid 0x100000000) o.tse = some r ∧ p.firstStore 0x100000000 = none ∧ o.home = none ∧ (p.samples 0x100000000).getLast? = some x ∧ 5 ≤ x.t
        ∧ p.tiles[tileOf o.tag.cid]? = some tl ∧ tl.svc.ringFull = false)
    ∧ (∃ s p o r x, On s p ∧ p.tseq[s.ev.j]? = some o ∧ p.tseFirst s.ev.j o ∧ o.act = .ld tLoad ∧ p.regionAt (wRid tLoad.kw) o.tse = some r
        ∧ p.region? (wRid tLoad.kw) = some r ∧ (∀ x ∈ p.launches ++ (p.image.map (·.launches)).getD [], x.lid = o.tag.lid → x.det = false) ∧ o.home = none ∧ (p.samples tLoad.kw).find? (fun y => y.t == tLoad.t) = some x
        ∧ (sampleAt (p.samples tLoad.kw) 0).t ≤ tLoad.t ∧ tLoad.t ≤ (sampleAt (p.samples tLoad.kw) ((p.samples tLoad.kw).length - 1)).t ∧ x.data ≠ [])
    ∧ (∃ s p o r, On s p ∧ p.tseq[s.ev.j]? = some o ∧ p.tseFirst s.ev.j o ∧ o.act = .ld tLoad ∧ p.regionAt (wRid tLoad.kw) o.tse = some r
        ∧ p.region? (wRid tLoad.kw) = some r ∧ (∀ x ∈ p.launches ++ (p.image.map (·.launches)).getD [], x.lid = o.tag.lid → x.det = false) ∧ o.home = none ∧ p.samples tLoad.kw = [] ∧ tLoad.mode ≠ 0 ∧ p.waitUsed o.tse < p.wshare)
    ∧ (∃ s p o, On s p ∧ p.tseq[s.ev.j]? = some o ∧ p.tseFirst s.ev.j o ∧ o.act = .cancel 0x100000000 0 ∧ p.waiters = [])
    ∧ (∃ s p o w l, On s p ∧ p.tseq[s.ev.j]? = some o ∧ p.tseFirst s.ev.j o ∧ o.act = .cancel 0x100000000 0 ∧ p.waiters = [w] ∧ w.op.act = .ld l
        ∧ l.kw = 0x100000000 ∧ w.op.tag.ident = 0 ∧ (∀ x ∈ p.launches ++ (p.image.map (·.launches)).getD [], x.lid = w.op.tag.lid → x.det = false) ∧ w.op.home = none
        ∧ p.susp ≠ .taken)
    ∧ (∃ s p o r f x, On s p ∧ p.tseq[s.ev.j]? = some o ∧ p.tseFirst s.ev.j o ∧ o.act = .floor 0x100000001 7
        ∧ p.regionAt (wRid 0x100000001) (wRid 0x100000001 % 16) = some r ∧ fld 0x100000001 31 6 = 0 ∧ fld 0x100000001 63 44 = 0
        ∧ fld 0x100000001 5 0 = r.ng ∧ p.floors.find? (fun y => y.rid == r.rid && y.tse == 16) = some f ∧ f.fs[1]? = some x ∧ x ≤ 7)
    ∧ (∃ s p o r, On s p ∧ p.tseq[s.ev.j]? = some o ∧ p.tseFirst s.ev.j o ∧ o.act = .floorAt 1 0 7 ∧ p.regionAt 1 o.tse = some r ∧ p.waiters = []
        ∧ p.tseq.eraseIdx s.ev.j = [] ∧ Waits p o.tag)
    ∧ (∃ s p o r x xs, On s p ∧ p.tseq[s.ev.j]? = some o ∧ p.tseFirst s.ev.j o ∧ o.act = .probe 0x100000000 ∧ p.regionAt (wRid 0x100000000) o.tse = some r
        ∧ p.samples 0x100000000 = x :: xs ∧ Waits p o.tag)
    ∧ (∃ s p o r, On s p ∧ p.tseq[s.ev.j]? = some o ∧ p.tseFirst s.ev.j o ∧ o.act = .reg r ∧ r.routed = false ∧ r.at_ = [] ∧ p.region? r.rid = none
        ∧ p.poolUsed + r.charge ≤ p.pool ∧ s.ev.n = 16)
    ∧ (∃ s p o r, On s p ∧ p.tseq[s.ev.j]? = some o ∧ p.tseFirst s.ev.j o ∧ o.act = .reg r ∧ r.routed = false ∧ r.at_ = []
        ∧ (p.region? r.rid).isSome = true ∧ Waits p o.tag)
    ∧ (∃ s p o r, On s p ∧ p.tseq[s.ev.j]? = some o ∧ p.tseFirst s.ev.j o ∧ o.act = .free 1 ∧ p.region? 1 = some r ∧ o.returns = true ∧ r.routed = true
        ∧ r.at_.length = 16)
    ∧ (∃ s p o r, On s p ∧ p.tseq[s.ev.j]? = some o ∧ p.tseFirst s.ev.j o ∧ o.act = .free 1 ∧ p.region? 1 = some r ∧ o.returns = false
        ∧ r.at_ = [s.ev.n] ∧ p.waiters = [] ∧ Waits p o.tag)
    ∧ (∃ s p w l d, On s p ∧ p.waiters[s.ev.j]? = some w ∧ w.op.act = .ld l ∧ w.deadline = some d ∧ (∀ x ∈ p.launches ++ (p.image.map (·.launches)).getD [], x.lid = w.op.tag.lid → x.det = false)
        ∧ w.op.home = none ∧ p.susp ≠ .taken ∧ d = s.dev.time)
    ∧ (∃ s p w l q, On s p ∧ p.waiters[s.ev.j]? = some w ∧ w.op.act = .ld l ∧ s.plot? (w.homeOf p.pid) = some q ∧ q.susp = .taken)
    ∧ (∃ s p w d, On s p ∧ p.waiters[s.ev.j]? = some w ∧ w.deadline = some d ∧ s.dev.time < d)
    ∧ (∃ s p x g c, On s p ∧ p.claims[s.ev.j]? = some x ∧ x.gone = none ∧ x.done = false ∧ x.t0 = none ∧ p.group? (tkGroup x.ticket) = some g
        ∧ p.core? x.tag.cid.toNat = some c ∧ s.dev.syncLost = false ∧ g.notice = none ∧ notPerformed p c x.tag.ord .system = false
        ∧ ∃ r, p.replica? (tileOf x.tag.cid) g.gid = some r ∧ r.complete g = true ∧ r.early = [(x.ticket, 0, 7)])
    ∧ (∃ s p x g, On s p ∧ p.claims[s.ev.j]? = some x ∧ p.group? (tkGroup x.ticket) = some g
        ∧ ∃ r, p.replica? (tileOf x.tag.cid) g.gid = some r ∧ r.complete g = false)
    ∧ (∃ s p x g r, On s p ∧ p.plane[s.ev.j]? = some x ∧ (p.plane.take s.ev.j).any (fun y => y.src == x.src && y.dst == x.dst) = false
        ∧ p.group? x.gid = some g ∧ p.replica? x.dst x.gid = some r ∧ g.notice = none ∧ p.cut.contains (x.src, x.dst) = false ∧ x.bad = false
        ∧ x.act = .announce 0x3000 7)
    ∧ (∃ s p x, On s p ∧ p.plane[s.ev.j]? = some x ∧ x.act = .object 0x3000 0) ∧ (∃ s p x, On s p ∧ p.plane[s.ev.j]? = some x ∧ x.act = .heartbeat 0
        ∧ s.ev.flag = true)
    ∧ (∃ s p x r, On s p ∧ p.plane[s.ev.j]? = some x ∧ x.act = .remove 0 ∧ s.ev.flag = true ∧ x.bad = false ∧ p.replica? x.dst x.gid = some r
        ∧ r.marks = [(0, 4)] ∧ ∀ y ∈ r.marks, y.1 = 0 → y.2 < x.stamp)
    ∧ (∃ s p x, On s p ∧ p.plane[s.ev.j]? = some x ∧ x.act = .leave 0 ∧ s.ev.flag = true)
    ∧ (∃ s p x v r, On s p ∧ p.plane[s.ev.j]? = some x ∧ x.act = .values v ∧ s.ev.flag = true ∧ p.replica? x.dst x.gid = some r ∧ r.synced = false ∧ r.early = []
        ∧ r.pend = [])
    ∧ (∃ s p g r x, On s p ∧ p.group? s.ev.n = some g ∧ p.replica? s.ev.t s.ev.n = some r ∧ r.pend = [x]
        ∧ x.t0 + g.w + g.d = planeTime s p s.ev.t ∧ p.plane = [] ∧ absentFor g r (g.lost s.dev) x.t0 = [] ∧ collider g r x = none ∧ x.objs = [(0, 981)]
        ∧ x.t0 + g.w - g.skew = 980 ∧ r.synced = true)
    ∧ (∃ s p g r x, On s p ∧ p.group? s.ev.n = some g ∧ p.replica? s.ev.t s.ev.n = some r ∧ r.pend = [x] ∧ x.t0 + g.w + g.d ≤ planeTime s p s.ev.t ∧ p.plane = []
        ∧ absentFor g r (g.lost s.dev) x.t0 = [0] ∧ collider g r x = none ∧ r.synced = true)
    ∧ (∃ s p r x, On s p ∧ p.replica? s.ev.t s.ev.n = some r ∧ r.pend = [x] ∧ r.synced = false)
    ∧ (∃ s p g r x, On s p ∧ p.group? s.ev.n = some g ∧ p.replica? s.ev.t s.ev.n = some r ∧ r.pend = [x] ∧ planeTime s p s.ev.t < x.t0 + g.w + g.d)
    ∧ (∃ s p g r x m, On s p ∧ p.group? s.ev.n = some g ∧ p.replica? s.ev.t s.ev.n = some r ∧ r.pend = [x] ∧ m ∈ p.plane ∧ m.gid = g.gid
        ∧ m.dst ∈ g.tiles ∧ m.stamp + g.d + 1 = planeTime s p s.ev.t)
    ∧ (∃ s p x, On s p ∧ s.ev.flag = false ∧ p.collIn[s.ev.j]? = some (tTag, 0x100000000, 9) ∧ s.slot? (hSlot 0x100000000) = some x ∧ x.open_ = none
        ∧ later16 (hEpoch 0x100000000) x.closed = true ∧ hIdx 0x100000000 < x.devs.length ∧ 1 < x.devs.length)
    ∧ (∃ s p x ep dl kept, On s p ∧ s.slot? s.ev.n = some x ∧ x.open_ = some (ep, dl, kept) ∧ dl = s.dev.time)
    ∧ (∃ s p x ep dl kept, On s p ∧ s.slot? s.ev.n = some x ∧ x.open_ = some (ep, dl, kept) ∧ s.dev.time < dl)
    ∧ ∃ s p r x w0 w1, On s p ∧ p.collReqs[s.ev.j]? = some r ∧ p.collReqs = [r] ∧ s.slot? (hSlot r.h) = some x ∧ hEpoch r.h = x.closed
        ∧ x.kept = some (w0, w1) :=
  ⟨⟨tWorld [.st 0x100000000 5 [1] false], _, _, _, rfl, rfl, rfl, rfl, rfl, rfl, by decide, by decide, rfl, by decide⟩,
   ⟨tWorld [.st 0x100000000 5 [1] false] tFurrow, _, _, _, _, _, rfl, rfl, rfl, rfl, rfl, rfl, rfl, rfl, by decide, rfl, rfl⟩,
   ⟨tWorld [.ld tLoad] tFurrow, _, _, _, _, rfl, rfl, rfl, rfl, rfl, rfl, by decide, rfl, rfl, by decide, by decide, by decide⟩,
   ⟨tWorld [.ld tLoad], _, _, _, rfl, rfl, rfl, rfl, rfl, rfl, by decide, rfl, rfl, by decide, by decide⟩,
   ⟨tWorld [.cancel 0x100000000 0], _, _, rfl, rfl, rfl, rfl, rfl⟩,
   ⟨tWorld [.cancel 0x100000000 0] fun p => { p with waiters := [tWaiter none] }, _, _, _, _, rfl, rfl, rfl, rfl, rfl, rfl, rfl, rfl, by decide, rfl, by decide⟩,
   ⟨tWorld [.floor 0x100000001 7] fun p => { p with floors := [⟨1, 16, [0, 7]⟩] }, _, _, _, _, 7, rfl, rfl, rfl, rfl, rfl, rfl, rfl, rfl, rfl, rfl, by decide⟩,
   ⟨tWorld [.floorAt 1 0 7], _, _, _, rfl, rfl, rfl, rfl, rfl, rfl, rfl, waits_tWaiting _ rfl⟩,
   ⟨tWorld [.probe 0x100000000] tFurrow, _, _, _, _, _, rfl, rfl, rfl, rfl, rfl, rfl, waits_tWaiting _ rfl⟩,
   ⟨tWorld [.reg { tRegion with rid := 2, routed := false, at_ := [] }] id { n := 16 }, _, _, _, rfl, rfl, rfl, rfl, rfl, rfl, rfl, by decide, rfl⟩,
   ⟨tWorld [.reg { tRegion with routed := false, at_ := [] }], _, _, _, rfl, rfl, rfl, rfl, rfl, rfl, rfl, waits_tWaiting _ rfl⟩,
   ⟨tWorld [.free 1], _, _, _, rfl, rfl, rfl, rfl, rfl, rfl, rfl, rfl⟩,
   ⟨tWorld [] (fun p => { p with regions := [{ tRegion with routed := false, at_ := [4] }], tseq := [⟨tTag, 4, .free 1, false, false, none⟩] }) { n := 4 }, _, _, _,
      rfl, rfl, rfl, rfl, rfl, rfl, rfl, rfl, waits_tWaiting _ rfl⟩,
   ⟨tWorld [] (fun p => { p with waiters := [tWaiter (some 9)] }) {} { time := 9 }, _, _, _, _, rfl, rfl, rfl, rfl, by decide, rfl, by decide, rfl⟩,
   ⟨tWorld [] (fun p => { p with waiters := [tWaiter (some 9)], susp := .taken }) {} { time := 9 }, _, _, _, _, rfl, rfl, rfl, rfl, rfl⟩,
   ⟨tWorld [] (fun p => { p with waiters := [tWaiter (some 9)] }) {} { time := 8 }, _, _, _, rfl, rfl, rfl, by decide⟩,
   ⟨tClm [tClaim] [] { (tRep []) with early := [(0x3000, 0, 7)] }, _, _, _, _, rfl, rfl, rfl, rfl, rfl, rfl, rfl, rfl, rfl, rfl, _, rfl, rfl, rfl⟩,
   ⟨tEv { (tPlot tCore) with groups := [{ tGroup with size := 2 }], claims := [tClaim], tiles := [{ tTile with clu := [tRep []] }] } {}, _, _, _, rfl, rfl,
      rfl, _, rfl, rfl⟩,
   ⟨tClm [] [⟨1, 0, 3, 5, .announce 0x3000 7, 0, false⟩] (tRep []), _, _, _, _, rfl, rfl, rfl, rfl, rfl, rfl, rfl, rfl, rfl⟩,
   ⟨tClm [] [⟨1, 0, 3, 5, .object 0x3000 0, 0, false⟩] (tRep []), _, _, rfl, rfl, rfl⟩,
   ⟨tClm [] [⟨1, 0, 3, 5, .heartbeat 0, 0, false⟩] (tRep []) { flag := true }, _, _, rfl, rfl, rfl, rfl⟩,
   ⟨tClm [] [⟨1, 0, 3, 5, .remove 0, 0, false⟩] { (tRep []) with marks := [(0, 4)] } { flag := true }, _, _, _, rfl, rfl, rfl, rfl, rfl, rfl, rfl, by decide⟩,
   ⟨tClm [] [⟨1, 0, 3, 5, .leave 0, 0, false⟩] (tRep []) { flag := true }, _, _, rfl, rfl, rfl, rfl⟩,
   ⟨tClm [] [⟨1, 0, 3, 5, .values (tRep []), 0, false⟩] { (tRep []) with synced := false } { flag := true }, _, _, _, _, rfl, rfl, rfl, rfl, rfl, rfl, rfl, rfl⟩,
   ⟨tClm [] [] { (tRep [⟨0x3000, 7, 0, [(0, 981)]⟩]) with heard := [(0, 980)] } { n := 3 } { time := 1400 }, _, _, _, _, rfl, rfl, rfl, rfl, rfl, rfl, rfl, rfl, rfl,
      rfl, rfl⟩,
   ⟨tClm [] [] { (tRep [⟨0x3000, 7, 0, []⟩]) with heard := [(0, 981)] } { n := 3 } { time := 1400 }, _, _, _, _, rfl, rfl, rfl, rfl, by decide, rfl, rfl, rfl, rfl⟩,
   ⟨tClm [] [] { (tRep [⟨0x3000, 7, 0, []⟩]) with synced := false } { n := 3 }, _, _, _, rfl, rfl, rfl, rfl⟩,
   ⟨tClm [] [] (tRep [⟨0x3000, 7, 0, []⟩]) { n := 3 } { time := 1399 }, _, _, _, _, rfl, rfl, rfl, rfl, by decide⟩,
   ⟨tClm [] [⟨0, 0, 3, 1000, .announce 0x3000 7, 0, false⟩] (tRep [⟨0x3000, 7, 0, []⟩]) { n := 3 } { time := 1401 }, _, _, _, _,
      ⟨0, 0, 3, 1000, .announce 0x3000 7, 0, false⟩, rfl, rfl, rfl, rfl, by decide, rfl, by decide, rfl⟩,
   ⟨tEv { (tPlot tCore) with collIn := [(tTag, 0x100000000, 9)] } {} { slots := [tSlot] }, _, _, rfl, rfl, rfl, rfl, rfl, rfl, by decide, by decide⟩,
   ⟨tEv (tPlot tCore) {} { slots := [{ tSlot with open_ := some (1, 9, []) }], time := 9 }, _, _, _, _, _, rfl, rfl, rfl, rfl⟩,
   ⟨tEv (tPlot tCore) {} { slots := [{ tSlot with open_ := some (1, 9, []) }], time := 8 }, _, _, _, _, _, rfl, rfl, rfl, by decide⟩,
   ⟨tEv { (tPlot tCore) with collReqs := [⟨tTag, 0, 0, 0, 0, 0, 0, 0, 0, 1, true⟩] } {} { slots := [{ tSlot with kept := some (0, 0) }] }, _, _, _, _, _, rfl, rfl, rfl,
      rfl, rfl, rfl⟩⟩

/-- A request of core 0 at the service core of tile 0: a cause, a function number, its arguments in g1 to g5, the time of its reading. -/
def tReq (cause : Cause) (info : Word) (g : List Word) (taken : Option Nat) (offered : Bool := false) : SvRec :=
  { rcd := { tRec with g := Vector.ofFn fun i => (0 :: g).getD i.val 0 }, cause := cause, addr := 0, info := info, taken := taken, offered := offered }
def tAsked (r : SvRec) (svq : List Nat := []) (f : Plot → Plot := id) (e : EvArgs := {}) (d : Device := {}) : State :=
  tEv (f ((tPlot { tCore with hold := .service }).modTile 0 fun t => t.modSvc fun v => { v with svq := svq, slots := v.slots.set 0 (some r) })) e d
def tFn (n : Word) (g : List Word) (f : Plot → Plot := id) (e : EvArgs := {}) (d : Device := {}) : State :=
  tAsked (tReq 0x0C n g (some 0)) [] f e d
def tGroups (p : Plot) : Plot := { p with groups := [{ tGroup with size := 2 }] }
/-- Group 3, which spans devices and whose one member is on another. -/
def tFar (p : Plot) : Plot := { p with groups := [{ tGroup with size := 2, span := true, members := [{ tMine with dev := some 2 }] }] }
def tStopped (p : Plot) : Plot := p.modTile 0 fun t => t.modSvc fun v => { v with stopped := true }
theorem zero_of_lt_one {P : Nat → Prop} (h : P 0) : ∀ k, k < 1 → P k := fun k hk => by rw [show k = 0 by omega]; exact h
theorem witness_ServiceEvents :
    (∃ s p x k rest r, On s p ∧ p.tiles[s.ev.t]? = some x ∧ x.svc.svq = k :: rest ∧ k < 32 ∧ x.svc.slots[k]? = some (some r) ∧ r.cause ≠ 0x30
        ∧ r.cause ≠ 0x31 ∧ s.dev.svcNext = none ∧ p.debug = true)
    ∧ (∃ s p x r img, On s p ∧ p.tiles[s.ev.t]? = some x ∧ x.svc.svq = [0] ∧ x.svc.slots[0]? = some (some r) ∧ s.dev.svcNext = some img
        ∧ img.version ≠ x.svc.svver)
    ∧ (∃ s p x r c, On s p ∧ p.tiles[s.ev.t]? = some x ∧ x.svc.svq = [0] ∧ x.svc.slots[0]? = some (some r) ∧ s.dev.svcNext = none
        ∧ r.cause = 0x0B ∧ p.debug = false ∧ p.core? (32 * s.ev.t + 0) = some c)
    ∧ (∃ s p c, On s p ∧ p.core? (32 * s.ev.t + s.ev.j) = some c ∧ c.hold = .svrel ∧ c.report = none ∧ c.thrice = none
        ∧ (svcOf p s.ev.t).stopped = false)
    ∧ (∃ s p c, On s p ∧ p.core? (32 * s.ev.t + s.ev.j) = some c ∧ (svcOf p s.ev.t).stopped = true)
    ∧ (∃ s p x r, On s p ∧ p.tiles[s.ev.t]? = some x ∧ x.svc.svq = [0] ∧ x.svc.slots[0]? = some (some r) ∧ x.svc.stopped = true)
    ∧ (∃ s : State, ∃ img, s.dev.svcNext = some img ∧ s.ev.flag = true ∧ s.dev.hasTile s.ev.n = true ∧ s.tileAt s.ev.n = none
        ∧ (s.dev.spareOf s.ev.n).svc.stopped = false ∧ (s.dev.spareOf s.ev.n).svc.svver ≠ img.version)
    ∧ (∃ s p c, On s p ∧ p.core? (32 * s.ev.t + s.ev.j) = some c ∧ c.hold = .svrel ∧ c.report = none ∧ c.thrice.isSome = true)
    ∧ (∃ s p r a c x, On s p ∧ p.served s.ev.t s.ev.j = some r ∧ r.taken = some a ∧ p.core? (32 * s.ev.t + s.ev.j) = some c
        ∧ p.tiles[s.ev.t]? = some x ∧ x.svc.svlim ≠ 0 ∧ a + 1000 * x.svc.svlim.toNat = planeTime s p s.ev.t ∧ r.offered = false ∧ r.cause ≠ 0x0B)
    ∧ (∃ s p r a c x, On s p ∧ p.served s.ev.t s.ev.j = some r ∧ r.taken = some a ∧ p.core? (32 * s.ev.t + s.ev.j) = some c
        ∧ p.tiles[s.ev.t]? = some x ∧ x.svc.svlim ≠ 0 ∧ a + 1000 * x.svc.svlim.toNat ≤ planeTime s p s.ev.t ∧ r.answered = true)
    ∧ (∃ s p r a x, On s p ∧ p.served s.ev.t s.ev.j = some r ∧ r.taken = some a ∧ p.tiles[s.ev.t]? = some x
        ∧ planeTime s p s.ev.t < a + 1000 * x.svc.svlim.toNat)
    ∧ (∃ s p m tile c, On s p ∧ s.dev.mboxes[s.ev.c]? = some m ∧ (m.slots.any fun x => x.1 == s.ev.n) = true ∧ s.ev.n < 1536
        ∧ s.tileAt (48 * s.ev.c + s.ev.n / 32) = some (s.ev.p, tile) ∧ p.core? (32 * tile + s.ev.n % 32) = some c ∧ c.hold = .mbrel)
    ∧ (∃ s p img x, On s p ∧ s.dev.svcNext = some img ∧ p.tiles[s.ev.t]? = some x ∧ x.svc.svver ≠ img.version
        ∧ ∀ r, some r ∈ x.svc.slots → r.taken = none ∨ r.cause = 0x0B ∧ p.debug = true)
    ∧ (∃ s p r c, On s p ∧ s.barOk p = true ∧ s.ev.flag = false ∧ p.served (fld s.ev.v 13 5) (fld s.ev.v 4 0) = some r ∧ r.offered = true ∧ r.answered = false
        ∧ p.core? (32 * fld s.ev.v 13 5 + fld s.ev.v 4 0) = some c ∧ s.ev.v.getLsbD 16 = false ∧ (p.dropTlb (faultKey (32 * fld s.ev.v 13 5 + fld s.ev.v 4 0)) (some r.addr.toNat)).tlbQuiet (faultKey (32 * fld s.ev.v 13 5 + fld s.ev.v 4 0)) = true
        ∧ (svcOf p (fld s.ev.v 13 5)).stopped = false ∧ p.dropping = [])
    ∧ (∃ s p r c, On s p ∧ s.barOk p = true ∧ s.ev.flag = false ∧ p.served (fld s.ev.v 13 5) (fld s.ev.v 4 0) = some r ∧ r.offered = true
        ∧ r.answered = false ∧ p.core? (32 * fld s.ev.v 13 5 + fld s.ev.v 4 0) = some c ∧ s.ev.v.getLsbD 16 = false
        ∧ (p.dropTlb (faultKey (32 * fld s.ev.v 13 5 + fld s.ev.v 4 0)) (some r.addr.toNat)).tlbQuiet (faultKey (32 * fld s.ev.v 13 5 + fld s.ev.v 4 0)) = false
        ∧ (svcOf p (fld s.ev.v 13 5)).stopped = false ∧ p.dropping = [])
    ∧ (∃ s p r, On s p ∧ s.barOk p = true ∧ p.served (fld s.ev.v 13 5) (fld s.ev.v 4 0) = some r ∧ r.offered = true ∧ r.answered = false
        ∧ s.ev.flag = false ∧ s.ev.v.getLsbD 16 = true)
    ∧ (∃ s p, On s p ∧ s.ev.flag = false ∧ s.barOk p = true ∧ p.tlbinv.getLsbD 63 = false ∧ s.ev.v.getLsbD 63 = true ∧ s.ev.v.getLsbD 62 = true
        ∧ (p.dropTlb hostKey none).tlbQuiet hostKey = true)
    ∧ (∃ s p r c, On s p ∧ p.served s.ev.t s.ev.j = some r ∧ r.taken.isSome = true ∧ r.cause = 0x0C ∧ p.core? (32 * s.ev.t + s.ev.j) = some c
        ∧ r.info = 0)
    ∧ (∃ s p r, On s p ∧ p.served s.ev.t s.ev.j = some r ∧ svcListed r.info.toNat = false)
    ∧ (∃ s p r, On s p ∧ p.served s.ev.t s.ev.j = some r ∧ r.info = 0x010 ∧ (r.rcd.word 1).toNat = 255 ∧ (r.rcd.word 2).toNat = 4096
        ∧ (r.rcd.word 3).toNat = 0 ∧ (r.rcd.word 4).toNat = 0 ∧ (r.rcd.word 5).toNat = 0 ∧ p.group? 255 = none ∧ r.begun = none
        ∧ (∀ x ∈ s.dev.peers, x.job ≠ p.job) ∧ p.declared 255 = true)
    ∧ (∃ s p r, On s p ∧ p.served s.ev.t s.ev.j = some r ∧ r.info = 0x010 ∧ (p.group? (r.rcd.word 1).toNat).isSome = true)
    ∧ (∃ s p r c g, On s p ∧ p.served s.ev.t s.ev.j = some r ∧ r.info = 0x011 ∧ p.core? (32 * s.ev.t + s.ev.j) = some c
        ∧ p.group? (r.rcd.word 1).toNat = some g ∧ (r.rcd.word 2).toNat < g.size ∧ (g.live.any fun m => m.idx == (r.rcd.word 2).toNat) = false
        ∧ g.mine c.cid = none ∧ (g.live.any (g.beyond s.dev)) = false ∧ r.begun = none ∧ ∀ m ∈ g.live, m.dev = none)
    ∧ (∃ s p r c g m, On s p ∧ p.served s.ev.t s.ev.j = some r ∧ r.info = 0x011 ∧ p.core? (32 * s.ev.t + s.ev.j) = some c
        ∧ p.group? (r.rcd.word 1).toNat = some g ∧ (r.rcd.word 2).toNat < g.size ∧ (g.live.any fun m => m.idx == (r.rcd.word 2).toNat) = false
        ∧ g.mine c.cid = none ∧ (g.live.any (g.beyond s.dev)) = false ∧ r.begun = none ∧ g.here = [] ∧ m ∈ g.live ∧ m.dev.isSome = true)
    ∧ (∃ s p r, On s p ∧ p.served s.ev.t s.ev.j = some r ∧ r.info = 0x011 ∧ r.begun.isSome = true ∧ p.joined s.ev.t (r.rcd.word 1).toNat = true)
    ∧ (∃ s p r, On s p ∧ p.served s.ev.t s.ev.j = some r ∧ r.info = 0x011 ∧ r.begun.isSome = true ∧ p.joined s.ev.t (r.rcd.word 1).toNat = false)
    ∧ (∃ s p r c g m, On s p ∧ p.served s.ev.t s.ev.j = some r ∧ r.info = 0x012 ∧ p.core? (32 * s.ev.t + s.ev.j) = some c
        ∧ p.group? (r.rcd.word 1).toNat = some g ∧ g.mine c.cid = some m)
    ∧ (∃ s p r g, On s p ∧ p.served s.ev.t s.ev.j = some r ∧ r.info = 0x013 ∧ p.group? (r.rcd.word 1).toNat = some g
        ∧ (g.members.any fun m => m.idx == (r.rcd.word 2).toNat) = true ∧ (s.dev.syncLost && g.span) = false ∧ 1 ∈ g.tiles ∧ 1 ≠ s.ev.t
        ∧ p.cut.contains (s.ev.t, 1) = false)
    ∧ (∃ s p r g, On s p ∧ p.served s.ev.t s.ev.j = some r ∧ r.info = 0x014 ∧ p.group? (r.rcd.word 1).toNat = some g)
    ∧ (∃ s p r c, On s p ∧ p.served s.ev.t s.ev.j = some r ∧ r.info = 0x100 ∧ p.core? (32 * s.ev.t + s.ev.j) = some c ∧ (r.rcd.word 1).toNat = 3
        ∧ (r.rcd.word 2).toNat = 1 ∧ (r.rcd.word 3).toNat = 1000000 ∧ (r.rcd.word 4).toNat + 4 * 1 = 0x38000
        ∧ (∀ d ∈ (List.range 1).map fun k => c.lm.num ((r.rcd.word 4).toNat + 4 * k) 4, s.jobDev p d = true)
        ∧ (s.dev.slots.filter fun x => x.owner == s.ev.p && x.job == p.job).length < p.swshare ∧ s.slot? 1 = none
        ∧ (∀ k, k < 1 → (s.slot? k).isSome = true) ∧ 1 ≤ s.dev.slots.length)
    ∧ (∃ s p r x, On s p ∧ p.served s.ev.t s.ev.j = some r ∧ r.info = 0x101 ∧ s.slot? (fld (r.rcd.word 1) 11 0) = some x ∧ x.owner = s.ev.p)
    ∧ (∃ s p r x, On s p ∧ p.served s.ev.t s.ev.j = some r ∧ r.info = 0x101 ∧ s.slot? (fld (r.rcd.word 1) 11 0) = some x ∧ x.owner ≠ s.ev.p)
    ∧ ∃ s p r, On s p ∧ p.served s.ev.t s.ev.j = some r ∧ r.info = 0x102 ∧ (r.rcd.word 1).toNat = 7
        ∧ (∀ i, i < 24 → ((s.dev.ports[i]?).map (·.lanes)).getD 0 < 16) ∧ (∀ x ∈ s.dev.hbm, x < 256) :=
  ⟨⟨tAsked (tReq 0x0B 0 [] none) [0] fun p => { p with debug := true }, _, _, 0, [], _, rfl, rfl, rfl, by decide, rfl, by decide, by decide, rfl, rfl⟩,
   ⟨tAsked (tReq 0x0B 0 [] none) [0] id {} { svcNext := some ⟨7, 0, true, .service⟩ }, _, _, _, _, rfl, rfl, rfl, rfl, rfl, by decide⟩,
   ⟨tAsked (tReq 0x0B 0 [] none) [0], _, _, _, _, rfl, rfl, rfl, rfl, rfl, rfl, rfl, rfl⟩,
   ⟨tEv (tPlot { tCore with hold := .svrel }) {}, _, _, rfl, rfl, rfl, rfl, rfl, rfl⟩,
   ⟨tEv (tStopped (tPlot tCore)) {}, _, _, rfl, rfl, rfl⟩,
   ⟨tAsked (tReq 0x0C 0 [] none) [0] tStopped, _, _, _, rfl, rfl, rfl, rfl, rfl⟩,
   ⟨tEv (tPlot tCore) { flag := true, n := 383 } { svcNext := some ⟨7, 0, true, .service⟩ }, _, rfl, rfl, by decide, by decide, rfl, by decide⟩,
   ⟨tEv (tPlot { tCore with hold := .svrel, back := some tMsg, returned := some (tMsg.ident, 3) }) {}, _, _, rfl, rfl, rfl, rfl, rfl⟩,
   ⟨tAsked (tReq 0x0C 0 [] (some 0)) [] id {} { time := 1000000 }, _, _, _, _, _, rfl, rfl, rfl, rfl, rfl, by decide, rfl, rfl, by decide⟩,
   ⟨tAsked { (tReq 0x30 0 [] (some 0) true) with answered := true } [] id {} { time := 1000000 }, _, _, _, _, _, rfl, rfl, rfl, rfl, rfl, by decide,
      by decide, rfl⟩,
   ⟨tAsked (tReq 0x0C 0 [] (some 0)) [] id {} { time := 999999 }, _, _, _, _, rfl, rfl, rfl, rfl, by decide⟩,
   ⟨tEv (tPlot { tCore with hold := .mbrel }) {} { mboxes := [⟨[(0, { cause := 0, kind := 2 })], 0, 0, 0, []⟩] }, _, _, _, _, rfl, rfl, rfl, by decide, rfl,
      rfl, rfl⟩,
   ⟨tEv (tPlot tCore) {} { svcNext := some ⟨7, 0, true, .service⟩ }, _, _, _, rfl, rfl, rfl, by decide,
      fun r hr => nomatch List.eq_of_mem_replicate hr⟩,
   ⟨tAsked (tReq 0x30 0 [] (some 0) true), _, _, _, rfl, rfl, rfl, rfl, rfl, rfl, rfl, rfl, rfl, rfl, rfl⟩,
   ⟨tAsked (tReq 0x30 0 [] (some 0) true) [] fun p => { p with fabric := [tHome (.store [])] }, _, _, _, rfl, rfl, rfl, rfl, rfl, rfl, rfl, rfl,
      rfl, rfl, rfl⟩,
   ⟨tAsked (tReq 0x30 0 [] (some 0) true) [] id { v := 0x10000 }, _, _, rfl, rfl, rfl, rfl, rfl, rfl, rfl⟩,
   ⟨tEv (tPlot tCore) { v := 0xC000000000000000 }, _, rfl, rfl, rfl, rfl, rfl, rfl, rfl⟩,
   ⟨tFn 0 [], _, _, _, rfl, rfl, rfl, rfl, rfl, rfl⟩, ⟨tFn 1 [], _, _, rfl, rfl, by decide⟩,
   ⟨tFn 0x010 [255, 4096], _, _, rfl, rfl, rfl, rfl, rfl, rfl, rfl, rfl, rfl, rfl, by decide, rfl⟩, ⟨tFn 0x010 [3] tGroups, _, _, rfl, rfl, rfl, rfl⟩,
   ⟨tFn 0x011 [3, 1] (fun p => { p with groups := [{ tGroup with size := 2, members := [] }] }), _, _, _, _, rfl, rfl, rfl, rfl, rfl, by decide, rfl, rfl, rfl, rfl, by decide⟩,
   ⟨tFn 0x011 [3, 1] tFar, _, _, _, _, { tMine with dev := some 2 }, rfl, rfl, rfl, rfl, rfl, by decide, rfl, rfl, by decide, rfl, rfl, by decide, rfl⟩,
   ⟨tAsked { (tReq 0x0C 0x011 [3, 1] (some 0)) with begun := some 0 }, _, _, rfl, rfl, rfl, rfl, rfl⟩,
   ⟨tAsked { (tReq 0x0C 0x011 [3, 1] (some 0)) with begun := some 0 } [] fun p => { tFar p with tiles := [{ (p.tiles.getD 0 tTile) with clu := [{ (tRep []) with synced := false }] }] },
      _, _, rfl, rfl, rfl, rfl, rfl⟩,
   ⟨tFn 0x012 [3] tGroups, _, _, _, _, _, rfl, rfl, rfl, rfl, rfl, rfl⟩, ⟨tFn 0x013 [3, 0] fun p => { p with groups := [{ tGroup with size := 2, members := [tMine, { tMine with idx := 1, cid := 32 }] }] }, _, _, _,
      rfl, rfl, rfl, rfl, rfl, rfl, by decide, by decide, rfl⟩,
   ⟨tFn 0x014 [3] tGroups, _, _, _, rfl, rfl, rfl, rfl⟩,
   ⟨tFn 0x100 [3, 1, 1000000, 0x37FFC] (fun p => { p with swshare := 2 }) {} { slots := [tSlot] }, _, _, _, rfl, rfl, rfl, rfl, rfl, rfl, rfl, rfl,
      by decide, by decide, rfl, zero_of_lt_one rfl, by decide⟩,
   ⟨tFn 0x101 [0] id {} { slots := [tSlot] }, _, _, _, rfl, rfl, rfl, rfl, rfl⟩,
   ⟨tFn 0x101 [0] id {} { slots := [{ tSlot with owner := 1 }] }, _, _, _, rfl, rfl, rfl, rfl, by decide⟩, ⟨tFn 0x102 [7], _, _, rfl, rfl, rfl, rfl, by decide, by decide⟩⟩

/-- A plot whose first gigabyte is the host's, and its host queue 0 with an entry before it. -/
def tHostPlot : Plot :=
  { (tPlot tCore) with ptrootEff := 0x1001, mem := [(0x1000, 0x01), (0x1001, 0x20), (0x2000, 0x1F)], hqs := [{ base := 0x8004000000010000 }],
                       hqIn := [(0, tTag, [0])] }
theorem witness_HostEvents :
    (∃ s p n t ws rest a, On s p ∧ s.ev.flag = false ∧ p.hqIn = (n, t, ws) :: rest ∧ n < p.hqs.length ∧ (p.hqs.getD n {}).ok = true
        ∧ (p.hqs.getD n {}).full = false ∧ (p.hqs.getD n {}).pia = 0 ∧ s.dev.hostlost = false ∧ p.parkHold = 0 ∧ p.park = []
        ∧ p.hostAt (fld (p.hqs.getD n {}).base 47 0 + 64 * ((p.hqs.getD n {}).pi.toNat % 2 ^ fld (p.hqs.getD n {}).base 51 48)) = some a)
    ∧ (∃ s p, On s p ∧ s.barOk p = true ∧ p.park = [] ∧ s.ev.n < p.hqs.length) ∧ (∃ s p, On s p ∧ s.barOk p = false)
    ∧ (∃ s p, On s p ∧ s.barOk p = true ∧ s.ev.flag = false ∧ s.ev.bytes.length ≠ 0 ∧ s.ev.v.toNat % 64 + s.ev.bytes.length = 64
        ∧ s.ev.v.toNat + s.ev.bytes.length = p.memsz ∧ p.mem.wf = true)
    ∧ (∃ s p, On s p ∧ s.barOk p = true ∧ s.ev.n ≠ 0 ∧ s.ev.v.toNat + s.ev.n = p.memsz ∧ p.memErr = [] ∧ s.ev.op = .add ∧ s.ev.n = 8
        ∧ s.ev.v.toNat % s.ev.n = 0 ∧ p.wq = [])
    ∧ (∃ s p, On s p ∧ s.barOk p = true ∧ p.memsz < s.ev.v.toNat + s.ev.n)
    ∧ (∃ s : State, s.ev.flag = true ∧ s.dev.linkUp = true ∧ s.dev.hostlost = false) ∧ (∃ s : State, s.dev.linkUp = false ∧ s.dev.hostlost = false)
    ∧ (∃ s : State, s.dev.hostlost = false ∧ s.dev.beat.getLsbD 0 = true ∧ s.dev.beatAt + 100000000 = s.dev.time ∧ s.ev.flag = false)
    ∧ (∃ s : State, s.dev.hostlost = false ∧ s.ev.flag = false ∧ s.dev.time + 1 = s.dev.beatAt + 100000000)
    ∧ ∃ s : State, s.dev.hostlost = true ∧ s.dev.linkUp = true ∧ s.dev.beat.getLsbD 0 = false :=
  ⟨⟨tEv tHostPlot {}, _, _, _, _, _, _, rfl, rfl, rfl, by decide, rfl, rfl, rfl, rfl, rfl, rfl, rfl⟩, ⟨tEv tHostPlot {}, _, rfl, rfl, rfl, by decide⟩,
   ⟨tEv tHostPlot {} { vfs := [⟨1, some 0, .error, 0, 0, [], none, []⟩] }, _, rfl, rfl⟩, ⟨tEv (tPlot tCore) { v := 0xFFFF, bytes := [7] }, _, rfl, rfl, rfl, by decide, rfl, rfl, rfl⟩,
   ⟨tEv (tPlot tCore) { v := 0xFFF8, n := 8 }, _, rfl, rfl, by decide, rfl, rfl, rfl, rfl, rfl, rfl⟩, ⟨tEv (tPlot tCore) { v := 0xFFF9, n := 8 }, _, rfl, rfl, by decide⟩,
   ⟨{ State.reset with ev := { flag := true } }, rfl, rfl, rfl⟩, ⟨{ State.reset with dev := { linkUp := false } }, rfl, rfl⟩,
   ⟨{ State.reset with dev := { beat := 1, time := 100000000 } }, rfl, rfl, rfl, rfl⟩, ⟨{ State.reset with dev := { beat := 1, time := 99999999 } }, rfl, rfl, rfl⟩,
   ⟨{ State.reset with dev := { hostlost := true } }, rfl, rfl, rfl⟩⟩

theorem witness_DeviceEvents :
    (∃ s : State, s.dev.linkUp = true ∧ s.dev.pfOwns = true) ∧ (∃ s : State, s.dev.linkUp = false ∨ s.dev.pfOwns = false)
    ∧ (∃ s : State, s.dev.devstat = 0 ∧ s.ev.fail = none ∧ s.ev.nums = [] ∧ s.dev.time < s.dev.bootAt + 60000000000)
    ∧ (∃ s : State, s.dev.devstat = 0 ∧ s.ev.fail = none ∧ s.dev.bootAt + 60000000000 = s.dev.time ∧ s.dev.fails.toNat = 1)
    ∧ (∃ s t : State, s.dev.strikes = true ∧ t ≠ s) ∧ (∃ s : State, s.dev.strikes = false)
    ∧ (∃ (s : State) (x : Port), s.dev.devstat = 0 ∧ s.ev.fail = none ∧ s.ev.nums.length = 48 ∧ s.dev.ports[0]? = some x
        ∧ s.dev.time < s.dev.bootAt + 60000000000)
    ∧ (∃ s : State, s.dev.devstat = 0 ∧ s.ev.fail = some (3, 0) ∧ s.dev.fails.toNat = 1 ∧ s.dev.bootAt + 60000000000 = s.dev.time)
    ∧ (∃ s : State, s.dev.devstat = 0 ∧ s.ev.fail = some (3, 0) ∧ s.dev.fails.toNat = 2) ∧ (∃ s : State, s.dev.devstat ≠ 0)
    ∧ (∃ s : State, s.ev.flag = true ∧ s.dev.linkUp = true) ∧ (∃ s : State, s.ev.flag = false ∧ s.dev.staged = none)
    ∧ (∃ s : State, s.ev.flag = false ∧ s.dev.staged = some ⟨1, 0, true, .service⟩)
    ∧ (∃ s : State, s.dev.devstat = 1 ∧ s.ev.p < 16 ∧ s.ev.n = 1 ∧ (s.dev.vf s.ev.n).tdi = .locked)
    ∧ (∃ s : State, s.dev.devstat = 1 ∧ s.ev.p = 15 ∧ (∀ q ∈ s.plots, q.pid ≠ s.ev.p) ∧ s.ev.n = 128 ∧ (s.dev.vf s.ev.n).plot = none
        ∧ (s.dev.vf s.ev.n).tdi = .unlocked ∧ s.ev.v.toNat = 65536 ∧ s.ev.v.toNat % 65536 = 0 ∧ s.tilesOk s.ev.p s.ev.nums = true
        ∧ (s.plots.map fun q => q.memsz + q.pool).sum + s.ev.v.toNat ≤ s.dev.capacity)
    ∧ (∃ s p, On s p ∧ p.torn = false ∧ s.tdi p = .unlocked ∧ p.idle = true ∧ s.tilesOk p.pid s.ev.nums = true ∧ s.ev.flag = !s.dev.pfOwns
        ∧ p.link = [] ∧ (∀ x ∈ s.dev.slots, x.owner ≠ s.ev.p) ∧ ∀ w ∈ p.waiters, w.op.home = none)
    ∧ (∃ s p, On s p ∧ p.torn = false ∧ s.tdi p = .unlocked ∧ p.idle = false ∧ s.ev.flag = s.dev.pfOwns)
    ∧ (∃ s p, On s p ∧ p.torn = false ∧ s.tdi p = .locked ∧ s.ev.flag = !s.dev.pfOwns) ∧ (∃ s : State, 1 ≤ s.ev.n ∧ s.ev.n = 128 ∧ s.dev.devstat ≠ 2)
    ∧ (∃ s p, On s p ∧ s.barOk p = true ∧ s.ev.reg = .hqPia 15 ∧ (15 : Fin 16).val + 1 = p.hqs.length) ∧ (∃ s p, On s p ∧ s.barOk p = true ∧ s.ev.reg = .ptroot)
    ∧ (∃ s : State, s.dev.linkUp = true ∧ s.ev.reg = .injAddr ∧ s.dev.inj.getLsbD 6 = false) ∧ (∃ s : State, s.ev.reg = .readOnly) ∧ (∃ s : State, s.dev.devstat = 2)
    ∧ (∃ s : State, s.dev.devstat ≠ 2 ∧ s.ev.flag = true ∧ s.dev.inj.getLsbD 6 = false)
    ∧ (∃ (s : State) (p : Plot) (c : Core), s.dev.devstat ≠ 2 ∧ s.ev.flag = true ∧ s.dev.inj.getLsbD 6 = true ∧ s.dev.inj.toNat % 16 = 0
        ∧ s.dev.inj.toNat / 16 % 4 = 2 ∧ s.dev.injPlot = s.ev.p ∧ On s p ∧ p.core? (fld s.dev.injAddr 31 18) = some c)
    ∧ (∃ (s : State) (p : Plot) (c : Core), s.dev.devstat ≠ 2 ∧ s.ev.flag = false ∧ s.dev.inj.getLsbD 6 = false ∧ On s p ∧ s.ev.v.toNat % 16 = 0 ∧ fld s.ev.v 5 4 = 2 ∧ p.core? (fld s.dev.injAddr 31 18) = some c)
    ∧ (∃ s p cause, On s p ∧ p.torn = false ∧ 64 * s.ev.n + 64 = p.memsz ∧ p.lineErr s.ev.n = some cause
        ∧ NewError s.dev cause.toNat (BitVec.ofNat 64 (64 * s.ev.n)))
    ∧ (∃ s : State, s.ev.nums = [] ∧ s.dev.lifeNew = [(3, 4)] ∧ s.dev.time + 1 = s.dev.hoursAt + 3600000000000)
    ∧ ∃ s : State, s.dev.linkUp = true ∧ (s.dev.vf s.ev.n).session = 2 ∧ s.ev.vendor = .tdispLock ∧ (s.dev.vf s.ev.n).tdi = .unlocked
        ∧ s.dev.devstat ≠ 2 :=
  ⟨⟨State.reset, rfl, rfl⟩, ⟨{ State.reset with dev := { linkUp := false } }, .inl rfl⟩, ⟨State.reset, rfl, rfl, rfl, by decide⟩,
   ⟨{ State.reset with dev := { fails := 1, time := 60000000000 } }, rfl, rfl, rfl, rfl⟩, ⟨{ State.reset with dev := { inj := 0x50 } }, State.reset, rfl, by decide⟩, ⟨State.reset, rfl⟩,
   ⟨{ State.reset with ev := { nums := List.replicate 48 3 } }, _, rfl, rfl, rfl, rfl, by decide⟩,
   ⟨{ State.reset with dev := { fails := 1, time := 60000000000 }, ev := { fail := some (3, 0) } }, rfl, rfl, rfl, rfl⟩,
   ⟨{ State.reset with dev := { fails := 2 }, ev := { fail := some (3, 0) } }, rfl, rfl, rfl⟩, ⟨{ State.reset with dev := { devstat := 1 } }, by decide⟩,
   ⟨{ State.reset with ev := { flag := true } }, rfl, rfl⟩, ⟨State.reset, rfl, rfl⟩, ⟨{ State.reset with dev := { staged := some ⟨1, 0, true, .service⟩ } }, rfl, rfl⟩,
   ⟨{ State.reset with dev := { devstat := 1, vfs := [⟨1, none, .locked, 0, 0, [], none, []⟩] }, ev := { n := 1 } }, rfl, by decide, rfl, rfl⟩,
   ⟨{ State.reset with dev := { devstat := 1 }, ev := { p := 15, n := 128, v := 0x10000, nums := [47, 383] } }, rfl, rfl, by decide, rfl, rfl, rfl, by decide,
      by decide, by decide, by decide⟩,
   ⟨tEv { (tPlot (Core.init 0)) with launches := [] } { nums := [0, 5] }, _, rfl, rfl, rfl, rfl, by decide, rfl, rfl, by decide, by decide⟩,
   ⟨tEv (tPlot tCore) { flag := true }, _, rfl, rfl, rfl, rfl, rfl⟩, ⟨tEv (tPlot tCore) {} { vfs := [⟨1, some 0, .locked, 0, 0, [], none, []⟩] }, _, rfl, rfl, rfl, rfl⟩,
   ⟨{ State.reset with ev := { n := 128 } }, by decide, rfl, by decide⟩, ⟨tEv (tPlot tCore) { reg := .hqPia 15 }, _, rfl, rfl, rfl, rfl⟩,
   ⟨tEv (tPlot tCore) { reg := .ptroot }, _, rfl, rfl, rfl⟩, ⟨{ State.reset with ev := { reg := .injAddr } }, rfl, rfl, rfl⟩, ⟨State.reset, rfl⟩,
   ⟨{ State.reset with dev := { devstat := 2 } }, rfl⟩, ⟨{ State.reset with ev := { flag := true } }, by decide, rfl, rfl⟩,
   ⟨tEv (tPlot tCore) { flag := true } { inj := 0x60 }, _, _, by decide, rfl, rfl, rfl, rfl, rfl, rfl, rfl⟩,
   ⟨tEv (tPlot tCore) { v := 0x20 }, _, _, by decide, rfl, rfl, rfl, rfl, rfl, rfl⟩,
   ⟨tEv { (tPlot tCore) with memErr := [(1023, 0xB0)] } { n := 1023 }, _, _, rfl, rfl, rfl, rfl, fun _ h => nomatch h⟩,
   ⟨{ State.reset with dev := { lifeNew := [(3, 4)], time := 3599999999999 } }, rfl, rfl, rfl⟩,
   ⟨{ State.reset with dev := { vfs := [⟨1, none, .unlocked, 3, 2, [], none, []⟩] }, ev := { n := 1 } }, rfl, rfl, rfl, rfl, by decide⟩⟩

def tPeer (job : BitVec 32) : Peer := ⟨5, job, 0x10000, [], 0⟩
def tFab (e : HEntry → HEntry) (ev : EvArgs := {}) (d : Device := { peers := [tPeer 0] }) : State :=
  tEv { (tPlot tWaiting) with fabric := [e { tHome (.atom .add true false 0xFFF8 1 0 true) with peer := 5 }] } ev d
theorem witness_FabricEvents :
    (∃ (s : State) (x : Port), s.dev.ports[s.ev.n]? = some x ∧ x.up = true ∧ s.ev.flag = true ∧ x.replays = 2
        ∧ NewError s.dev 0xA0 (BitVec.ofNat 64 s.ev.n))
    ∧ (∃ (s : State) (x : Port), s.dev.ports[s.ev.n]? = some x ∧ x.up = true ∧ s.ev.flag = true ∧ x.replays = 3 ∧ x.bucket = 0
        ∧ NewError s.dev 0xA2 (BitVec.ofNat 64 s.ev.n))
    ∧ (∃ (s : State) (x : Port), s.dev.ports[s.ev.n]? = some x ∧ x.up = false ∧ x.lanes = 0 ∧ s.dev.time = x.refillAt + 450000000000)
    ∧ (∃ s p e, On s p ∧ p.fabric[s.ev.j]? = some e ∧ s.fabClear e.peer e.fabNo = true ∧ e.aborted = false)
    ∧ (∃ s p e, On s p ∧ p.fabric[s.ev.j]? = some e ∧ s.fabClear e.peer e.fabNo = true ∧ e.aborted = true ∧ e.aborts = 8 ∧ e.nextTry = s.dev.time)
    ∧ (∃ s p e t, On s p ∧ p.fabric[s.ev.j]? = some e ∧ s.fabClear e.peer e.fabNo = true ∧ e.aborted = true ∧ e.aborts = 9 ∧ e.nextTry ≤ s.dev.time
        ∧ e.act.returns = true ∧ e.tags = [t] ∧ Waits p t)
    ∧ (∃ s p e, On s p ∧ p.fabric[s.ev.j]? = some e ∧ s.fabClear e.peer e.fabNo = true ∧ e.aborted = true ∧ s.dev.time < e.nextTry)
    ∧ (∃ s p e x t y, On s p ∧ p.fabric[s.ev.j]? = some e ∧ s.fabClear e.peer e.fabNo = true ∧ s.ev.opt = none ∧ s.dev.ports[s.ev.n]? = some x ∧ x.up = true
        ∧ e.aborted = false ∧ e.nextTry ≤ s.dev.time ∧ e.act = .atom .add true false 0xFFF8 1 0 true ∧ e.tags = [t] ∧ Waits p t
        ∧ s.dev.peers.find? (fun z => z.dev == e.peer) = some y ∧ y.job = p.job ∧ 0xFFF8 < y.memsz ∧ s.ev.flag = false)
    ∧ (∃ s p e x y, On s p ∧ p.fabric[s.ev.j]? = some e ∧ s.fabClear e.peer e.fabNo = true ∧ s.ev.opt = none ∧ s.dev.ports[s.ev.n]? = some x ∧ x.up = true
        ∧ e.aborted = false ∧ e.nextTry ≤ s.dev.time ∧ e.act = .store [(0xFFFF, 7, 0xFF)]
        ∧ s.dev.peers.find? (fun z => z.dev == e.peer) = some y ∧ y.job = p.job ∧ 0xFFFF < y.memsz ∧ s.ev.flag = false)
    ∧ (∃ s p e x t y, On s p ∧ p.fabric[s.ev.j]? = some e ∧ s.fabClear e.peer e.fabNo = true ∧ s.ev.opt = none ∧ s.dev.ports[s.ev.n]? = some x ∧ x.up = true
        ∧ e.aborted = false ∧ e.nextTry ≤ s.dev.time ∧ e.act = .read 0xFFFF 1 ∧ e.tags = [t] ∧ Waits p t
        ∧ s.dev.peers.find? (fun z => z.dev == e.peer) = some y ∧ y.job = p.job ∧ 0xFFFF < y.memsz ∧ s.ev.flag = false)
    ∧ (∃ s p e, On s p ∧ p.fabric[s.ev.j]? = some e ∧ s.ev.flag = true ∧ e.tries + 2 = p.rtries)
    ∧ (∃ s p e, On s p ∧ p.fabric[s.ev.j]? = some e ∧ s.ev.flag = true ∧ p.rtries = e.tries + 1)
    ∧ (∃ s p e y, On s p ∧ p.fabric[s.ev.j]? = some e ∧ s.dev.peers.find? (fun z => z.dev == e.peer) = some y ∧ y.job ≠ p.job)
    ∧ (∃ (s : State) (p : Plot), s.plots = [p] ∧ p.torn = false ∧ p.job = s.ev.w.setWidth 32 ∧ s.ev.opt = some 0 ∧ s.ev.v.toNat + s.ev.t = p.memsz ∧ p.memErr = []
        ∧ fabricForm 0 s.ev.v.toNat s.ev.t = true)
    ∧ (∃ s : State, (∀ p ∈ s.plots, p.torn = true ∨ p.job ≠ s.ev.w.setWidth 32) ∧ s.ev.opt = some 0
        ∧ fabricForm 0 s.ev.v.toNat s.ev.t = true ∧ NewError s.dev 0xB0 s.ev.v)
    ∧ (∃ s : State, s.ev.opt = some 3)
    ∧ (∃ s : State, s.ev.flag = false ∧ ∀ x ∈ s.dev.ports, ∃ t, x.retraining = some t ∧ t + 10000000 ≤ s.dev.time)
    ∧ (∃ s : State, ∃ x ∈ s.dev.ports, x.up = true) ∧ ∃ s : State, ∀ x ∈ s.dev.ports, x.up = false :=
  ⟨⟨{ State.reset with dev := { ports := [{ replays := 2 }] }, ev := { flag := true } }, _, rfl, rfl, rfl, rfl, fun _ h => nomatch h⟩,
   ⟨{ State.reset with dev := { ports := [{ replays := 3, bucket := 0 }] }, ev := { flag := true } }, _, rfl, rfl, rfl, rfl, rfl, fun _ h => nomatch h⟩,
   ⟨{ State.reset with dev := { ports := [{ lanes := 0 }], time := 450000000000 } }, _, rfl, rfl, rfl, rfl⟩, ⟨tFab id, _, _, rfl, rfl, rfl, rfl⟩,
   ⟨tFab fun e => { e with aborted := true, aborts := 8 }, _, _, rfl, rfl, rfl, rfl, rfl, rfl⟩,
   ⟨tFab fun e => { e with aborted := true, aborts := 9 }, _, _, _, rfl, rfl, rfl, rfl, rfl, by decide, rfl, rfl, waits_tWaiting _ rfl⟩,
   ⟨tFab fun e => { e with aborted := true, nextTry := 1 }, _, _, rfl, rfl, rfl, rfl, by decide⟩,
   ⟨tFab id, _, _, _, _, _, rfl, rfl, rfl, rfl, rfl, rfl, rfl, by decide, rfl, rfl, waits_tWaiting _ rfl, rfl, rfl, by decide, rfl⟩,
   ⟨tFab (fun e => { e with act := .store [(0xFFFF, 7, 0xFF)] }), _, _, _, _, rfl, rfl, rfl, rfl, rfl, rfl, rfl, by decide, rfl, rfl, rfl, by decide, rfl⟩,
   ⟨tFab (fun e => { e with act := .read 0xFFFF 1 }), _, _, _, _, _, rfl, rfl, rfl, rfl, rfl, rfl, rfl, by decide, rfl, rfl, waits_tWaiting _ rfl, rfl, rfl, by decide, rfl⟩,
   ⟨tFab (fun e => { e with tries := 18 }) { flag := true }, _, _, rfl, rfl, rfl, rfl⟩, ⟨tFab (fun e => { e with tries := 19 }) { flag := true }, _, _, rfl, rfl, rfl, rfl⟩,
   ⟨tFab id {} { peers := [tPeer 1] }, _, _, _, rfl, rfl, rfl, by decide⟩, ⟨tEv (tPlot tCore) { opt := some 0, v := 0xFFC0, t := 64 }, _, rfl, rfl, rfl, rfl, rfl, rfl, rfl⟩,
   ⟨{ State.reset with ev := { opt := some 0, t := 1 } }, by decide, rfl, rfl, fun _ h => nomatch h⟩, ⟨{ State.reset with ev := { opt := some 3 } }, rfl⟩,
   ⟨{ State.reset with dev := { ports := [{ retraining := some 0 }], time := 10000000 } }, rfl, fun x hx => ⟨0, by simp only [List.mem_singleton] at hx; rw [hx], by decide⟩⟩,
   ⟨State.reset, {}, by decide, rfl⟩, ⟨{ State.reset with dev := { ports := [{ lanes := 0 }] } }, by decide⟩⟩

/-! Words written out bit by bit from the encoding tables of the spec, at least one for every instruction, and what they stand for. -/

theorem test_words_00_0 :
    decodeTableWord 32 0x00049A81 = some (.add 5 3 9) ∧ decodeTableWord 32 0x00149A81 = some (.sub 5 3 9)
    ∧ decodeTableWord 32 0x00249A81 = some (.and 5 3 9) ∧ decodeTableWord 32 0x00349A81 = some (.or 5 3 9)
    ∧ decodeTableWord 32 0x00449A81 = some (.xor 5 3 9) ∧ decodeTableWord 32 0x00549A81 = some (.andn 5 3 9)
    ∧ decodeTableWord 32 0x00649A81 = some (.shl 5 3 9) ∧ decodeTableWord 32 0x00749A81 = some (.shr 5 3 9)
    ∧ decodeTableWord 32 0x00849A81 = some (.sra 5 3 9) ∧ decodeTableWord 32 0x00949A81 = some (.rotl 5 3 9)
    ∧ decodeTableWord 32 0x00A49A81 = some (.minI64 5 3 9) ∧ decodeTableWord 32 0x00B49A81 = some (.maxI64 5 3 9) := by
  refine ⟨?_, ?_, ?_, ?_, ?_, ?_, ?_, ?_, ?_, ?_, ?_, ?_⟩ <;> rfl
theorem test_words_00_1 :
    decodeTableWord 32 0x00C49A81 = some (.minN64 5 3 9) ∧ decodeTableWord 32 0x00D49A81 = some (.maxN64 5 3 9)
    ∧ decodeTableWord 32 0x00E01A81 = some (.mov 5 3) ∧ decodeTableWord 32 0x00F49801 = some (.cmp 3 9)
    ∧ decodeTableWord 32 0x01049801 = some (.tst 3 9) := by
  refine ⟨?_, ?_, ?_, ?_, ?_⟩ <;> rfl
theorem test_words_01 :
    decodeTableWord 32 0x00049A83 = some (.mul 5 3 9) ∧ decodeTableWord 32 0x00149A83 = some (.mulhI64 5 3 9)
    ∧ decodeTableWord 32 0x00249A83 = some (.mulhN64 5 3 9) ∧ decodeTableWord 32 0x00349A83 = some (.divI64 5 3 9)
    ∧ decodeTableWord 32 0x00449A83 = some (.divN64 5 3 9) ∧ decodeTableWord 32 0x00549A83 = some (.remI64 5 3 9)
    ∧ decodeTableWord 32 0x00649A83 = some (.remN64 5 3 9) := by
  refine ⟨?_, ?_, ?_, ?_, ?_, ?_, ?_⟩ <;> rfl
theorem test_words_02 :
    decodeTableWord 32 0x00001A85 = some (.clz 5 3) ∧ decodeTableWord 32 0x00101A85 = some (.ctz 5 3)
    ∧ decodeTableWord 32 0x00201A85 = some (.pop 5 3) ∧ decodeTableWord 32 0x00349A85 = some (.bext 5 3 9)
    ∧ decodeTableWord 32 0x00449A85 = some (.bexts 5 3 9) ∧ decodeTableWord 32 0x00549A85 = some (.bins 5 3 9)
    ∧ decodeTableWord 32 0x01D49A85 = some (.sel .le 5 3 9) := by
  refine ⟨?_, ?_, ?_, ?_, ?_, ?_, ?_⟩ <;> rfl
theorem test_words_03 :
    decodeTableWord 32 0xFFFE9A87 = some (.addi 5 3 0x1fffd) := rfl
theorem test_words_04 :
    decodeTableWord 32 0xFFFE8289 = some (.li 5 0x1fffd) := rfl
theorem test_words_05 :
    decodeTableWord 32 0x5F77928B = some (.lhi 5 0xbeef 2) := rfl
theorem test_words_06 :
    decodeTableWord 32 0xFFFE828D = some (.cmpi 5 0x1fffd) := rfl
theorem test_words_07 :
    decodeTableWord 32 0x001F9A8F = some (.shli 5 3 63) ∧ decodeTableWord 32 0x00209A8F = some (.shri 5 3 1)
    ∧ decodeTableWord 32 0x00501A8F = some (.srai 5 3 32) ∧ decodeTableWord 32 0x00639A8F = some (.rotli 5 3 7) := by
  refine ⟨?_, ?_, ?_, ?_⟩ <;> rfl
theorem test_words_08 :
    decodeTableWord 32 0xFFFF8511 = some (.bc .ge 0x1ffff0) := rfl
theorem test_words_09 :
    decodeTableWord 32 0x80000093 = some (.call 0x1000001) := rfl
theorem test_words_0A :
    decodeTableWord 32 0xFFFC0295 = some (.cbz 5 0x1fff8) ∧ decodeTableWord 32 0x00080A95 = some (.cbnz 5 0x10)
    ∧ decodeTableWord 32 0x00001295 = some (.jr 5) ∧ decodeTableWord 32 0x00001815 = some .nop
    ∧ decodeTableWord 32 0x00002015 = some .halt ∧ decodeTableWord 32 0x00002A95 = some (.haltR 5)
    ∧ decodeTableWord 32 0x00003295 = some (.go 5) ∧ decodeTableWord 32 0x00003815 = some .yield
    ∧ decodeTableWord 32 0x08004315 = some (.sleepQ 6 0x1000) ∧ decodeTableWord 32 0x00004A95 = some (.sleepJob 5)
    ∧ decodeTableWord 32 0x0003D295 = some (.sleepGe 5 7) ∧ decodeTableWord 32 0x000BD295 = some (.sleepGeG 5 7) := by
  refine ⟨?_, ?_, ?_, ?_, ?_, ?_, ?_, ?_, ?_, ?_, ?_, ?_⟩ <;> rfl
theorem test_words_0B :
    decodeTableWord 32 0x00600297 = some (.rsr 5 0x6) ∧ decodeTableWord 32 0x00909817 = some (.wsr 0x9 3)
    ∧ decodeTableWord 32 0x01700297 = some (.cpgo 5) := by
  refine ⟨?_, ?_, ?_⟩ <;> rfl
theorem test_words_0C :
    decodeTableWord 32 0xBFFD9A99 = some (.ld .i16 true 0x1ffb 3 5) := rfl
theorem test_words_0D :
    decodeTableWord 32 0x3FFD9A9B = some (.st .n16 true 0x1ffb 3 5) := rfl
theorem test_words_0E :
    decodeTableWord 32 0x3DA0029D = some (.lbit true true true 45 5) ∧ decodeTableWord 32 0x77E0029D = some (.sbit true true 63 5)
    ∧ decodeTableWord 32 0xA004981D = some (.baSet true 3 9) := by
  refine ⟨?_, ?_, ?_⟩ <;> rfl
theorem test_words_0F :
    decodeTableWord 32 0x00001B1F = some (.qSet 6 3) ∧ decodeTableWord 32 0x00101B1F = some (.qAdvP 6 3)
    ∧ decodeTableWord 32 0x00201B1F = some (.qAdvC 6 3) ∧ decodeTableWord 32 0x0031B29F = some (.qLd 5 6 3)
    ∧ decodeTableWord 32 0x00401B1F = some (.qSt 6 3) ∧ decodeTableWord 32 0x0053031F = some (.qStV 6 6)
    ∧ decodeTableWord 32 0x0060329F = some (.qGet 5 6) := by
  refine ⟨?_, ?_, ?_, ?_, ?_, ?_, ?_⟩ <;> rfl
theorem test_words_10 :
    decodeTableWord 32 0x0032AB21 = some (.vadd .bf16 2 (.reg 5) 2 6 none)
    ∧ decodeTableWord 32 0x81068B21 = some (.vsub .f64 2 (.ring 4 2) 2 6 none)
    ∧ decodeTableWord 32 0x0212AB21 = some (.vmul .f32 2 (.reg 5) 2 6 none)
    ∧ decodeTableWord 32 0x83268B21 = some (.vfma .f16 2 (.ring 4 2) 2 6 none)
    ∧ decodeTableWord 32 0x0412AB21 = some (.vdiv .f32 2 (.reg 5) 2 6 none)
    ∧ decodeTableWord 32 0x05030B21 = some (.vsqrt .f64 3 2 6 none) ∧ decodeTableWord 32 0x06320B21 = some (.vrcp .bf16 2 2 6 none)
    ∧ decodeTableWord 32 0x07220B21 = some (.vrsq .f16 2 2 6 none) ∧ decodeTableWord 32 0x0882AB21 = some (.vmin .n8 2 (.reg 5) 2 6 none)
    ∧ decodeTableWord 32 0x89468B21 = some (.vmax .i8 2 (.ring 4 2) 2 6 none) := by
  refine ⟨?_, ?_, ?_, ?_, ?_, ?_, ?_, ?_, ?_, ?_⟩ <;> rfl
theorem test_words_11 :
    decodeTableWord 32 0x85A68923 = some (.vcmp .ge .n32 2 (.ring 4 2) 2 2)
    ∧ decodeTableWord 32 0x08B2AB23 = some (.vsel .n64 2 (.reg 5) 2 6) ∧ decodeTableWord 32 0x1052AB23 = some (.vand .i16 2 (.reg 5) 2 6)
    ∧ decodeTableWord 32 0x91658B23 = some (.vor .i32 1 (.ring 4 2) 2 6)
    ∧ decodeTableWord 32 0x1272AB23 = some (.vxor .i64 2 (.reg 5) 2 6) ∧ decodeTableWord 32 0x1892AB23 = some (.vshl .n16 2 (.reg 5) 2 6)
    ∧ decodeTableWord 32 0x99468B23 = some (.vshr .i8 2 (.ring 4 2) 2 6) := by
  refine ⟨?_, ?_, ?_, ?_, ?_, ?_, ?_⟩ <;> rfl
theorem test_words_12 :
    decodeTableWord 32 0x02320B25 = some (.vred .min .bf16 2 2 6 none) ∧ decodeTableWord 32 0x0883AB25 = some (.vperm .n8 3 5 2 6)
    ∧ decodeTableWord 32 0x09711F25 = some (.vbcast .i64 1 7 6) ∧ decodeTableWord 32 0x22122B25 = some (.vcvt .f16 .f32 2 1 2 6 none) := by
  refine ⟨?_, ?_, ?_, ?_⟩ <;> rfl
theorem test_words_13 :
    decodeTableWord 32 0x00176327 = some (.vsumQ .f32 3 3 6 none) := rfl
theorem test_words_14 :
    decodeTableWord 32 0x00310B29 = some (.vld .bf16 1 2 6 none) ∧ decodeTableWord 32 0x01514B29 = some (.vst .i16 1 2 2 6 none)
    ∧ decodeTableWord 32 0x02028B29 = some (.vlds .f64 2 4 2 6 none) ∧ decodeTableWord 32 0x03928B29 = some (.vsts .n16 2 4 2 6 none)
    ∧ decodeTableWord 32 0x0462AB29 = some (.vgat .i32 2 5 2 6 none) ∧ decodeTableWord 32 0x0522AB29 = some (.vsct .f16 2 5 2 6 none)
    ∧ decodeTableWord 32 0x06830729 = some (.vlbit .n8 3 true 6 none) := by
  refine ⟨?_, ?_, ?_, ?_, ?_, ?_, ?_⟩ <;> rfl
theorem test_words_18 :
    decodeTableWord 32 0x30FC1AB1 = some (.gld .i32 0x1f8 3 5) ∧ decodeTableWord 32 0x44801AB1 = some (.gldAcq .n8 .package 0x100 3 5)
    ∧ decodeTableWord 32 0x8DE01B31 = some (.gvld .bf16 1 0x1c0 3 6) ∧ decodeTableWord 32 0xDAA01B31 = some (.gvgat .i32 2 5 3 6) := by
  refine ⟨?_, ?_, ?_, ?_⟩ <;> rfl
theorem test_words_19 :
    decodeTableWord 32 0x187F9AB3 = some (.gst .n64 0xff 3 5) ∧ decodeTableWord 32 0x51009AB3 = some (.gstRel .n32 .cluster 0x1 3 5)
    ∧ decodeTableWord 32 0xA7201B33 = some (.gvst .n16 3 0x40 3 6) ∧ decodeTableWord 32 0xE9801B33 = some (.gvsct .n32 1 4 3 6) := by
  refine ⟨?_, ?_, ?_, ?_⟩ <;> rfl
theorem test_words_1A :
    decodeTableWord 32 0x0B849AB5 = some (.atom .max true true false 9 3 5)
    ∧ decodeTableWord 32 0x1E449835 = some (.red .fadd false false true 9 3)
    ∧ decodeTableWord 32 0x21449AB5 = some (.cas true true 9 3 5) := by
  refine ⟨?_, ?_, ?_⟩ <;> rfl
theorem test_words_1B :
    decodeTableWord 32 0x06000037 = some (.fence .acq .package) ∧ decodeTableWord 32 0x10000037 = some .afence := by
  refine ⟨?_, ?_⟩ <;> rfl
theorem test_words_1C :
    decodeTableWord 32 0x2A5062B9 = some (.send 0x2a5 12 5) ∧ decodeTableWord 32 0x74001AB9 = some (.sendQ 6 2 3 5) := by
  refine ⟨?_, ?_⟩ <;> rfl
theorem test_words_1D :
    decodeTableWord 32 0x007002BB = some (.sendMc 0x7 0 5) ∧ decodeTableWord 32 0x40049ABB = some (.sendMcSt 9 3 5)
    ∧ decodeTableWord 32 0x8000183B = some (.spawn 3) := by
  refine ⟨?_, ?_, ?_⟩ <;> rfl
theorem test_words_1E :
    decodeTableWord 32 0x00001ABD = some (.cpwait 3 5) := rfl
theorem test_words_1F :
    decodeTableWord 32 0x0004983F = some (.collRed 9 3) ∧ decodeTableWord 32 0x55549ABF = some (.collRes 0x155 9 3 5)
    ∧ decodeTableWord 32 0x80B0183F = some (.sendh 11 3) := by
  refine ⟨?_, ?_, ?_⟩ <;> rfl
theorem test_words_20 :
    decodeTableWord 32 0x0A000041 = some (.mxJob 0xa) ∧ decodeTableWord 32 0x10001AC1 = some (.mxGo 3 5)
    ∧ decodeTableWord 32 0x20001AC1 = some (.mxWait 3 5) ∧ decodeTableWord 32 0x30001AC1 = some (.mxPoll 3 5)
    ∧ decodeTableWord 32 0x40049841 = some (.mxTst 9 3) ∧ decodeTableWord 32 0x5A000041 = some (.mxRel 0xa) := by
  refine ⟨?_, ?_, ?_, ?_, ?_, ?_⟩ <;> rfl
theorem test_words_21 :
    decodeTableWord 32 0x20049843 = some (.mxLda true 9 3) ∧ decodeTableWord 32 0x60049843 = some (.mxLdb true 9 3)
    ∧ decodeTableWord 32 0x80049843 = some (.mxLdm 9 3) := by
  refine ⟨?_, ?_, ?_⟩ <;> rfl
theorem test_words_22 :
    decodeTableWord 32 0x10000045 = some (.mxZero 1) ∧ decodeTableWord 32 0x60000045 = some (.mxMma 2)
    ∧ decodeTableWord 32 0xB0000045 = some (.mxMmas 3) ∧ decodeTableWord 32 0xD0048045 = some (.mxMrot 1 9) := by
  refine ⟨?_, ?_, ?_, ?_⟩ <;> rfl
theorem test_words_23 :
    decodeTableWord 32 0x28049AC7 = some (.mxSt 2 true 9 3 5 none) ∧ decodeTableWord 32 0x70001847 = some (.mxAmax 3 3)
    ∧ decodeTableWord 32 0x90049847 = some (.mxQnt 1 9 3 none) := by
  refine ⟨?_, ?_, ?_⟩ <;> rfl
theorem test_words_24 :
    decodeTableWord 32 0x12301AC9 = some (.perform 0x123 3 5) ∧ decodeTableWord 32 0x12309B49 = some (.vperform 0x123 3 6)
    ∧ decodeTableWord 32 0x12310049 = some (.hpop 0x123) ∧ decodeTableWord 32 0x00019CC9 = some (.resume 3 9)
    ∧ decodeTableWord 32 0x00621A49 = some (.resumev .i32 3 4) ∧ decodeTableWord 32 0x00029849 = some (.abort 3)
    ∧ decodeTableWord 32 0x00031AC9 = some (.tokq 3 5) ∧ decodeTableWord 32 0x123634C9 = some (.hndOnce 0x123 0x96)
    ∧ decodeTableWord 32 0x12368FC9 = some (.hndMany 0x123 0xf1) ∧ decodeTableWord 32 0x123701C9 = some (.hndNone 0x123 0x30) := by
  refine ⟨?_, ?_, ?_, ?_, ?_, ?_, ?_, ?_, ?_, ?_⟩ <;> rfl
theorem test_words_25 :
    decodeTableWord 32 0x00049ACB = some (.wst 9 3 5) ∧ decodeTableWord 32 0x08049ACB = some (.wstW 9 3 5)
    ∧ decodeTableWord 32 0x1004984B = some (.wfloor 9 3) ∧ decodeTableWord 32 0x2000184B = some (.wprobe 3 0)
    ∧ decodeTableWord 32 0x3004984B = some (.wcancel 9 3) ∧ decodeTableWord 32 0x40001ACB = some (.wreg 3 5)
    ∧ decodeTableWord 32 0x50001ACB = some (.wregFree 3 5) := by
  refine ⟨?_, ?_, ?_, ?_, ?_, ?_, ?_⟩ <;> rfl
theorem test_words_26 :
    decodeTableWord 32 0x3FE49ACD = some (.wld 0x3fe 9 3 5) := rfl
theorem test_words_27 :
    decodeTableWord 32 0x00149ACF = some (.clmSt 0x1 9 3 5) ∧ decodeTableWord 32 0x4000184F = some (.clmObj 3)
    ∧ decodeTableWord 32 0x48001F4F = some (.clmLd 3 14) ∧ decodeTableWord 32 0x50001ACF = some (.clmRes 3 5)
    ∧ decodeTableWord 32 0x58001ACF = some (.clmGrp 3 5) := by
  refine ⟨?_, ?_, ?_, ?_, ?_⟩ <;> rfl
theorem test_words_28 :
    decodeTableWord 32 0x9C100051 = some (.svc 0x9c1) ∧ decodeTableWord 32 0x0A508051 = some (.brk 0xa5)
    ∧ decodeTableWord 32 0x00011BD1 = some (.sret 3 7) ∧ decodeTableWord 32 0x0541BAD1 = some (.rrec 0x54 7 5)
    ∧ decodeTableWord 32 0x8101BAD1 = some (.rrecW 0x10 7 5) ∧ decodeTableWord 32 0x00021851 = some (.tlbi 3)
    ∧ decodeTableWord 32 0x00121B51 = some (.tlbiVa 3 6) ∧ decodeTableWord 32 0x00029AD1 = some (.mbox 3 5) := by
  refine ⟨?_, ?_, ?_, ?_, ?_, ?_, ?_, ?_⟩ <;> rfl
theorem test_words_Compact_0 :
    decodeTableWord 16 0x30C0 = some (.brkCompact 0xc3) ∧ decodeTableWord 16 0x0D42 = some (.movCompact 3 5)
    ∧ decodeTableWord 16 0x0D44 = some (.addCompact 3 5) ∧ decodeTableWord 16 0x0D46 = some (.subCompact 3 5)
    ∧ decodeTableWord 16 0x0D48 = some (.andCompact 3 5) ∧ decodeTableWord 16 0x0D4A = some (.orCompact 3 5)
    ∧ decodeTableWord 16 0x0D4C = some (.xorCompact 3 5) ∧ decodeTableWord 16 0xF94E = some (.addiCompact 0x3e 5)
    ∧ decodeTableWord 16 0x7D50 = some (.liCompact 0x1f 5) ∧ decodeTableWord 16 0x8552 = some (.shliCompact 33 5)
    ∧ decodeTableWord 16 0x0554 = some (.shriCompact 1 5) ∧ decodeTableWord 16 0xFD56 = some (.sraiCompact 63 5) := by
  refine ⟨?_, ?_, ?_, ?_, ?_, ?_, ?_, ?_, ?_, ?_, ?_, ?_⟩ <;> rfl
theorem test_words_Compact_1 :
    decodeTableWord 16 0x0D58 = some (.cmpCompact 3 5) ∧ decodeTableWord 16 0x815A = some (.cmpiCompact 0x20 5)
    ∧ decodeTableWord 16 0x4D5C = some (.ldN64Compact true 3 5) ∧ decodeTableWord 16 0x4D5E = some (.stN64Compact true 3 5)
    ∧ decodeTableWord 16 0x4D60 = some (.ldN32Compact true 3 5) ∧ decodeTableWord 16 0x4D62 = some (.stN32Compact true 3 5)
    ∧ decodeTableWord 16 0xF164 = some (.cbzCompact 0x3c 5) ∧ decodeTableWord 16 0x0D66 = some (.cbnzCompact 0x3 5)
    ∧ decodeTableWord 16 0xFC28 = some (.bCompact 0x3f0) ∧ decodeTableWord 16 0x002A = some .retCompact
    ∧ decodeTableWord 16 0x782A = some (.jrCompact 14) ∧ decodeTableWord 16 0x002C = some .haltCompact := by
  refine ⟨?_, ?_, ?_, ?_, ?_, ?_, ?_, ?_, ?_, ?_, ?_, ?_⟩ <;> rfl
theorem test_words_Compact_2 :
    decodeTableWord 16 0x402C = some .yieldCompact ∧ decodeTableWord 16 0x002E = some .nopCompact
    ∧ decodeTableWord 16 0x0D70 = some (.tstCompact 3 5) ∧ decodeTableWord 16 0x0D72 = some (.andnCompact 3 5)
    ∧ decodeTableWord 16 0x0534 = some (.fmt .e4m3 .f32 .none) ∧ decodeTableWord 16 0x9736 = some (.rpt 12 5 2) := by
  refine ⟨?_, ?_, ?_, ?_, ?_, ?_⟩ <;> rfl


/-- The words of spec/05_encoding_notes.md and of R361, each bit as printed there, and a 64-bit instruction with its modifier (R70). -/
theorem test_words_of_the_notes :
    decodeTableWord 32 0x00140189 = some (.li 3 40) ∧ decodeTableWord 16 0xF48E = some (.addiCompact (BitVec.ofInt 6 (-3)) 2)
    ∧ decodeTableWord 16 0x0534 = some (.fmt .e4m3 .f32 .none) ∧ decodeTableWord 16 0x0D36 = some (.rpt 4 3 0)
    ∧ decodeTableWord 32 0x01100051 = some (.svc 0x011) ∧ decodeTableWord 32 0x00308051 = some (.brk 3)
    ∧ decodeTableWord 64 0xA90F8000003AAB21
        = some (.vadd .bf16 2 (.reg 5) 2 6 (some ⟨true, 0, true, false, false, false, false, BitVec.ofInt 6 (-2), 0⟩)) := by
  refine ⟨?_, ?_, ?_, ?_, ?_, ?_, ?_⟩ <;> rfl
/-- Reserved words are refused: compact ops 28 to 31 and a major without instructions (R64, R87), a register-less field that is set (R66),
a lane type of no meaning (R74), a special register that does not exist (R62). -/
theorem test_words_refused :
    decodeTableWord 16 0x0038 = none ∧ decodeTableWord 16 0x003E = none ∧ decodeTableWord 32 0x00000053 = none
    ∧ decodeTableWord 32 0x00140989 = none := by
  refine ⟨?_, ?_, ?_, ?_⟩ <;> rfl

/-! A term that breaks each rule of `wellFormed`, which refuses it. -/

def tSr : Modifier := { Modifier.none with rmo := 5 }
def tNegB : Modifier := { Modifier.none with negb := true }
theorem test_illFormed :
    [Instr.sleepQ 0 0, .sleepQ 0 4097, .rsr 0 0x017, .rsr 0 0x041, .wsr 0x041 0, .st .i8 false 0 0 0, .gst .i32 0 0 0, .gstRel .i16 .die 0 0 0,
     .vadd .blk4 0 (.reg 0) 0 0 none, .vsub .f32 0 (.reg 0) 0 0 (some tSr), .vmul .i4 0 (.reg 0) 0 0 none, .vfma .e4m3 0 (.reg 0) 0 0 none,
     .vmin .e5m2 0 (.reg 0) 0 0 none, .vmax .e3m2 0 (.reg 0) 0 0 none, .vdiv .i32 0 (.reg 0) 0 0 none, .vsqrt .f32 0 0 0 (some tNegB),
     .vrcp .n8 0 0 0 none, .vrsq .f16 0 0 0 (some tSr), .vcmp .eq .i4 0 (.reg 0) 0 0, .vsel .blk4 0 (.reg 0) 0 0, .vand .e2m3 0 (.reg 0) 0 0,
     .vor .e2m3 0 (.reg 0) 0 0, .vxor .e2m3 0 (.reg 0) 0 0, .vshl .f32 0 (.reg 0) 0 0, .vshr .f64 0 (.reg 0) 0 0,
     .vred .sum .f32 0 0 0 (some tNegB), .vperm .i4 0 0 0 0, .vbcast .blk4 0 0 0, .vcvt .f32 .i8 0 4 0 0 none,
     .vsumQ .f32 0 0 0 (some tNegB)].all (fun i => !i.wellFormed) = true := by decide
theorem test_illFormed_memory :
    [Instr.vld .blk4 0 0 0 none, .vst .f32 0 0 0 0 (some tNegB), .vlds .i4 0 0 0 0 none, .vsts .i4 0 0 0 0 none, .vgat .e4m3 0 0 0 0 none,
     .vsct .e4m3 0 0 0 0 none, .vlbit .f32 0 false 0 (some tNegB), .gvld .i4 0 0 0 0, .gvst .i4 0 0 0 0, .gvgat .i4 0 0 0 0, .gvsct .i4 0 0 0 0,
     .atom .fadd true false true 0 0 0, .atom .cas true false true 0 0 0, .atom .add true true true 0 0 0, .red .swap true false true 0 0,
     .red .add true true false 0 0].all (fun i => !i.wellFormed) = true := by decide
theorem test_illFormed_system :
    [Instr.send 0 13 0, .sendQ 0 1 15 0, .sendMc 0 13 0, .collRes 0 0 13 0, .sendh 0 13, .mxSt 0 false 0 0 0 (some tNegB), .mxQnt 0 0 0 (some tNegB),
     .mxLda true 0 8, .mxLdb true 0 15, .mxSt 0 true 0 8 0 none,
     .perform 0x0C0 0 0, .perform 0xFFF 0 0, .vperform 0x0FF 0 0, .hpop 0x0C0, .hndOnce 0x0C0 0, .hndMany 0x0FF 0, .hndNone 0x0E0 0,
     .resumev .i4 0 0, .rrec 88 0 0, .rrecW 127 0 0, .wprobe 0 15, .clmLd 0 15, .fmt .i64 .f32 .none, .fmt .f32 .f32 .split].all
      (fun i => !i.wellFormed) = true := by decide

/-! One step: the instruction at the PC of a small machine, and one field of what it makes. Expected values are worked out by hand from the
rule that each test names. -/

/-- What the core that steps has become after one step of a word. -/
def tAfter {α : Type} (w : Nat) (c : Core) (f : Core → α) : Option α :=
  match Machine.step (tCode w c) with
  | .next s => s.me.map f
  | _ => none
/-- R119: -1 + 2. -/
theorem test_step_add : tAfter 0x00010981 ((tCore.setG 1 0xFFFFFFFFFFFFFFFF).setG 2 2) (·.r 3) = some 1 := by decide
/-- R121: the high half of -1 times -1. -/
theorem test_step_mulh : tAfter 0x00149A83 ((tCore.setG 3 0xFFFFFFFFFFFFFFFF).setG 9 0xFFFFFFFFFFFFFFFF) (·.r 5) = some 0 := by decide
/-- R121, R352: a divisor of zero aborts the stint: there is no stint, and the core waits for its release. -/
theorem test_step_divide_by_zero : tAfter 0x00349A83 (tCore.setG 3 7) (fun c => (c.stint.isSome, c.hold)) = some (false, .svrel) := by decide
/-- R120: 1 - 2 borrows: N set, C and Z clear. -/
theorem test_step_cmp : tAfter 0x00F49801 ((tCore.setG 3 1).setG 9 2) (fun c => fld c.st 23 20) = some 2 := by decide
/-- R124: a branch whose condition holds, by -1 halfword from the PC 0. -/
theorem test_step_bc : tAfter 0xFFFFF811 { tCore with st := 0x1100000 } (·.off) = some 0xFFFFFFFE := by decide
/-- R64, R68: a compact `mov` passes two bytes. -/
theorem test_step_mov_compact : tAfter 0x0442 (tCore.setG 1 5) (·.off) = some 2 := by decide
/-- R78: `fmt src=e4m3, dst=f32` latches PF = 4 and PD = 1 and sets PP. -/
theorem test_step_fmt : tAfter 0x0534 tCore (fun c => fld c.st 10 0) = some 0x29 := by decide
/-- R83: `rpt 4, step=1, fields=d.a` sets RC = 4 and RA = 3. -/
theorem test_step_rpt : tAfter 0x0D36 tCore (fun c => (fld c.st 14 11, fld c.st 19 17)) = some (4, 3) := by decide
/-- R344, R349: `svc` leaves the core at service. -/
theorem test_step_svc : tAfter 0x01100051 tCore (·.hold) = some .service := by decide
/-- R63: a service instruction on a compute core ends its stint (PRIV). -/
theorem test_step_priv : tAfter 0x00010051 tCore (fun c => (c.stint.isSome, c.hold)) = some (false, .svrel) := by decide
/-- R87: a major without instructions ends the stint (ILLEGAL_OPCODE). -/
theorem test_step_illegal : tAfter 0x00000053 tCore (fun c => c.stint.isSome) = some false := by decide
/-- R152: 1.0 + 1.0 is 2.0 in each f32 lane. -/
theorem test_exec_vadd : (match Machine.exec (.vadd .f32 0 (.reg 1) 1 2 none) (tState { tCore with v := tCore.v.set 1 0x3F8000003F800000 }) with
    | .next s => s.me.map fun c => c.v[(2 : VReg)]
    | _ => none) = some 0x4000000040000000 := by decide
/-- R140, R4: a halfword is read little-endian and sign-extended. -/
theorem test_exec_ld : (match Machine.exec (.ld .i16 false 0 1 2) (tState { tCore with lm := [(0, 0x34), (1, 0xFF)] }) with
    | .next s => s.me.map (·.r 2)
    | _ => none) = some 0xFFFFFFFFFFFFFF34 := by decide
/-- R141: a store writes the low bytes of its source. -/
theorem test_exec_st : (match Machine.exec (.st .n16 false 0 1 2) (tState (tCore.setG 2 0xABCD)) with
    | .next s => s.me.map (·.lm)
    | _ => none) = some [(0, 0xCD), (1, 0xAB)] := by decide
/-- R203: a compare-and-swap that finds its value stores the new one and returns the old. -/
theorem test_exec_cas : (match Machine.exec (.cas false true 2 1 3) (tState { ((tCore.setG 2 9).setG 3 5) with lm := [(0, 5)] }) with
    | .next s => s.me.map fun c => (c.lm, c.r 3)
    | _ => none) = some ([(0, 9)], 5) := by decide

end
end

section
/-! The conditions of R77: when each holds, by the flags of ST, and the word whose condition code is the reserved one. -/
open Sys2Proof Sys2Proof.Machine

namespace Sys2Proof.Machine

/-! The conditions over two flags or more. -/

theorem holds_hi_iff (st : Word) : holds st .hi = true ↔ flagC st = true ∧ ¬flagZ st = true := by
  simp [holds]
theorem holds_ge_iff (st : Word) : holds st .ge = true ↔ (flagN st = true ↔ flagV st = true) :=
  beq_iff_eq.trans Bool.eq_iff_iff
theorem holds_gt_iff (st : Word) : holds st .gt = true ↔ ¬flagZ st = true ∧ (flagN st = true ↔ flagV st = true) := by
  rw [← holds_ge_iff]; simp [holds]

/-! In R77's table the odd codes up to 13 are the opposites of the even codes before them; for `ls` and `le` this is De Morgan's law. -/

theorem holds_ls_eq_not_hi (st : Word) : holds st .ls = !holds st .hi := by simp [holds]
theorem holds_le_eq_not_gt (st : Word) : holds st .le = !holds st .gt := by simp [holds, bne]

/-- A condition that is the opposite of another holds exactly when what the other means does not. -/
theorem holds_opposite_iff {st : Word} {cc dd : Cond} {P : Prop} (h : holds st dd = !holds st cc) (hcc : holds st cc = true ↔ P) :
    holds st dd = true ↔ ¬P := by
  rw [h, Bool.not_eq_true', ← hcc, Bool.not_eq_true]

end Sys2Proof.Machine

namespace Sys2Proof

/-! The fields of a 32-bit word by its bytes: the major, and the cond field of the B form, which reaches into the second byte (R65). -/

theorem bits_major_leNat (b0 b1 b2 b3 : Byte) : bits (leNat [b0, b1, b2, b3]) 6 1 = b0.toNat / 2 % 64 := by
  simp only [bits, leNat]; omega
theorem bits_cond_leNat (b0 b1 b2 b3 : Byte) :
    bits (leNat [b0, b1, b2, b3]) 10 7 = b0.toNat / 128 + 2 * (b1.toNat % 8) := by
  simp only [bits, leNat]; omega

/-- Four bytes with bit 0 of the first set are one 32-bit word, with none behind it (R64). -/
theorem decode_four_bytes (b0 b1 b2 b3 : Byte) (h : ¬b0.toNat % 2 = 0) :
    decode [b0, b1, b2, b3] = decode32 (leNat [b0, b1, b2, b3]) none := if_neg h

/-- Major 0x08 is the conditional branch, and a code that is no condition is a reserved field (R77, R124). -/
theorem decode32_bc_of_reserved (w : Nat) (mw : Option Nat) (hmajor : bits w 6 1 = 0x08) (hcond : Cond.of (bits w 10 7) = none) :
    decode32 w mw = rsv := by
  simp only [decode32, hmajor, hcond]

/-- The conditional branch with cond 15, by its bytes (R77). -/
theorem decode_bc_cond_fifteen (b0 b1 b2 b3 : Byte) (hmajor : b0.toNat % 128 = 17) (hcond : 15 = b0.toNat / 128 + 2 * (b1.toNat % 8)) :
    decode [b0, b1, b2, b3] = rsv := by
  rw [decode_four_bytes _ _ _ _ (by omega)]
  apply decode32_bc_of_reserved
  · rw [bits_major_leNat]; omega
  · rw [bits_cond_leNat, ← hcond]; rfl

end Sys2Proof

/-- Settles O4: each condition by the lemma that states it over the flags, the codes by the table, and code 15 by the fields of the
branch's word. -/
theorem conditionCodes : Obligations.ConditionCodes := by
  intro st z n c v
  have hhi : holds st .hi = true ↔ c ∧ ¬z := holds_hi_iff st
  have hge : holds st .ge = true ↔ (n ↔ v) := holds_ge_iff st
  have hgt : holds st .gt = true ↔ ¬z ∧ (n ↔ v) := holds_gt_iff st
  have hls : holds st .ls = true ↔ ¬(c ∧ ¬z) := holds_opposite_iff (holds_ls_eq_not_hi st) hhi
  have hlt : holds st .lt = true ↔ ¬(n ↔ v) := holds_opposite_iff (cc := .ge) rfl hge
  have hle : holds st .le = true ↔ ¬(¬z ∧ (n ↔ v)) := holds_opposite_iff (holds_le_eq_not_gt st) hgt
  have hne : holds st .ne = true ↔ ¬z := holds_opposite_iff (cc := .eq) rfl .rfl
  have hlo : holds st .lo = true ↔ ¬c := holds_opposite_iff (cc := .hs) rfl .rfl
  have hpl : holds st .pl = true ↔ ¬n := holds_opposite_iff (cc := .mi) rfl .rfl
  have hvc : holds st .vc = true ↔ ¬v := holds_opposite_iff (cc := .vs) rfl .rfl
  refine ⟨.rfl, hne, .rfl, hlo, .rfl, hpl, .rfl, hvc, hhi, hls.trans ?deMorgan_ls, hge, hlt, hgt, hle.trans ?deMorgan_le, rfl, rfl,
    decode_bc_cond_fifteen⟩
  case deMorgan_ls => rw [Classical.not_and_iff_not_or_not, Classical.not_not]
  case deMorgan_le => rw [Classical.not_and_iff_not_or_not, Classical.not_not]

end

section
/-! How an instruction that only computes from the core's own registers completes: it writes one register. -/
namespace Sys2Proof
open Machine

/-- An instruction of the shape `alu` writes what it computes of the core that steps, and nothing else. -/
theorem writes_alu {i : Instr} {s : State} {p : Plot} {c : Core} {len cyc : Nat} {d : Reg} {f : Core → Word} {w : Word} (h : At s p c)
    (hi : Machine.exec i s = alu s len cyc d f) (hw : f c = w) : Writes i s c len d w :=
  hw ▸ writes_of i s c len cyc _ d (f c) (hi.trans (upd_at h.1 h.2 _))

/-- A division whose divisor is not zero writes its result, and nothing else. -/
theorem writes_divide {i : Instr} {s : State} {p : Plot} {c : Core} {d a b : Reg} {f : Word → Word → Word} {w : Word}
    (h : At s p c) (hb : c.r b ≠ 0) (hi : Machine.exec i s = divide s d a b f) (hw : f (c.r a) (c.r b) = w) : Writes i s c 4 d w :=
  hw ▸ writes_of i s c 4 24 _ d _ (hi.trans ((onCore_at h.1 h.2 _).trans (if_neg hb)))

end Sys2Proof
end

section
/-! What multiplication, division and the bit operations compute. -/
namespace Sys2Proof.Machine

/-! The halves of a product (R121). -/

theorem toInt_mulhI (x y : Word) : (mulhI x y).toInt = x.toInt * y.toInt / 2 ^ 64 := by
  have hlo : -2 ^ 126 ≤ x.toInt * y.toInt := BitVec.le_toInt_mul_toInt
  have hhi : x.toInt * y.toInt ≤ 2 ^ 126 := BitVec.toInt_mul_toInt_le
  exact BitVec.toInt_ofInt_eq_self (by decide) (by omega) (by omega)

theorem toNat_mul_eq_toInt_emod (x y : Word) : ((x * y).toNat : Int) = x.toInt * y.toInt % 2 ^ 64 := by
  have hofInt : x * y = BitVec.ofInt 64 (x.toInt * y.toInt) := by
    rw [BitVec.ofInt_mul, BitVec.ofInt_toInt, BitVec.ofInt_toInt]
  rw [hofInt, BitVec.toNat_ofInt]
  exact Int.toNat_of_nonneg (Int.emod_nonneg _ (by decide))

/-- The signed product by its two halves. -/
theorem mulhI_spec (x y : Word) : (mulhI x y).toInt * 2 ^ 64 + (x * y).toNat = x.toInt * y.toInt := by
  rw [toInt_mulhI, toNat_mul_eq_toInt_emod, Int.mul_comm]
  exact Int.mul_ediv_add_emod _ _

theorem toNat_mulhN (x y : Word) : (mulhN x y).toNat = x.toNat * y.toNat / 2 ^ 64 := by
  have hlt : x.toNat * y.toNat < 2 ^ 64 * 2 ^ 64 := Nat.mul_lt_mul'' x.isLt y.isLt
  exact (BitVec.toNat_ofNat ..).trans (Nat.mod_eq_of_lt (Nat.div_lt_of_lt_mul hlt))

/-- The unsigned product by its two halves. -/
theorem mulhN_spec (x y : Word) : (mulhN x y).toNat * 2 ^ 64 + (x * y).toNat = x.toNat * y.toNat := by
  rw [toNat_mulhN, BitVec.toNat_mul, Nat.mul_comm]
  exact Nat.div_add_mod _ _

/-! Quotients and remainders (R121). -/

theorem divI_eq_sdiv (x y : Word) : divI x y = x.sdiv y :=
  BitVec.eq_of_toInt_eq ((BitVec.toInt_ofInt _).trans (BitVec.toInt_sdiv x y).symm)
theorem remI_eq_srem (x y : Word) : remI x y = x.srem y := by
  rw [remI, ← BitVec.toInt_srem, BitVec.ofInt_toInt]
theorem divN_eq_udiv (x y : Word) : divN x y = x / y := by
  rw [divN, ← BitVec.toNat_udiv, BitVec.ofNat_toNat, BitVec.setWidth_eq]
theorem remN_eq_umod (x y : Word) : remN x y = x % y := by
  rw [remN, ← BitVec.toNat_umod, BitVec.ofNat_toNat, BitVec.setWidth_eq]

/-- The signed remainder is what the signed quotient leaves. -/
theorem srem_eq_sub_mul_sdiv (x y : Word) : x.srem y = x - y * x.sdiv y := by
  rw [← remI_eq_srem, ← divI_eq_sdiv, remI, divI, Int.tmod_def, Int.sub_eq_add_neg, BitVec.ofInt_add, BitVec.ofInt_neg,
    BitVec.ofInt_mul, BitVec.ofInt_toInt, BitVec.ofInt_toInt, BitVec.sub_eq_add_neg]

/-! Counts (R122). -/

theorem clzFrom_le (x n : Nat) : clzFrom x n ≤ 64 := by
  induction n with
  | zero => exact Nat.le_refl 64
  | succ n ih => rw [clzFrom]; split <;> omega

/-- Below the bit that the search starts from, the leading bits it counts are zero. -/
theorem testBit_eq_false_of_clzFrom (x n i : Nat) (hn : n ≤ 64) (hi : 64 - clzFrom x n ≤ i) (hin : i < n) : x.testBit i = false := by
  induction n with
  | zero => omega
  | succ n ih =>
    rw [clzFrom] at hi
    split at hi
    · exact absurd hi (by omega)
    · rename_i hbit
      obtain rfl | hlt := Nat.eq_or_lt_of_le (Nat.lt_succ_iff.mp hin)
      · simpa [Nat.testBit_eq_decide_div_mod_eq] using hbit
      · exact ih (by omega) hi hlt

/-- The bit after those it counts is one. -/
theorem testBit_clzFrom (x n : Nat) (hn : n ≤ 64) (h : clzFrom x n < 64) : x.testBit (63 - clzFrom x n) = true := by
  induction n with
  | zero => exact absurd h (Nat.lt_irrefl 64)
  | succ n ih =>
    rw [clzFrom] at h ⊢
    split <;> rename_i hbit
    · rw [show 63 - (63 - n) = n by omega, Nat.testBit_eq_decide_div_mod_eq, decide_eq_true hbit]
    · rw [if_neg hbit] at h
      exact ih (by omega) h

theorem exists_clzOf_eq (x : Word) :
    ∃ n, n ≤ 64 ∧ clzOf x = BitVec.ofNat 64 n ∧ (∀ i, 64 - n ≤ i → x.getLsbD i = false) ∧ (n < 64 → x.getLsbD (63 - n) = true) := by
  refine ⟨clzFrom x.toNat 64, clzFrom_le _ _, rfl, fun i hi => ?_, testBit_clzFrom _ 64 (Nat.le_refl 64)⟩
  by_cases hi64 : i < 64
  · exact testBit_eq_false_of_clzFrom _ 64 i (Nat.le_refl 64) hi hi64
  · exact BitVec.getLsbD_of_ge x i (by omega)

/-- The search from bit 0 passes m zero bits, all of them if no bit is one, and stops at a one bit. -/
theorem ctzFrom_spec (x n k : Nat) :
    ∃ m, ctzFrom x n k = k + m ∧ m ≤ n ∧ (∀ i, i < m → x.testBit i = false) ∧ (m < n → x.testBit m = true) := by
  induction n generalizing x k with
  | zero => exact ⟨0, rfl, Nat.le_refl 0, nofun, nofun⟩
  | succ n ih =>
    rw [ctzFrom]
    split <;> rename_i hbit
    · exact ⟨0, rfl, Nat.zero_le _, nofun, fun _ => by rw [Nat.testBit_zero, decide_eq_true hbit]⟩
    · obtain ⟨m, heq, hle, hzeros, hone⟩ := ih (x / 2) (k + 1)
      refine ⟨m + 1, by omega, by omega, fun i hi => ?_, fun hm => ?_⟩
      · cases i with
        | zero => rw [Nat.testBit_zero, decide_eq_false hbit]
        | succ i => rw [Nat.testBit_succ]; exact hzeros i (by omega)
      · rw [Nat.testBit_succ]; exact hone (by omega)

theorem exists_ctzOf_eq (x : Word) :
    ∃ n, n ≤ 64 ∧ ctzOf x = BitVec.ofNat 64 n ∧ (∀ i, i < n → x.getLsbD i = false) ∧ (n < 64 → x.getLsbD n = true) := by
  obtain ⟨n, heq, hle, hzeros, hone⟩ := ctzFrom_spec x.toNat 64 0
  exact ⟨n, hle, by rw [ctzOf, heq, Nat.zero_add], hzeros, hone⟩

/-- The one bits of the low n bits. -/
theorem popFrom_eq_length (n x : Nat) : popFrom n x = ((List.range n).filter fun i => x.testBit i).length := by
  induction n generalizing x with
  | zero => rfl
  | succ n ih =>
    have hshift : ((List.range n).map Nat.succ).filter (fun i => x.testBit i)
        = ((List.range n).filter fun i => (x / 2).testBit i).map Nat.succ := by
      rw [List.filter_map]
      exact congrArg _ (List.filter_congr fun i _ => Nat.testBit_succ x i)
    rw [popFrom, ih, List.range_succ_eq_map, List.filter_cons, hshift, Nat.testBit_zero]
    by_cases hbit : x % 2 = 1
    · simp [hbit, Nat.add_comm]
    · simp [hbit]; omega

theorem popOf_eq_length (w : Word) : popOf w = BitVec.ofNat 64 ((List.range 64).filter fun i => w.getLsbD i).length := by
  simp only [popOf, popFrom_eq_length, BitVec.testBit_toNat]

/-! Bit fields (R122). -/

theorem bfPos_eq (b : Word) : bfPos b = b.toNat % 64 := by simp [bfPos, fld]
theorem bfLen_eq (b : Word) : bfLen b = b.toNat / 256 % 64 + 1 := by simp [bfLen, fld]
theorem bfLen_pos (b : Word) : 0 < bfLen b := Nat.succ_pos _
theorem bfLen_le (b : Word) : bfLen b ≤ 64 := fld_lt b 13 8

theorem sextN_eq_signExtend (v n : Nat) (hn : 0 < n) : sextN v n = (BitVec.ofNat n v).signExtend 64 := by
  have hpow : 2 ^ n = 2 * 2 ^ (n - 1) := by rw [Nat.mul_comm, Nat.pow_pred_mul hn]
  rw [sextN, BitVec.signExtend, BitVec.toInt_eq_toNat_cond, BitVec.toNat_ofNat]
  by_cases h : 2 * (v % 2 ^ n) < 2 ^ n
  · rw [if_pos h, if_neg (by omega), BitVec.ofInt_natCast]
  · rw [if_neg h, if_pos (by omega), Int.sub_eq_add_neg, BitVec.ofInt_add, BitVec.ofInt_neg, BitVec.ofInt_natCast,
      BitVec.ofInt_natCast, BitVec.sub_eq_add_neg]

/-- Past its highest bit, a number extended with its sign repeats that bit. -/
theorem getLsbD_sextN (v n i : Nat) (hn : 0 < n) (hi : i < 64) : (sextN v n).getLsbD i = v.testBit (min i (n - 1)) := by
  rw [sextN_eq_signExtend v n hn, BitVec.getLsbD_signExtend, decide_eq_true hi, Bool.true_and]
  split
  · rename_i hin
    rw [BitVec.getLsbD_ofNat, decide_eq_true hin, Bool.true_and, Nat.min_eq_left (by omega)]
  · have hlast : n - 1 < n := by omega
    rw [BitVec.msb_eq_getLsbD_last, BitVec.getLsbD_ofNat, decide_eq_true hlast, Bool.true_and, Nat.min_eq_right (by omega)]

theorem getLsbD_bextOf (a b : Word) (i : Nat) : (bextOf a b).getLsbD i = (decide (i < bfLen b) && a.getLsbD (bfPos b + i)) := by
  have hlen := bfLen_le b
  rw [bextOf, BitVec.getLsbD_ofNat, Nat.testBit_mod_two_pow, Nat.testBit_div_two_pow, BitVec.testBit_toNat, Nat.add_comm i]
  by_cases h : i < bfLen b
  · simp [h, show i < 64 by omega]
  · simp [h]

theorem getLsbD_bextsOf (a b : Word) (i : Nat) (hi : i < 64) :
    (bextsOf a b).getLsbD i = a.getLsbD (bfPos b + min i (bfLen b - 1)) := by
  rw [bextsOf, getLsbD_sextN _ _ _ (bfLen_pos b) hi, Nat.testBit_div_two_pow, BitVec.testBit_toNat, Nat.add_comm]

theorem getLsbD_binsOf (d a b : Word) (i : Nat) (hi : i < 64) :
    (binsOf d a b).getLsbD i = if bfPos b ≤ i ∧ i < bfPos b + bfLen b then a.getLsbD (i - bfPos b) else d.getLsbD i := by
  simp only [binsOf, BitVec.getLsbD_or, BitVec.getLsbD_and, BitVec.getLsbD_not, BitVec.getLsbD_ofNat, testBit_mask, testBit_place,
    BitVec.testBit_toNat]
  by_cases hlo : bfPos b ≤ i <;> by_cases hhi : i < bfPos b + bfLen b <;> simp [hi, hlo, hhi]

end Sys2Proof.Machine

namespace Sys2Proof

/-! The words of major 0x02 that are refused (R66, R122). -/

theorem bits_top_leNat (b0 b1 b2 b3 : Byte) : bits (leNat [b0, b1, b2, b3]) 31 24 = b3.toNat := by
  simp only [bits, leNat]; omega
theorem bits_nibble_leNat (b0 b1 b2 b3 : Byte) : bits (leNat [b0, b1, b2, b3]) 23 20 = b2.toNat / 16 := by
  simp only [bits, leNat]; omega
theorem regAt_rb_leNat (b0 b1 b2 b3 : Byte) :
    (regAt (leNat [b0, b1, b2, b3]) 15).val = b1.toNat / 128 + 2 * (b2.toNat % 8) := by
  simp only [regAt, Fin.val_ofNat, leNat]; omega

theorem decode32_major02 (w : Nat) (mw : Option Nat) (hmajor : bits w 6 1 = 0x02) : decode32 w mw = decMajor02 w := by
  simp only [decode32, hmajor]

/-- The selection with a code that is no condition. -/
theorem decMajor02_sel_of_reserved (w : Nat) (hfn : bits w 31 24 = 1) (hcond : Cond.of (bits w 23 20) = none) :
    decMajor02 w = rsv := by
  simp only [decMajor02, hfn, hcond]

/-- A count whose field rb is not zero. -/
theorem decMajor02_count_of_rb (w : Nat) (hfn : bits w 31 24 = 0) (hcount : bits w 23 20 < 3) (hrb : regAt w 15 ≠ 0) :
    decMajor02 w = rsv := by
  have hneed (k : Dec) : need (!bit w 19 && regAt w 15 == 0) k = rsv := by simp [need, hrb]
  have hcases : bits w 23 20 = 0 ∨ bits w 23 20 = 1 ∨ bits w 23 20 = 2 := by omega
  obtain hop | hop | hop := hcases <;> simp only [decMajor02, hfn, hop, hneed]

/-- RESERVED_FIELD of major 0x02 by the bytes of the word: the selection with cond 15, and a count with rb not zero. -/
theorem decode_major02_reserved (b0 b1 b2 b3 : Byte) (hmajor : b0.toNat % 128 = 5)
    (hfield : b3.toNat = 1 ∧ b2.toNat / 16 = 15 ∨ b3.toNat = 0 ∧ b2.toNat / 16 < 3 ∧ b1.toNat / 128 + 2 * (b2.toNat % 8) ≠ 0) :
    decode [b0, b1, b2, b3] = rsv := by
  rw [decode_four_bytes _ _ _ _ (by omega), decode32_major02 _ _ (by rw [bits_major_leNat]; omega)]
  obtain ⟨hfn, hcond⟩ | ⟨hfn, hcount, hrb⟩ := hfield
  · apply decMajor02_sel_of_reserved
    · rw [bits_top_leNat, hfn]
    · rw [bits_nibble_leNat, hcond]; rfl
  · apply decMajor02_count_of_rb
    · rw [bits_top_leNat, hfn]
    · rwa [bits_nibble_leNat]
    · intro h
      exact hrb (by rw [← regAt_rb_leNat b0 b1 b2 b3, h]; rfl)

end Sys2Proof
end

section
open Sys2Proof Sys2Proof.Machine

/-- Settles O2: each instruction by the register it writes, what that value is by the laws of its operation, and the refused words by
their fields. -/
theorem multiplyDivideAndBits : Obligations.MultiplyDivideAndBits := by
  refine ⟨fun s p c h d a b => ?products, fun s p c h d a b cc => ?bits⟩
  case products =>
    intro x y
    exact ⟨writes_alu h rfl rfl, ⟨mulhI x y, writes_alu h rfl rfl, mulhI_spec x y⟩,
      ⟨mulhN x y, writes_alu h rfl rfl, mulhN_spec x y⟩,
      fun hy => ⟨writes_divide h hy rfl (divI_eq_sdiv x y), writes_divide h hy rfl (divN_eq_udiv x y),
        writes_divide h hy rfl (remI_eq_srem x y), writes_divide h hy rfl (remN_eq_umod x y), srem_eq_sub_mul_sdiv x y⟩⟩
  case bits =>
    intro x pos len
    obtain ⟨m, hm, hclz, hclz_zeros, hclz_one⟩ := exists_clzOf_eq x
    obtain ⟨n, hn, hctz, hctz_zeros, hctz_one⟩ := exists_ctzOf_eq x
    have hpos : bfPos (c.r b) = pos := bfPos_eq _
    have hlen : bfLen (c.r b) = len := bfLen_eq _
    refine ⟨⟨m, hm, writes_alu h rfl hclz, hclz_zeros, hclz_one⟩, ⟨n, hn, writes_alu h rfl hctz, hctz_zeros, hctz_one⟩,
      writes_alu h rfl (popOf_eq_length x), ⟨bextOf x (c.r b), writes_alu h rfl rfl, fun i => ?bext⟩,
      ⟨bextsOf x (c.r b), writes_alu h rfl rfl, fun i hi => ?bexts⟩, ⟨binsOf (c.r d) x (c.r b), writes_alu h rfl rfl, fun i hi => ?bins⟩,
      writes_alu h rfl rfl, decode_major02_reserved⟩
    case bext => rw [getLsbD_bextOf, hpos, hlen]
    case bexts => rw [getLsbD_bextsOf _ _ _ hi, hpos, hlen]
    case bins => rw [getLsbD_binsOf _ _ _ _ hi, hpos, hlen]

end

section
/-! The flags of a comparison and of a test (R120), what the conditions mean after them (R77), and how an instruction that only sets the
flags completes. -/
namespace Sys2Proof.Machine

theorem fld_setFlags (st : Word) (z n c v : Bool) {hi lo : Nat} (apart : hi < 20 ∨ 24 ≤ lo) :
    fld (setFlags st z n c v) hi lo = fld st hi lo := fld_setFld_ne st 20 4 _ hi lo (by decide) apart

/-- A difference that leaves the signed range has wrapped to the other sign. -/
theorem toInt_sub_neg_iff_of_wrapped {x y : Word} (h : (x - y).toInt ≠ x.toInt - y.toInt) :
    (x - y).toInt < 0 ↔ y.toInt ≤ x.toInt := by
  have hx := x.toInt_lt; have hx' := x.le_toInt; have hy := y.toInt_lt; have hy' := y.le_toInt
  rw [BitVec.toInt_sub] at h ⊢
  rw [Int.bmod_def] at h ⊢
  omega

/-- V of R120: operands of unlike sign whose difference has not the sign of the first are those whose difference wraps. -/
theorem overflow_eq_wrapped (x y : Word) :
    (x.msb != y.msb && (x - y).msb != x.msb) = decide ((x - y).toInt ≠ x.toInt - y.toInt) := by
  have hx := x.toInt_lt; have hx' := x.le_toInt; have hy := y.toInt_lt; have hy' := y.le_toInt
  have hr := (x - y).toInt_lt; have hr' := (x - y).le_toInt
  have hwrap := BitVec.toInt_sub (x := x) (y := y)
  rw [Int.bmod_def] at hwrap
  rw [Bool.eq_iff_iff, decide_eq_true_iff]
  simp only [BitVec.msb_eq_toInt, Bool.and_eq_true, bne_iff_ne, ne_eq, decide_eq_decide]
  omega

/-- The flags of a comparison by what they say of its operands (R120). -/
theorem cmpFlags_eq_setFlags (st x y : Word) :
    cmpFlags st x y
      = setFlags st (x == y) (x - y).msb (decide (y.toNat ≤ x.toNat)) (decide ((x - y).toInt ≠ x.toInt - y.toInt)) := by
  have hzero : (x - y == 0) = (x == y) := by
    rw [Bool.eq_iff_iff, beq_iff_eq, beq_iff_eq, ← BitVec.toNat_inj, ← BitVec.toNat_inj, BitVec.toNat_sub]
    have hx := x.isLt; have hy := y.isLt
    show (2 ^ 64 - y.toNat + x.toNat) % 2 ^ 64 = 0 ↔ _
    omega
  rw [← overflow_eq_wrapped, ← hzero, cmpFlags]

@[simp] theorem flagZ_cmpFlags (st x y : Word) : flagZ (cmpFlags st x y) = (x == y) := by
  rw [cmpFlags_eq_setFlags, flagZ_setFlags]
@[simp] theorem flagN_cmpFlags (st x y : Word) : flagN (cmpFlags st x y) = (x - y).msb := by
  rw [cmpFlags_eq_setFlags, flagN_setFlags]
@[simp] theorem flagC_cmpFlags (st x y : Word) : flagC (cmpFlags st x y) = decide (y.toNat ≤ x.toNat) := by
  rw [cmpFlags_eq_setFlags, flagC_setFlags]
@[simp] theorem flagV_cmpFlags (st x y : Word) : flagV (cmpFlags st x y) = decide ((x - y).toInt ≠ x.toInt - y.toInt) := by
  rw [cmpFlags_eq_setFlags, flagV_setFlags]

/-! The conditions after a comparison: those that R77 gives by themselves; the others are their opposites. -/

theorem holds_eq_cmpFlags (st x y : Word) : holds (cmpFlags st x y) .eq = true ↔ x = y := by
  rw [holds, flagZ_cmpFlags, beq_iff_eq]
theorem holds_hs_cmpFlags (st x y : Word) : holds (cmpFlags st x y) .hs = true ↔ y.toNat ≤ x.toNat := by
  rw [holds, flagC_cmpFlags, decide_eq_true_iff]
theorem holds_hi_cmpFlags (st x y : Word) : holds (cmpFlags st x y) .hi = true ↔ y.toNat < x.toNat := by
  rw [holds_hi_iff, flagC_cmpFlags, flagZ_cmpFlags, decide_eq_true_iff, beq_iff_eq, ← BitVec.toNat_inj]
  omega
/-- N and V agree where the difference, wrapped or not, tells that x is not below y. -/
theorem holds_ge_cmpFlags (st x y : Word) : holds (cmpFlags st x y) .ge = true ↔ y.toInt ≤ x.toInt := by
  rw [holds_ge_iff, flagN_cmpFlags, flagV_cmpFlags, BitVec.msb_eq_toInt, decide_eq_true_iff, decide_eq_true_iff]
  by_cases hexact : (x - y).toInt = x.toInt - y.toInt
  · omega
  · exact (iff_true_right hexact).trans (toInt_sub_neg_iff_of_wrapped hexact)
theorem holds_gt_cmpFlags (st x y : Word) : holds (cmpFlags st x y) .gt = true ↔ y.toInt < x.toInt := by
  rw [holds_gt_iff, ← holds_ge_iff, holds_ge_cmpFlags, flagZ_cmpFlags, beq_iff_eq, ← BitVec.toInt_inj]
  omega

/-! A core with its flags set: of ST no other field has changed, RC, PP and SVC among them (R60). -/

/-- The core with Z, N, C and V as given. -/
def Core.withFlags (c : Core) (z n cf v : Bool) : Core := { c with st := setFlags c.st z n cf v }

theorem Core.withFlags_stBits (c : Core) (z n cf v : Bool) {hi lo : Nat} (apart : hi < 20 ∨ 24 ≤ lo) :
    (c.withFlags z n cf v).stBits hi lo = c.stBits hi lo := fld_setFlags c.st z n cf v apart
@[simp] theorem Core.withFlags_rc (c : Core) (z n cf v : Bool) : (c.withFlags z n cf v).rc = c.rc :=
  c.withFlags_stBits z n cf v (by decide)
@[simp] theorem Core.withFlags_pp (c : Core) (z n cf v : Bool) : (c.withFlags z n cf v).pp = c.pp := by
  rw [Core.pp, Core.withFlags_stBits c z n cf v (by decide), Core.pp]

end Sys2Proof.Machine

namespace Sys2Proof
open Machine

/-- An instruction of a length completes with the flags Z, N, C and V as given, and leaves everything else alone. -/
def SetsFlags (i : Instr) (s : State) (c : Core) (len : Nat) (z n cf v : Bool) : Prop :=
  ∃ e, Becomes i s e ∧ flagZ e.st = z ∧ flagN e.st = n ∧ flagC e.st = cf ∧ flagV e.st = v
    ∧ SameSt c e (stRetire ||| 0xF00000) ∧ SameRegs c e [] ∧ Passed c e len ∧ Untouched c e

/-- Setting the flags changes no bit of ST outside their mask. -/
theorem getLsbD_setFlags_of_mask (st : Word) (z n cf v : Bool) (i : Nat) (h : (0xF00000 : Word).getLsbD i = false) :
    (setFlags st z n cf v).getLsbD i = st.getLsbD i := by
  have hne (j : Nat) (hj : (0xF00000 : Word).getLsbD j = true) : i ≠ j := by
    rintro rfl; rw [hj] at h; cases h
  rw [getLsbD_setFlags, if_neg (hne 20 rfl), if_neg (hne 21 rfl), if_neg (hne 22 rfl), if_neg (hne 23 rfl)]

/-- An instruction passes alike whether the flags are set first or not. -/
theorem passed_of_withFlags {c e : Core} {z n cf v : Bool} {len : Nat} (h : Passed (c.withFlags z n cf v) e len) : Passed c e len := by
  have hsvc : (c.withFlags z n cf v).stBits 38 38 = c.stBits 38 38 := c.withFlags_stBits z n cf v (by decide)
  simp only [Passed, NextPc, Core.withFlags_rc, Core.withFlags_pp, hsvc] at h
  exact h

/-- Setting the flags and retiring is what `SetsFlags` says. -/
theorem setsFlags_of {i : Instr} {s : State} {c : Core} {len cyc pj : Nat} {z n cf v : Bool}
    (h : Becomes i s ((c.withFlags z n cf v).retire len cyc pj)) : SetsFlags i s c len z n cf v := by
  have hst (j : Nat) (hj : stRetire.getLsbD j = false) :
      ((c.withFlags z n cf v).retire len cyc pj).st.getLsbD j = (setFlags c.st z n cf v).getLsbD j := retire_sameSt _ len cyc pj j hj
  refine ⟨_, h, (hst 20 rfl).trans (flagZ_setFlags ..), (hst 21 rfl).trans (flagN_setFlags ..), (hst 22 rfl).trans (flagC_setFlags ..),
    (hst 23 rfl).trans (flagV_setFlags ..), fun j hj => ?sameSt, fun r _ => retire_r _ len cyc pj r,
    passed_of_withFlags (retire_passed _ len cyc pj), retire_untouched (c.withFlags z n cf v) len cyc pj⟩
  case sameSt =>
    obtain ⟨hretire, hmask⟩ := Bool.or_eq_false_iff.mp (BitVec.getLsbD_or.symm.trans hj)
    exact (hst j hretire).trans (getLsbD_setFlags_of_mask _ _ _ _ _ j hmask)

/-- An instruction of the shape `aluSt` that computes ST with the flags set sets them, and changes nothing else. -/
theorem setsFlags_aluSt {i : Instr} {s : State} {p : Plot} {c : Core} {len : Nat} {f : Core → Word} {z n cf v : Bool} (h : At s p c)
    (hi : Machine.exec i s = aluSt s len f) (hf : f c = setFlags c.st z n cf v) : SetsFlags i s c len z n cf v :=
  setsFlags_of ((hi.trans (upd_at h.1 h.2 _)).trans (by rw [hf]; rfl))

end Sys2Proof
end

section
open Sys2Proof Sys2Proof.Machine

/-- Settles O3: the order by the conditions that R77 gives by themselves and by their opposites, the instructions by the flags that
they set. -/
theorem comparisonFlags : Obligations.ComparisonFlags := by
  refine ⟨fun st x y => ?order, fun s p c h d a b i z => ?instructions⟩
  case order =>
    intro f
    have heq : holds f .eq = true ↔ x = y := holds_eq_cmpFlags st x y
    have hhs : holds f .hs = true ↔ y.toNat ≤ x.toNat := holds_hs_cmpFlags st x y
    have hhi : holds f .hi = true ↔ y.toNat < x.toNat := holds_hi_cmpFlags st x y
    have hge : holds f .ge = true ↔ y.toInt ≤ x.toInt := holds_ge_cmpFlags st x y
    have hgt : holds f .gt = true ↔ y.toInt < x.toInt := holds_gt_cmpFlags st x y
    exact ⟨heq, holds_opposite_iff rfl heq, hhs, (holds_opposite_iff rfl hhs).trans Nat.not_le, hhi,
      (holds_opposite_iff (holds_ls_eq_not_hi f) hhi).trans Nat.not_lt, hge, (holds_opposite_iff rfl hge).trans Int.not_le, hgt,
      (holds_opposite_iff (holds_le_eq_not_gt f) hgt).trans Int.not_lt⟩
  case instructions =>
    intro sets compares tests
    exact ⟨setsFlags_aluSt h rfl (cmpFlags_eq_setFlags ..), setsFlags_aluSt h rfl (cmpFlags_eq_setFlags ..),
      setsFlags_aluSt h rfl (cmpFlags_eq_setFlags ..), setsFlags_aluSt h rfl (cmpFlags_eq_setFlags ..),
      setsFlags_aluSt h rfl rfl, setsFlags_aluSt h rfl rfl⟩

end
